-- ==== Sys2Proof/Word.lean ====
section
/-! DEFINITION. The words and the small index types of the Jostran 2604 (00_scope, "Figures shared by all chapters").
Bit vectors stand only where the manual treats the thing as bits: bytes, identifiers, version and floor
words, lane sets. Counts, lengths and indices are natural numbers. -/

namespace Sys2Proof

/-- One byte of a frame, a record, a manifest or a memory. -/
abbrev Byte := BitVec 8
/-- A 16-bit field (target identifier, acknowledged block index). -/
abbrev Word16 := BitVec 16
/-- A 32-bit field (image version, floor, page sequence). -/
abbrev Word32 := BitVec 32
/-- An 11-bit base-format CAN identifier (00_scope, Conventions). -/
abbrev Ident := BitVec 11
/-- A set of trunk lanes: bit n stands for lane n (R155, R181). -/
abbrev LaneSet := BitVec 4
/-- A trunk lane, 0 to 3. -/
abbrev Lane := Fin 4
/-- A branch port, 0 to 3. -/
abbrev Port := Fin 4
/-- A stream number, 0 to 7. -/
abbrev StreamNo := Fin 8
/-- A staging slot number, 0 to 31. -/
abbrev SlotNo := Fin 32
/-- The data bytes of a CAN FD frame; its length is the frame's data length. -/
abbrev Frame := List Byte

end Sys2Proof
end

