-- ==== Sys2Proof/Syntax.lean ====
section
/-! DEFINITION. The commands of the part: one constructor per row of spec/opcode_table.json.
A command is one whole step of the manual: a frame that a lane or port hands over, the judging of one request
the control interpreter has taken, the expiry of one timer, the end of one transmission, job or NVM step, a
movement of the supply-sense input, or a reset. -/

namespace Sys2Proof

/-- How a controller reports the end of a transmission (R111, R154): the part treats the two alike. -/
inductive TxOutcome where
  /-- the frame was sent -/
  | sent
  /-- the controller gave the frame up -/
  | abandoned
  deriving DecidableEq, Repr

/-- What an NVM step's readback shows (R126). -/
inductive Readback where
  /-- the byte reads the value written, or every byte of the erased unit reads 0xFF -/
  | asMeant
  /-- the byte (one entry) or the unit (all its bytes in order) reads these values -/
  | reads (bytes : List Byte)
  deriving DecidableEq, Repr

/-- The commands of spec/opcode_table.json.
A request row (`manifestBegin` to `noCodeFrame`) is the interpreter's judging of the request it has taken from
a control queue (R151, R152): its operands are the lane the request arrived on and the frame as it arrived. -/
inductive Instr where
  /-- POWER_ON_RESET (R148): the sensed voltage in millivolts and whether RESETN is low. -/
  | powerOnReset (senseMv : Nat) (resetnLow : Bool)
  /-- START_UP (R130): the reset has ended, or a RESTART is acted on; the first measurement in millivolts. -/
  | startUp (senseMv : Nat)
  /-- SEGMENT_FRAME (R53): a frame on SEG_ID. -/
  | segmentFrame (lane : Lane) (data : Frame)
  /-- CONTROL_FRAME (R51): a frame on CTL_ID. -/
  | controlFrame (lane : Lane) (data : Frame)
  /-- OTHER_TRUNK_FRAME (R49): a trunk frame with the identifier given. -/
  | otherTrunkFrame (lane : Lane) (ident : Ident) (data : Frame)
  /-- QUARANTINE_EXPIRY (R59). -/
  | quarantineExpiry (lane : Lane)
  /-- MANIFEST_BEGIN (R7). -/
  | manifestBegin (lane : Lane) (frame : Frame)
  /-- MANIFEST_DATA (R8). -/
  | manifestData (lane : Lane) (frame : Frame)
  /-- MANIFEST_END (R11). -/
  | manifestEnd (lane : Lane) (frame : Frame)
  /-- STREAM_START (R29, R30). -/
  | streamStart (lane : Lane) (frame : Frame)
  /-- STREAM_LANES (R32). -/
  | streamLanes (lane : Lane) (frame : Frame)
  /-- STREAM_ABORT (R42). -/
  | streamAbort (lane : Lane) (frame : Frame)
  /-- STREAM_CLOSE (R43). -/
  | streamClose (lane : Lane) (frame : Frame)
  /-- KEY_INSTALL (R141). -/
  | keyInstall (lane : Lane) (frame : Frame)
  /-- FLUSH (R174). -/
  | flush (lane : Lane) (frame : Frame)
  /-- SNAPSHOT (R179). -/
  | snapshot (lane : Lane) (frame : Frame)
  /-- PARAM_WRITE (R156). -/
  | paramWrite (lane : Lane) (frame : Frame)
  /-- PARAM_READ (R160). -/
  | paramRead (lane : Lane) (frame : Frame)
  /-- TABLE_SELECT (R161). -/
  | tableSelect (lane : Lane) (frame : Frame)
  /-- CURSOR_SET (R161). -/
  | cursorSet (lane : Lane) (frame : Frame)
  /-- TABLE_READ in mode DIRECT (R162). -/
  | direct (lane : Lane) (frame : Frame)
  /-- TABLE_READ in mode AT_CURSOR (R162). -/
  | atCursor (lane : Lane) (frame : Frame)
  /-- TABLE_READ in mode POST_INC (R162). -/
  | postInc (lane : Lane) (frame : Frame)
  /-- TABLE_READ in mode PRE_INC (R162). -/
  | preInc (lane : Lane) (frame : Frame)
  /-- TABLE_READ in mode OFFSET (R162). -/
  | offset (lane : Lane) (frame : Frame)
  /-- RESTART (R164). -/
  | restart (lane : Lane) (frame : Frame)
  /-- A control frame whose code names no request (R152, step 3). -/
  | unknownCode (lane : Lane) (frame : Frame)
  /-- A control frame of data length 0 or 1 (R152, steps 1 and 2). -/
  | noCodeFrame (lane : Lane) (frame : Frame)
  /-- TRUNK_TX_END (R154). -/
  | trunkTxEnd (lane : Lane) (outcome : TxOutcome)
  /-- BLOCK_JOB_DONE (R95). -/
  | blockJobDone
  /-- MAC_JOB_DONE (R100). -/
  | macJobDone
  /-- BRANCH_TX_END (R111). -/
  | branchTxEnd (port : Port) (outcome : TxOutcome)
  /-- BRANCH_FRAME (R112): a frame a branch port's controller accepts. -/
  | branchFrame (port : Port) (ident : Ident) (data : Frame)
  /-- WRITTEN (R114): an acknowledgement frame with result WRITTEN. -/
  | written (port : Port) (ident : Ident) (block : Word16)
  /-- BUSY (R115, R123). -/
  | busy (port : Port) (ident : Ident) (block : Word16)
  /-- REJECTED (R116, R123). -/
  | rejected (port : Port) (ident : Ident) (block : Word16)
  /-- ACTIVATED (R123). -/
  | activated (port : Port) (ident : Ident) (block : Word16)
  /-- ACK_TIMEOUT (R118, R119, R123). -/
  | ackTimeout (stream : StreamNo)
  /-- NVM_STEP_DONE (R126). -/
  | nvmStepDone (readback : Readback)
  /-- STALL_EXPIRY (R36). -/
  | stallExpiry (stream : StreamNo)
  /-- QUIET_EXPIRY (R34). -/
  | quietExpiry (stream : StreamNo) (lane : Lane)
  /-- DEPARTURE_BEGIN (R146): the sensed voltage, in millivolts, now departs. -/
  | departureBegin (senseMv : Nat)
  /-- DEPARTURE_END (R146): the sensed voltage, in millivolts, no longer departs. -/
  | departureEnd (senseMv : Nat)
  /-- FILTER_EXPIRY (R146). -/
  | filterExpiry
  /-- PACKET_TIMER_EXPIRY (R173). -/
  | packetTimerExpiry
  /-- ABSOLUTE_TIMER_EXPIRY (R173). -/
  | absoluteTimerExpiry
  deriving DecidableEq, Repr

end Sys2Proof
end

