-- ==== Sys2Proof/Config.lean ====
section
/-! DEFINITION. What an implementation fixes and the manual leaves open.
The manual leaves exactly one kind of value open: the content that a reset leaves in the byte or erase unit of
an NVM step that it cuts short (R126, "in an unknown state"). It is the free value `freeByte`, which has no
body: nothing can be proved about its values. See notes/assumptions/2. -/

namespace Sys2Proof

/-- FREE VALUE (notes/assumptions/2): the n-th byte left unknown by a cut NVM step (R126). `State.freeIndex`
counts how many have been used, so that every use is a fresh value. -/
opaque Config.freeByte : Nat → Byte

end Sys2Proof
end

