-- ==== Sys2Proof/Machine/State.lean ====
section
/-! DEFINITION. The state of the Jostran 2604 as plain data, its value at reset, and the reasons a step can stop.
Every piece of state the manual gives the part is a field here (INVENTORY.md, "State").
Three things the manual names are views of stored fields and are computed where they are read, so that they
have one home: the free-extent pool (the extents in no stream's list, R3), a stream's lane set (the lanes that
have a member record, R25) and the report unit's queued bytes (the sum of the queued lengths, R167).
A timer is `some n` while it runs with the interval of n milliseconds fixed when it started, `none` while stopped. -/

namespace Sys2Proof.Machine

/-- Memory in canonical form: addresses strictly rising, no entry equal to what an unlisted address reads as. -/
abbrev Memory := List Host.Cell

/-- Stream states (R25). -/
inductive StreamState where
  | vacant | loading | authenticating | ready | active | committing | ending | done | faulted | aborting
  deriving DecidableEq, Repr

/-- Fault and close causes (R27). -/
inductive Cause where
  | digest | stalled | targetSilent | targetReject | storeFail
  | authFail | inconsistent | identConflict | targetBusy | unknownTarget | noTargetRoom | belowFloor
  | aborted | closed
  deriving DecidableEq, Repr

/-- Lane integrity states (R47). -/
inductive Integrity where
  | opened | blocked | guarded
  deriving DecidableEq, Repr

/-- Member states (R25). -/
inductive MemberState where
  | active | quiet
  deriving DecidableEq, Repr

/-- Supply states (R144). -/
inductive SupplyState where
  | ok | low
  deriving DecidableEq, Repr

/-- Slot states (R66). -/
inductive SlotState where
  | free | filling | complete | hashing | verified | sending | awaiting
  deriving DecidableEq, Repr

/-- Key states (R129, R140). -/
inductive KeyState where
  | erased | pending | installed | failed
  deriving DecidableEq, Repr

/-- The two pages of the version store (R126). -/
inductive PageId where
  | a | b
  deriving DecidableEq, Repr

/-- Causes of a start-up (R132). -/
inductive StartCause where
  | power | request
  deriving DecidableEq, Repr

/-- Store results of a start-up scan (R132). -/
inductive StoreResult where
  | empty | clean | recovered
  deriving DecidableEq, Repr

/-- Response statuses (R153). -/
inductive Status where
  | ok | clamped | accepted | state | range | order | noRoom | conflict | noKey | malformed | unknown
  deriving DecidableEq, Repr

/-- The whole part's phase: held in power-on reset (R148), start-up scan not yet ended (R48), or running. -/
inductive Phase where
  | inReset | scanning | running
  deriving DecidableEq, Repr

/-- The inputs at the part's pins: the sensed supply voltage in millivolts and RESETN (00_scope). -/
structure Pins where
  senseMv : Nat
  resetnLow : Bool
  deriving DecidableEq, Repr

/-- The supply watch (R144). -/
structure Supply where
  state : SupplyState
  filter : Option Nat
  deriving DecidableEq, Repr

/-- The 19 parameters (R155). -/
structure Params where
  segId : Ident
  ctlId : Ident
  rspId : Ident
  laneEnable : LaneSet
  controlLanes : LaneSet
  reportLane : Lane
  faultThreshold : Nat
  guardCount : Nat
  quarantine : Nat
  stallTime : Nat
  gapLimit : Nat
  quietTime : Nat
  ackShort : Nat
  ackLong : Nat
  busyLimit : Nat
  packetTimer : Nat
  absoluteTimer : Nat
  supplyLevel : Nat
  supplyFilter : Nat
  deriving DecidableEq, Repr

/-- A control request the interpreter has taken: its arrival lane and the frame as it arrived (R151). -/
structure Request where
  lane : Lane
  frame : Frame
  deriving DecidableEq, Repr

/-- The control interpreter (R150). `judging` is the request being judged, `none` while idle (R151).
`restartIssued` is set from the issue of a RESTART to the version store until start-up begins (R164). -/
structure Interp where
  lastServed : Lane
  restartPending : Bool
  restartIssued : Bool
  table : Fin 7
  cursor : Nat
  judging : Option Request
  deriving DecidableEq, Repr

/-- A lane receiver (R47). Its ten counters are held with all counters in `Counters` (R176). -/
structure LaneRx where
  integrity : Integrity
  faults : Nat
  good : Nat
  quarantine : Option Nat
  queue : List Frame
  deriving DecidableEq, Repr

/-- The two slots of a trunk transmit section (R154). -/
inductive TrunkSlot where
  | response | report
  deriving DecidableEq, Repr

/-- The frame a trunk lane's controller is transmitting: its slot and the identifier it was handed over with. -/
structure TrunkSending where
  slot : TrunkSlot
  ident : Ident
  deriving DecidableEq, Repr

/-- A trunk lane's transmit section (R154): the padded frame in each slot, and what is in transmission. -/
structure TrunkTx where
  response : Option Frame
  report : Option Frame
  sending : Option TrunkSending
  deriving DecidableEq, Repr

/-- An accepted manifest: the header fields of R1 and the derived quantities of R20. -/
structure Accepted where
  format : Byte
  target : Word16
  port : Port
  releaseId : Ident
  ackId : Ident
  version : Word32
  newFloor : Word32
  imageLength : Nat
  segmentUnit : Nat
  perBlock : Nat
  blockCount : Nat
  releaseRetryLimit : Nat
  blockRetryLimit : Nat
  newTarget : Bool
  imageTag : List Byte
  reserved : List Byte
  segmentCount : Nat
  blockLength : Nat
  lastSegmentLength : Nat
  lastBlockSegments : Nat
  lastBlockBytes : Nat
  deriving DecidableEq, Repr

/-- A member record (R25): the member's state and its quiet timer. -/
structure Member where
  state : MemberState
  timer : Option Nat
  deriving DecidableEq, Repr

/-- SENDING or AWAITING, the two values of a present release stage (R25). -/
inductive StageKind where
  | sending | awaiting
  deriving DecidableEq, Repr

/-- A release stage: its kind and the block index it names, N for the END frame (R25). -/
structure Stage where
  kind : StageKind
  block : Nat
  deriving DecidableEq, Repr

/-- A stream descriptor (R25). The lane set is the set of lanes whose `members` entry is present. -/
structure Stream where
  state : StreamState
  cause : Option Cause
  manifest : Option Accepted
  floorAtAcceptance : Option Word32
  members : Vector (Option Member) 4
  window : Nat
  reservationHeld : Bool
  lowEdge : Nat
  stallCount : Nat
  stallTimer : Option Nat
  stage : Option Stage
  deriving DecidableEq, Repr

/-- A stream's part of the manifest store (R3): its extent list and its manifest header record. -/
structure ManifestRec where
  extents : List Nat
  declaredLength : Option Nat
  declaredBlocks : Option Nat
  received : Nat
  header : Vector Byte 64
  expectedMac : Option (List Byte)
  deriving DecidableEq, Repr

/-- What a held slot is held for: owner stream, block index and expected segment count are present together (R66). -/
structure Holder where
  stream : StreamNo
  block : Nat
  expected : Nat
  deriving DecidableEq, Repr

/-- A slot record (R66). `filled` has bit p set when position p is filled. -/
structure Slot where
  state : SlotState
  holder : Option Holder
  filled : BitVec 64
  byteCount : Nat
  failCount : Nat
  retryCount : Nat
  busyCount : Nat
  nextFrame : Option Nat
  deriving DecidableEq, Repr

/-- A job of the digest FIFO (R89). -/
inductive Job where
  | block (slot : SlotNo)
  | mac (stream : StreamNo)
  deriving DecidableEq, Repr

/-- The digest engine (R89): the FIFO, head first, and whether the head is running. -/
structure Engine where
  fifo : List Job
  busy : Bool
  deriving DecidableEq, Repr

/-- The two intervals of the acknowledgement timer (R117). -/
inductive AckKind where
  | short | long
  deriving DecidableEq, Repr

/-- A running acknowledgement timer: its kind and the interval in milliseconds it started with (R117). -/
structure AckTimer where
  kind : AckKind
  ms : Nat
  deriving DecidableEq, Repr

/-- A stream's release context (R104). -/
structure ReleaseCtx where
  ackTimer : Option AckTimer
  resendHeld : Bool
  startHeld : Bool
  endRetry : Nat
  endBusy : Nat
  deriving DecidableEq, Repr

/-- A branch port's transmit position (R105): the frame's stream, block index and frame number, whether it is the last
frame of its item, the frame itself, and `answered`, set when an END frame was answered before its transmission
ended (notes/assumptions/9). -/
structure TxPosition where
  stream : StreamNo
  block : Nat
  number : Nat
  isLast : Bool
  ident : Ident
  data : Frame
  answered : Bool
  deriving DecidableEq, Repr

/-- A branch transmitter (R105). -/
structure BranchPort where
  position : Option TxPosition
  pointer : StreamNo
  deriving DecidableEq, Repr

/-- The fields of a version record that the part chooses (R127). -/
structure VersionRecord where
  target : Word16
  version : Word32
  floor : Word32
  count : Nat
  deriving DecidableEq, Repr

/-- A row of the governing table (R129): a record and where it stands. -/
structure GovRow where
  record : VersionRecord
  page : PageId
  slot : Nat
  deriving DecidableEq, Repr

/-- An erase unit (R126). -/
inductive NvmUnit where
  | page (p : PageId)
  | key
  deriving DecidableEq, Repr

/-- A step of the version store (R126). The address is the NVM address of Memory.lean. -/
inductive NvmStep where
  | program (address : Nat) (value : Byte)
  | erase (unit : NvmUnit)
  deriving DecidableEq, Repr

/-- An NVM operation waiting in the operation queue or running (R133). -/
inductive NvmOp where
  | commit (stream : StreamNo)
  | installKey (key : List Byte)
  deriving DecidableEq, Repr

/-- What the running steps belong to: the start-up scan's scrubs (R131), one of the three forms of a commit
(R135, R136, R137) with the record formed for it, or a key installation (R142). -/
inductive NvmJob where
  | scan (cause : StartCause)
  | append (stream : StreamNo) (record : VersionRecord) (page : PageId) (slot : Nat)
  | compact (stream : StreamNo) (record : VersionRecord) (into : PageId) (sequence : Word32)
  | newPage (stream : StreamNo) (record : VersionRecord)
  | installKey
  deriving DecidableEq, Repr

/-- The operation in progress: the steps it has still to end, and whether the first of them has started. -/
structure NvmRun where
  job : NvmJob
  steps : List NvmStep
  stepping : Bool
  deriving DecidableEq, Repr

/-- The version store's volatile state (R129). The operation at the head of `ops` is the one `run` carries out. -/
structure Store where
  governing : List GovRow
  activePage : Option PageId
  activeSeq : Option Word32
  appendPos : Nat
  erasedA : Bool
  erasedB : Bool
  keyState : KeyState
  ops : List NvmOp
  run : Option NvmRun
  deriving DecidableEq, Repr

/-- Report records (R166). -/
inductive Record where
  | stream (stream : StreamNo) (entered : StreamState) (cause : Option Cause)
  | window (stream : StreamNo) (lowEdge : Nat) (window : Nat)
  | refetch (stream : StreamNo) (block : Nat) (failCount : Nat)
  | gap (stream : StreamNo) (block : Nat) (positions : List Nat) (more : Bool)
  | lane (lane : Lane) (entered : Integrity)
  | member (stream : StreamNo) (lane : Lane) (entered : MemberState)
  | supply (entered : SupplyState)
  | commit (stream : StreamNo) (target : Word16) (version : Word32) (floor : Word32)
  | restarted (cause : StartCause) (result : StoreResult)
  deriving DecidableEq, Repr

/-- The report unit's queue, lost count, timers and emission flags (R167). -/
structure ReportUnit where
  queue : List Record
  lost : Nat
  packet : Option Nat
  absolute : Option Nat
  drain : Bool
  owed : Bool
  deriving DecidableEq, Repr

/-- One set of the 121 counters (R176): ten per lane in the order of R63, ten per stream in the order of R180, and
records lost. -/
structure Counters where
  lanes : Vector (Vector Nat 10) 4
  streams : Vector (Vector Nat 10) 8
  recordsLost : Nat
  deriving DecidableEq, Repr

/-- The snapshot set (R179): the copied counters and the snapshot count. -/
structure Snapshot where
  counters : Counters
  count : Nat
  deriving DecidableEq, Repr

/-- The state of the part. `freeIndex` (the next unused index of `Config.freeByte`) and `pending` (the commands
waiting, first in, first out) are the model's own; the rest is the manual's. -/
structure State where
  phase : Phase
  pins : Pins
  supply : Supply
  params : Params
  interp : Interp
  lanes : Vector LaneRx 4
  trunk : Vector TrunkTx 4
  streams : Vector Stream 8
  manifests : Vector ManifestRec 8
  entryBytes : Memory
  entryCounts : Memory
  slots : Vector Slot 32
  staging : Memory
  engine : Engine
  contexts : Vector ReleaseCtx 8
  ports : Vector BranchPort 4
  store : Store
  nvm : Memory
  report : ReportUnit
  counters : Counters
  snapshot : Snapshot
  freeIndex : Nat
  pending : List Instr
  deriving DecidableEq, Repr

/-- Why a command stops. Each is an event that the manual says cannot occur in the state it meets, so the manual
gives it no effect there; stopping is safe (notes/assumptions/3). -/
inductive Fault where
  /-- NVM_STEP_DONE while no NVM step is in progress (R126, R133). Safe. -/
  | noStepInProgress
  /-- NVM_STEP_DONE with a readback that is not one byte for a program step or not the whole unit for an erase step. Safe. -/
  | readbackShape
  /-- A request row for a request that the interpreter is not judging, or that is another request (R151, R152). Safe. -/
  | requestNotHeld
  /-- START_UP with no reset to end and no RESTART to act on, or with the supply below 6.0 V (R133, R148, R164). Safe. -/
  | noStartUpDue
  deriving DecidableEq, Repr

/-- Why a command is refused: no meaning refuses. -/
inductive Refusal where
  /-- A command that has no meaning yet, by its mnemonic: raised by `exec` alone. Safe. -/
  | notModelled (mnemonic : String)
  deriving DecidableEq, Repr

/-- The parameter defaults (R155). -/
def Params.default : Params :=
  { segId := 0x6A0#11, ctlId := 0x6A8#11, rspId := 0x6A9#11, laneEnable := 0xF#4, controlLanes := 0xF#4,
    reportLane := 0, faultThreshold := 4, guardCount := 8, quarantine := 10, stallTime := 50, gapLimit := 6,
    quietTime := 30, ackShort := 49, ackLong := 62, busyLimit := 8, packetTimer := 5, absoluteTimer := 4,
    supplyLevel := 1, supplyFilter := 20 }

/-- The interpreter's reset values (R150). -/
def Interp.idle : Interp :=
  { lastServed := 3, restartPending := false, restartIssued := false, table := 0, cursor := 0, judging := none }

/-- A lane receiver's reset values (R47). -/
def LaneRx.idle : LaneRx :=
  { integrity := .opened, faults := 0, good := 0, quarantine := none, queue := [] }

/-- Both transmit slots empty (R154). -/
def TrunkTx.idle : TrunkTx := { response := none, report := none, sending := none }

/-- A descriptor's reset values (R25). -/
def Stream.vacant : Stream :=
  { state := .vacant, cause := none, manifest := none, floorAtAcceptance := none,
    members := Vector.replicate 4 none, window := 0, reservationHeld := false, lowEdge := 0, stallCount := 0,
    stallTimer := none, stage := none }

/-- A header record's and extent list's reset values (R3). -/
def ManifestRec.empty : ManifestRec :=
  { extents := [], declaredLength := none, declaredBlocks := none, received := 0,
    header := Vector.replicate 64 0, expectedMac := none }

/-- A slot record's reset values (R66, R83). -/
def Slot.free : Slot :=
  { state := .free, holder := none, filled := 0, byteCount := 0, failCount := 0, retryCount := 0,
    busyCount := 0, nextFrame := none }

/-- The digest engine's reset values (R89). -/
def Engine.idle : Engine := { fifo := [], busy := false }

/-- A release context's reset values (R104). -/
def ReleaseCtx.idle : ReleaseCtx :=
  { ackTimer := none, resendHeld := false, startHeld := false, endRetry := 0, endBusy := 0 }

/-- A branch transmitter's reset values (R105). -/
def BranchPort.idle : BranchPort := { position := none, pointer := 7 }

/-- The version store's values at the start of start-up (R129). -/
def Store.cleared : Store :=
  { governing := [], activePage := none, activeSeq := none, appendPos := 0, erasedA := false, erasedB := false,
    keyState := .erased, ops := [], run := none }

/-- The report unit's reset values (R167). -/
def ReportUnit.idle : ReportUnit :=
  { queue := [], lost := 0, packet := none, absolute := none, drain := false, owed := false }

/-- All counters 0 (R167, R177). -/
def Counters.zero : Counters :=
  { lanes := Vector.replicate 4 (Vector.replicate 10 0), streams := Vector.replicate 8 (Vector.replicate 10 0),
    recordsLost := 0 }

/-- The part right after a power-on reset, held in it until START_UP (R148): every volatile item and every parameter at
its reset value, the non-volatile memory erased (DESIGN CHOICE, notes/assumptions/4), the supply input at 0 V and
the supply state LOW until the first measurement (DESIGN CHOICE, notes/assumptions/5), the queue of commands empty. -/
def State.reset : State :=
  { phase := .inReset
    pins := { senseMv := 0, resetnLow := false }
    supply := { state := .low, filter := none }
    params := Params.default
    interp := Interp.idle
    lanes := Vector.replicate 4 LaneRx.idle
    trunk := Vector.replicate 4 TrunkTx.idle
    streams := Vector.replicate 8 Stream.vacant
    manifests := Vector.replicate 8 ManifestRec.empty
    entryBytes := []
    entryCounts := []
    slots := Vector.replicate 32 Slot.free
    staging := []
    engine := Engine.idle
    contexts := Vector.replicate 8 ReleaseCtx.idle
    ports := Vector.replicate 4 BranchPort.idle
    store := Store.cleared
    nvm := []
    report := ReportUnit.idle
    counters := Counters.zero
    snapshot := { counters := Counters.zero, count := 0 }
    freeIndex := 0
    pending := [] }

end Sys2Proof.Machine
end

