-- ==== Sys2Proof/Machine/Memory.lean ====
section
/-! DEFINITION. Byte memories in canonical form and the four memories of the part.
A memory is a list of (address, byte) cells with rising addresses in which no cell holds the value that an unlisted
address reads as (`d` below). The part's memories: the non-volatile memory (unlisted bytes read 0xFF, erased, R126), the staging
store's data regions (R66, R67), the manifest entries' bytes and their received counts (R3; unlisted read 0). -/

namespace Sys2Proof.Machine

/-- What an unlisted address of the non-volatile memory reads as: an erased byte (R126). -/
def erasedByte : Byte := 0xFF#8

/-- The byte at address `a`, where unlisted addresses read `d`. -/
def Memory.read (d : Byte) : Memory → Nat → Byte
  | [], _ => d
  | (k, v) :: m, a => if a = k then v else Memory.read d m a

/-- Write one byte, keeping the canonical form: writing `d` removes the cell. -/
def Memory.write (d : Byte) : Memory → Nat → Byte → Memory
  | [], a, v => if v = d then [] else [(a, v)]
  | (k, w) :: m, a, v =>
    if a < k then (if v = d then (k, w) :: m else (a, v) :: (k, w) :: m)
    else if a = k then (if v = d then m else (a, v) :: m)
    else (k, w) :: Memory.write d m a v

/-- Write consecutive bytes from address `a` upward. -/
def Memory.writeAll (d : Byte) (m : Memory) (a : Nat) : List Byte → Memory
  | [] => m
  | v :: vs => Memory.writeAll d (Memory.write d m a v) (a + 1) vs

/-- The `n` bytes from address `a` upward. -/
def Memory.readAll (d : Byte) (m : Memory) (a n : Nat) : List Byte :=
  (List.range n).map fun i => m.read d (a + i)

/-- Set the `n` bytes from address `a` upward to what unlisted addresses read as. -/
def Memory.clear (m : Memory) (a n : Nat) : Memory :=
  m.filter fun c => !(decide (a ≤ c.1) && decide (c.1 < a + n))

/-- Whether the `n` bytes from address `a` upward all read `d`. -/
def Memory.isClear (d : Byte) (m : Memory) (a n : Nat) : Bool :=
  m.all fun c => !(decide (a ≤ c.1) && decide (c.1 < a + n)) || c.2 == d

/-- The canonical form. -/
def Memory.wf (d : Byte) : Memory → Bool
  | [] => true
  | (k, v) :: m => v != d && m.all (fun c => decide (k < c.1)) && Memory.wf d m

/-! ## The non-volatile memory (R126, R127, R140)
The manual numbers bytes within each erase unit; the model lays the three units one after the other
(DESIGN CHOICE, notes/assumptions/6). -/

/-- The bytes of one page (R126). -/
def pageSize : Nat := 1024
/-- The bytes of the key area (R126). -/
def keyAreaSize : Nat := 64
/-- The record slots of a page (R127). -/
def pageSlots : Nat := 63

/-- The NVM address of byte 0 of an erase unit. -/
def NvmUnit.base : NvmUnit → Nat
  | .page .a => 0
  | .page .b => pageSize
  | .key => 2 * pageSize

/-- The size of an erase unit (R126). -/
def NvmUnit.size : NvmUnit → Nat
  | .page _ => pageSize
  | .key => keyAreaSize

/-- The page an NVM address lies in, if it lies in a page. -/
def pageOfAddress (a : Nat) : Option PageId :=
  if a < pageSize then some .a else if a < 2 * pageSize then some .b else none

/-- The other page (R136). -/
def PageId.other : PageId → PageId
  | .a => .b
  | .b => .a

/-- Whether an erase unit is fully erased (R128, R131). -/
def unitErased (m : Memory) (u : NvmUnit) : Bool :=
  m.isClear erasedByte u.base u.size

/-- The NVM address of byte 0 of record slot `s` of a page (R127, section 11.4). -/
def recordAddress (p : PageId) (s : Nat) : Nat := (NvmUnit.page p).base + 16 + 16 * s

/-- The complete marker's NVM address (R127). -/
def completeMarkerAddress (p : PageId) : Nat := (NvmUnit.page p).base + 4

/-- The key marker's NVM address (R140). -/
def keyMarkerAddress : Nat := NvmUnit.key.base + 32

/-! ## The staging store's data regions (R66, R67) -/

/-- The bytes of one slot's data region (R66). -/
def slotSize : Nat := 3584

/-- The staging address of byte `o` of a slot's data region. -/
def stagingAddress (k : SlotNo) (o : Nat) : Nat := k.val * slotSize + o

/-! ## The manifest entries (R3) -/

/-- The stored bytes of one entry (R2). -/
def entrySize : Nat := 34
/-- The entries of one extent (R3). -/
def extentEntries : Nat := 64

/-- The address of byte `i` of the table entry with index `e` (extent × 64 + position). -/
def entryAddress (e i : Nat) : Nat := e * entrySize + i

end Sys2Proof.Machine
end

