-- ==== Sys2Proof/Machine/Flags.lean ====
section
/-! DEFINITION. The check computations and the saturating counts.
For a block that has no processor flags these are what the manual computes to accept, refuse or count: the header check and the
payload check of a segment frame (R55, R56), the check byte of a version record (R127), the 32-bit counters (R176). -/

namespace Sys2Proof.Machine

/-- The sum of bytes as a natural number. -/
def byteSum (bs : List Byte) : Nat := (bs.map BitVec.toNat).sum

/-- The value that header bytes (R55) and record bytes (R127) add up to modulo 256. -/
def checkTarget : Nat := 0x5A

/-- Whether bytes add up to 0x5A modulo 256 (R55, R127). -/
def checkSumOk (bs : List Byte) : Bool := byteSum bs % 256 == checkTarget

/-- The check byte that brings a sum to 0x5A modulo 256 (R127). -/
def checkByteFor (bs : List Byte) : Byte := BitVec.ofNat 8 (checkTarget + 256 - byteSum bs % 256)

/-- One step of the ones'-complement sum (R56, step 2). -/
def onesAdd (acc w : Nat) : Nat := if acc + w > 65535 then acc + w - 65535 else acc + w

/-- The ones'-complement sum of a payload over its big-endian 16-bit words (R56). -/
def onesSum (acc : Nat) : List Byte → Nat
  | [] => acc
  | [b] => onesAdd acc (b.toNat * 256)
  | b :: c :: bs => onesSum (onesAdd acc (b.toNat * 256 + c.toNat)) bs

/-- The largest value of a 32-bit counter (R176). -/
def counterMax : Nat := 4294967295

/-- Add 1, saturating at `top`. -/
def satInc (top n : Nat) : Nat := if n < top then n + 1 else n

/-- A lane's counters in the order of R63. -/
inductive LaneCounter where
  | frames | good | short | header | payload | blocked | foreign | inactive | controlForeign | controlOverrun
  deriving DecidableEq, Repr

/-- A stream number's counters in the order of R180. -/
inductive StreamCounter where
  | placed | duplicate | stale | ahead | beyond | length | digestFailures | releaseRetries | busy | untimely
  deriving DecidableEq, Repr

/-- A lane counter's place in its row (R180). -/
def LaneCounter.index : LaneCounter → Fin 10
  | .frames => 0 | .good => 1 | .short => 2 | .header => 3 | .payload => 4 | .blocked => 5 | .foreign => 6
  | .inactive => 7 | .controlForeign => 8 | .controlOverrun => 9

/-- A stream counter's place in its row (R180). -/
def StreamCounter.index : StreamCounter → Fin 10
  | .placed => 0 | .duplicate => 1 | .stale => 2 | .ahead => 3 | .beyond => 4 | .length => 5
  | .digestFailures => 6 | .releaseRetries => 7 | .busy => 8 | .untimely => 9

/-- Raise the place `i` of a row of ten counters by 1, saturating (R176). -/
def raiseAt (row : Vector Nat 10) (i : Fin 10) : Vector Nat 10 := row.set i (satInc counterMax row[i])

/-- Raise one lane counter by 1 (R63). -/
def Counters.raiseLane (c : Counters) (l : Lane) (k : LaneCounter) : Counters :=
  { c with lanes := c.lanes.set l (raiseAt c.lanes[l] k.index) }

/-- Raise one stream counter by 1 (R87, R103, R125). -/
def Counters.raiseStream (c : Counters) (i : StreamNo) (k : StreamCounter) : Counters :=
  { c with streams := c.streams.set i (raiseAt c.streams[i] k.index) }

/-- Raise records lost by 1 (R178). -/
def Counters.raiseLost (c : Counters) : Counters :=
  { c with recordsLost := satInc counterMax c.recordsLost }

end Sys2Proof.Machine
end

