-- ==== Sys2Proof/Machine/Operands.lean ====
section
/-! DEFINITION. The operand forms: how frames, records and codes are read and laid out (chapter 11, R181, R182).
Multi-byte fields are big-endian. A byte that a frame does not hold reads 0 here; every reader tests the length it needs
before it uses a field. -/

namespace Sys2Proof.Machine

/-! ## Bytes and fields -/

/-- The byte at offset `i` (0 past the end). -/
def byteAt (bs : List Byte) (i : Nat) : Byte := bs.getD i 0

/-- The unsigned value of a big-endian byte string (R181). -/
def beValue (bs : List Byte) : Nat := bs.foldl (fun acc b => acc * 256 + b.toNat) 0

/-- The unsigned value of the `n`-byte field at offset `i` (R181, R182). -/
def fieldAt (bs : List Byte) (i n : Nat) : Nat := beValue ((bs.drop i).take n)

/-- A value as `n` big-endian bytes (R181). -/
def beBytes : Nat → Nat → List Byte
  | 0, _ => []
  | n + 1, v => BitVec.ofNat 8 (v / 256 ^ n) :: beBytes n v

/-- One byte holding a small number. -/
def byteOf (n : Nat) : Byte := BitVec.ofNat 8 n

/-- The valid CAN FD data lengths (00_scope, Conventions; R181). -/
def canFdLengths : List Nat := [0, 1, 2, 3, 4, 5, 6, 7, 8, 12, 16, 20, 24, 32, 48, 64]

/-- The padding byte (R181). -/
def padByte : Byte := 0xCC#8

/-- A frame's content padded to the next valid data length (R181). -/
def padFrame (bs : List Byte) : Frame :=
  bs ++ List.replicate ((canFdLengths.find? (bs.length ≤ ·)).getD bs.length - bs.length) padByte

/-! ## Codes (section 11.6) -/

def Status.code : Status → Byte
  | .ok => 0x00#8 | .clamped => 0x01#8 | .accepted => 0x02#8 | .state => 0x10#8 | .range => 0x11#8
  | .order => 0x12#8 | .noRoom => 0x13#8 | .conflict => 0x14#8 | .noKey => 0x15#8 | .malformed => 0x1E#8
  | .unknown => 0x1F#8

def StreamState.code : StreamState → Byte
  | .vacant => 0#8 | .loading => 1#8 | .authenticating => 2#8 | .ready => 3#8 | .active => 4#8
  | .committing => 5#8 | .ending => 6#8 | .done => 7#8 | .faulted => 8#8 | .aborting => 9#8

def Cause.code : Cause → Byte
  | .digest => 0x01#8 | .stalled => 0x02#8 | .targetSilent => 0x03#8 | .targetReject => 0x04#8
  | .storeFail => 0x05#8 | .authFail => 0x10#8 | .inconsistent => 0x11#8 | .identConflict => 0x12#8
  | .targetBusy => 0x13#8 | .unknownTarget => 0x14#8 | .noTargetRoom => 0x15#8 | .belowFloor => 0x16#8
  | .aborted => 0x20#8 | .closed => 0x21#8

/-- A cause field: 0x00 when no cause is carried. -/
def causeCode (c : Option Cause) : Byte := (c.map Cause.code).getD 0#8

def SlotState.code : SlotState → Byte
  | .free => 0#8 | .filling => 1#8 | .complete => 2#8 | .hashing => 3#8 | .verified => 4#8 | .sending => 5#8
  | .awaiting => 6#8

def Integrity.code : Integrity → Byte
  | .opened => 0#8 | .blocked => 1#8 | .guarded => 2#8

def MemberState.code : MemberState → Byte
  | .active => 0#8 | .quiet => 1#8

def SupplyState.code : SupplyState → Byte
  | .ok => 0#8 | .low => 1#8

def StartCause.code : StartCause → Byte
  | .power => 0#8 | .request => 1#8

def StoreResult.code : StoreResult → Byte
  | .empty => 0#8 | .clean => 1#8 | .recovered => 2#8

def KeyState.code : KeyState → Byte
  | .erased => 0#8 | .pending => 1#8 | .installed => 2#8 | .failed => 3#8

/-! ## Report records (R166, section 11.2) -/

/-- A record's length, the kind and length bytes included (R166). -/
def Record.length : Record → Nat
  | .stream .. => 5
  | .window .. => 6
  | .refetch .. => 6
  | .gap _ _ positions _ => 6 + positions.length
  | .lane .. => 4
  | .member .. => 5
  | .supply .. => 3
  | .commit .. => 13
  | .restarted .. => 4

/-- The records whose queuing begins a drain (R166). -/
def Record.urgent : Record → Bool
  | .stream _ entered _ => entered == .faulted
  | .window .. => false
  | .refetch .. => false
  | .gap .. => false
  | .lane .. => false
  | .member .. => false
  | .supply .. => true
  | .commit .. => true
  | .restarted .. => true

/-- The GAP count byte: m in bits 0 to 4, MORE in bit 7 (section 11.2). -/
def gapCountByte (m : Nat) (more : Bool) : Byte := byteOf (m + if more then 0x80 else 0)

/-- A record's bytes (section 11.2). -/
def Record.bytes (r : Record) : List Byte :=
  match r with
  | .stream s e c => [0x01#8, byteOf r.length, byteOf s, e.code, causeCode c]
  | .window s low w => [0x02#8, byteOf r.length, byteOf s] ++ beBytes 2 low ++ [byteOf w]
  | .refetch s b n => [0x03#8, byteOf r.length, byteOf s] ++ beBytes 2 b ++ [byteOf n]
  | .gap s b ps more =>
    [0x04#8, byteOf r.length, byteOf s] ++ beBytes 2 b ++ [gapCountByte ps.length more] ++ ps.map byteOf
  | .lane l e => [0x05#8, byteOf r.length, byteOf l, e.code]
  | .member s l e => [0x06#8, byteOf r.length, byteOf s, byteOf l, e.code]
  | .supply e => [0x07#8, byteOf r.length, e.code]
  | .commit s t v f =>
    [0x08#8, byteOf r.length, byteOf s] ++ beBytes 2 t.toNat ++ beBytes 4 v.toNat ++ beBytes 4 f.toNat
  | .restarted c e => [0x09#8, byteOf r.length, c.code, e.code]

/-! ## Control frames (R152, section 11.1) -/

/-- The requests of R152 that have a code; the five TABLE_READ modes share one. -/
inductive RequestKind where
  | manifestBegin | manifestData | manifestEnd | streamStart | streamLanes | streamAbort | streamClose
  | keyInstall | flush | snapshot | paramWrite | paramRead | tableSelect | cursorSet | tableRead | restart
  deriving DecidableEq, Repr

/-- Request codes (section 11.1). -/
def RequestKind.code : RequestKind → Byte
  | .manifestBegin => 0x01#8 | .manifestData => 0x02#8 | .manifestEnd => 0x03#8 | .streamStart => 0x10#8
  | .streamLanes => 0x11#8 | .streamAbort => 0x12#8 | .streamClose => 0x13#8 | .keyInstall => 0x20#8
  | .flush => 0x30#8 | .snapshot => 0x31#8 | .paramWrite => 0x50#8 | .paramRead => 0x51#8
  | .tableSelect => 0x52#8 | .cursorSet => 0x53#8 | .tableRead => 0x54#8 | .restart => 0x5F#8

/-- Every request (R152). -/
def RequestKind.all : List RequestKind :=
  [.manifestBegin, .manifestData, .manifestEnd, .streamStart, .streamLanes, .streamAbort, .streamClose,
   .keyInstall, .flush, .snapshot, .paramWrite, .paramRead, .tableSelect, .cursorSet, .tableRead, .restart]

/-- The request a code names, if any (R152, step 3). -/
def requestOfCode (c : Byte) : Option RequestKind := RequestKind.all.find? fun k => k.code == c

/-- The table-read modes (R162, section 11.6). -/
inductive ReadMode where
  | direct | atCursor | postInc | preInc | offset
  deriving DecidableEq, Repr

/-- The mode a mode byte names, if any (section 11.6). -/
def readModeOf (b : Byte) : Option ReadMode :=
  if b = 0#8 then some .direct else if b = 1#8 then some .atCursor else if b = 2#8 then some .postInc
  else if b = 3#8 then some .preInc else if b = 4#8 then some .offset else none

/-- The minimum data length of a request frame (R152, step 4). MANIFEST_DATA: 6 plus its count byte when that is 1 to 58,
6 otherwise. TABLE_READ: 3, and 5 for DIRECT and 4 for OFFSET (R162). -/
def minLength (k : RequestKind) (f : Frame) : Nat :=
  match k with
  | .manifestBegin => 6
  | .manifestData => let n := (byteAt f 5).toNat; if 1 ≤ n ∧ n ≤ 58 then 6 + n else 6
  | .manifestEnd => 35
  | .streamStart => 5
  | .streamLanes => 4
  | .streamAbort => 3
  | .streamClose => 3
  | .keyInstall => 34
  | .flush => 2
  | .snapshot => 2
  | .paramWrite => 5
  | .paramRead => 3
  | .tableSelect => 3
  | .cursorSet => 4
  | .tableRead =>
    if readModeOf (byteAt f 2) = some .direct then 5 else if readModeOf (byteAt f 2) = some .offset then 4 else 3
  | .restart => 2

/-- Whether a frame is a request of kind `k`: it has a code and a tag, and the code is k's (R152). -/
def isRequest (k : RequestKind) (f : Frame) : Bool := decide (2 ≤ f.length) && byteAt f 0 == k.code

/-- Whether a frame is judged by the TABLE_READ row of mode `m`: its mode byte names `m`, or it holds no mode byte that
names a mode, in which case any of the five rows may judge it, all with one outcome (notes/assumptions/11). -/
def isTableRead (m : ReadMode) (f : Frame) : Bool :=
  isRequest .tableRead f &&
    (if 3 ≤ f.length then readModeOf (byteAt f 2) == some m || readModeOf (byteAt f 2) == none else true)

/-- A signed byte (OFFSET's argument, section 11.1). -/
def signedByte (b : Byte) : Int := b.toInt

end Sys2Proof.Machine
end

