-- ==== Sys2Proof/Machine/Ops.lean ====
section
/-! DEFINITION. The named updates of the state, and the operations that several blocks share: counters, slot lookup,
work in flight, the timers of a stream, freeing slots. Every meaning writes the state through the updates of this file. -/

namespace Sys2Proof.Machine

/-! ## Updates, one per part of the state -/

def State.withPhase (s : State) (x : Phase) : State := { s with phase := x }
def State.withPins (s : State) (x : Pins) : State := { s with pins := x }
def State.withSupply (s : State) (x : Supply) : State := { s with supply := x }
def State.withParams (s : State) (x : Params) : State := { s with params := x }
def State.withInterp (s : State) (x : Interp) : State := { s with interp := x }
def State.setLane (s : State) (l : Lane) (x : LaneRx) : State := { s with lanes := s.lanes.set l x }
def State.setTrunk (s : State) (l : Lane) (x : TrunkTx) : State := { s with trunk := s.trunk.set l x }
def State.setStream (s : State) (i : StreamNo) (x : Stream) : State := { s with streams := s.streams.set i x }
def State.setManifest (s : State) (i : StreamNo) (x : ManifestRec) : State := { s with manifests := s.manifests.set i x }
def State.withEntries (s : State) (bytes counts : Memory) : State := { s with entryBytes := bytes, entryCounts := counts }
def State.setSlot (s : State) (k : SlotNo) (x : Slot) : State := { s with slots := s.slots.set k x }
def State.withSlots (s : State) (x : Vector Slot 32) : State := { s with slots := x }
def State.withStaging (s : State) (x : Memory) : State := { s with staging := x }
def State.withEngine (s : State) (x : Engine) : State := { s with engine := x }
def State.setCtx (s : State) (i : StreamNo) (x : ReleaseCtx) : State := { s with contexts := s.contexts.set i x }
def State.setPort (s : State) (p : Port) (x : BranchPort) : State := { s with ports := s.ports.set p x }
def State.withStore (s : State) (x : Store) : State := { s with store := x }
def State.withNvm (s : State) (x : Memory) : State := { s with nvm := x }
def State.withReport (s : State) (x : ReportUnit) : State := { s with report := x }
def State.withCounters (s : State) (x : Counters) : State := { s with counters := x }
def State.withSnapshot (s : State) (x : Snapshot) : State := { s with snapshot := x }
def State.withFreeIndex (s : State) (x : Nat) : State := { s with freeIndex := x }
def State.withPending (s : State) (x : List Instr) : State := { s with pending := x }

/-- Raise a lane counter (R63). -/
def countLane (l : Lane) (k : LaneCounter) (s : State) : State := s.withCounters (s.counters.raiseLane l k)

/-- Raise a stream counter (R87, R103, R125). -/
def countStream (i : StreamNo) (k : StreamCounter) (s : State) : State := s.withCounters (s.counters.raiseStream i k)

/-! ## Views of a stream -/

/-- A stream's lane set: the lanes that have a member record (R25). -/
def Stream.laneSet (x : Stream) : LaneSet :=
  BitVec.ofNat 4 ((List.finRange 4).foldl (fun acc l => if x.members[l].isSome then acc + 2 ^ l.val else acc) 0)

/-- The data bytes of block `b` (R20, R108): B, or the last block's bytes for b = N − 1. -/
def Accepted.blockBytes (m : Accepted) (b : Nat) : Nat :=
  if b + 1 = m.blockCount then m.lastBlockBytes else m.blockLength

/-- The expected segment count of block `b` (R20, R76). -/
def Accepted.blockSegments (m : Accepted) (b : Nat) : Nat :=
  if b + 1 = m.blockCount then m.lastBlockSegments else m.perBlock

/-- The expected payload length of segment `k` (R21, R72). -/
def Accepted.segmentLength (m : Accepted) (k : Nat) : Nat :=
  if k + 1 = m.segmentCount then m.lastSegmentLength else m.segmentUnit

/-- A stream's block count N, 0 while it has no accepted manifest. -/
def Stream.blockCount (x : Stream) : Nat := (x.manifest.map Accepted.blockCount).getD 0

/-- Whether the supply state is OK (R121, R133). -/
def supplyOk (s : State) : Bool := s.supply.state == .ok

/-! ## Slots -/

/-- Whether a slot is held for stream `i` (R66). -/
def Slot.heldBy (x : Slot) (i : StreamNo) : Bool :=
  match x.holder with
  | some h => h.stream == i
  | none => false

/-- Whether a slot is held for block `b` of stream `i` (R68). -/
def Slot.holds (x : Slot) (i : StreamNo) (b : Nat) : Bool :=
  match x.holder with
  | some h => h.stream == i && h.block == b
  | none => false

/-- The slot holding block `b` of stream `i`, if any (R68). -/
def slotOf (s : State) (i : StreamNo) (b : Nat) : Option SlotNo :=
  (List.finRange 32).find? fun k => s.slots[k].holds i b

/-- The lowest-numbered FREE slot (R76). -/
def lowestFree (s : State) : Option SlotNo := (List.finRange 32).find? fun k => s.slots[k].state == .free

/-- How many slots a stream holds (R31, R46). -/
def slotsHeld (s : State) (i : StreamNo) : Nat := ((List.finRange 32).filter fun k => s.slots[k].heldBy i).length

/-- COMPLETE or a later slot state (R33). -/
def SlotState.reachedComplete : SlotState → Bool
  | .free => false
  | .filling => false
  | .complete => true
  | .hashing => true
  | .verified => true
  | .sending => true
  | .awaiting => true

/-- Whether block `b` of stream `i` has reached COMPLETE (R33). -/
def blockReachedComplete (s : State) (i : StreamNo) (b : Nat) : Bool :=
  match slotOf s i b with
  | some k => s.slots[k].state.reachedComplete
  | none => false

/-- How many positions of a set below `n` are filled (R78). -/
def filledCount (filled : BitVec 64) (n : Nat) : Nat := ((List.range n).filter fun p => filled.getLsbD p).length

/-- The positions below `n` that are not filled, ascending (R36). -/
def missingPositions (filled : BitVec 64) (n : Nat) : List Nat := (List.range n).filter fun p => !filled.getLsbD p

/-! ## Work in flight (R39) -/

/-- Whether a frame of stream `i` occupies a transmit position and is still the stream's work (R39, R105;
an END frame already answered is not, notes/assumptions/9). -/
def TxPosition.worksFor (f : TxPosition) (i : StreamNo) : Bool := f.stream == i && !f.answered

/-- Whether stream `i` has a frame in transmission (R39). -/
def frameInFlight (s : State) (i : StreamNo) : Bool :=
  (List.finRange 4).any fun p =>
    match s.ports[p].position with
    | some f => f.worksFor i
    | none => false

/-- Whether a frame of block `b` of stream `i` is in transmission (R85). -/
def blockInTransmission (s : State) (i : StreamNo) (b : Nat) : Bool :=
  (List.finRange 4).any fun p =>
    match s.ports[p].position with
    | some f => f.worksFor i && f.block == b
    | none => false

/-- Whether a FIFO job belongs to stream `i` (R91): a MAC job names it, a block job's slot is held for it. -/
def Job.belongsTo (s : State) (i : StreamNo) : Job → Bool
  | .block k => s.slots[k].heldBy i
  | .mac j => j == i

/-- Whether a job of stream `i` is in the digest FIFO (R39). -/
def jobInFlight (s : State) (i : StreamNo) : Bool := s.engine.fifo.any fun j => j.belongsTo s i

/-- Whether an operation is the commit of stream `i`. -/
def NvmOp.isCommitOf (i : StreamNo) : NvmOp → Bool
  | .commit j => j == i
  | .installKey _ => false

/-- Whether a commit of stream `i` is queued or running (R39). -/
def commitInFlight (s : State) (i : StreamNo) : Bool := s.store.ops.any (NvmOp.isCommitOf i)

/-- Whether any item of stream `i` is in flight (R39). -/
def inFlight (s : State) (i : StreamNo) : Bool := jobInFlight s i || frameInFlight s i || commitInFlight s i

/-- Whether a slot has work in flight (R41, R85): its job is in the FIFO, or a frame of it is in transmission. -/
def slotBusy (s : State) (k : SlotNo) : Bool :=
  s.engine.fifo.contains (.block k) ||
    match s.slots[k].holder with
    | some h => blockInTransmission s h.stream h.block
    | none => false

/-! ## Timers of a stream -/

/-- The condition under which a stream's quiet timers run (R33): ACTIVE, and some block from the low edge to N − 1 has not
reached COMPLETE. -/
def quietCondition (s : State) (i : StreamNo) : Bool :=
  let x := s.streams[i]
  x.state == .active &&
    (List.range (x.blockCount - x.lowEdge)).any fun n => !blockReachedComplete s i (x.lowEdge + n)

/-- The quiet interval in milliseconds as QUIET_TIME stands (R33). -/
def quietInterval (s : State) : Nat := s.params.quietTime * 10

/-- The stall interval in milliseconds as STALL_TIME stands (R35). -/
def stallInterval (s : State) : Nat := s.params.stallTime * 10

/-- Every quiet timer of a descriptor stopped; members keep their states (R33). -/
def Stream.quietStopped (x : Stream) : Stream :=
  { x with members := x.members.map (Option.map fun m => { m with timer := none }) }

/-- The quiet timer of every ACTIVE member started from its full interval; QUIET members' stay as they are (R33). -/
def Stream.quietStarted (x : Stream) (ms : Nat) : Stream :=
  { x with members := x.members.map (Option.map fun m => if m.state = .active then { m with timer := some ms } else m) }

/-- Stall timer and quiet timers stopped (R35, R33). -/
def Stream.timersStopped (x : Stream) : Stream := { x.quietStopped with stallTimer := none }

/-- Stop a stream's quiet timers if their condition no longer holds (R33, R78). -/
def stopQuietIfDone (i : StreamNo) (s : State) : State :=
  if quietCondition s i then s else s.setStream i s.streams[i].quietStopped

/-! ## Reservations and freeing (R31, R83) -/

/-- The sum of the windows of all streams that hold their reservation (R29, R31). -/
def reservedTotal (s : State) : Nat :=
  ((List.finRange 8).map fun i => if s.streams[i].reservationHeld then s.streams[i].window else 0).sum

/-- Return a stream's reservation when it holds no slot and is in neither READY nor ACTIVE (R31, R83). -/
def returnReservation (i : StreamNo) (s : State) : State :=
  let x := s.streams[i]
  if x.reservationHeld && x.state != .ready && x.state != .active && slotsHeld s i == 0 then
    s.setStream i { x with reservationHeld := false }
  else s

/-- Free a slot (R83): its record returns to the reset values, and its former owner's reservation is judged (R31). -/
def freeSlot (k : SlotNo) (s : State) : State :=
  match s.slots[k].holder with
  | some h => returnReservation h.stream (s.setSlot k Slot.free)
  | none => s.setSlot k Slot.free

/-- Free every slot of a stream that has no work in flight (R41, R85). -/
def freeIdleSlots (i : StreamNo) (s : State) : State :=
  s.withSlots (Vector.ofFn fun k : SlotNo => if s.slots[k].heldBy i && !slotBusy s k then Slot.free else s.slots[k])

/-! ## Frames read from the staging store and the manifest (R12, R22, R92) -/

/-- The table index of entry `j` of a stream's manifest, through its extent list (R9, R22). -/
def entryIndex (r : ManifestRec) (j : Nat) : Nat := r.extents.getD (j / extentEntries) 0 * extentEntries + j % extentEntries

/-- The 34 stored bytes of entry `j` of stream `i` (R9). -/
def entryBytesOf (s : State) (i : StreamNo) (j : Nat) : List Byte :=
  s.entryBytes.readAll 0 (entryAddress (entryIndex s.manifests[i] j) 0) entrySize

/-- The digest lookup (R22). -/
def digestOf (s : State) (i : StreamNo) (b : Nat) : List Byte := (entryBytesOf s i b).take 32

/-- The flag lookup (R22): LONG is bit 0 of an entry's flags byte. -/
def longOf (s : State) (i : StreamNo) (b : Nat) : Bool := (byteAt (entryBytesOf s i b) 32).getLsbD 0

/-- The first `n` bytes of a slot's data region (R67). -/
def slotBytes (s : State) (k : SlotNo) (n : Nat) : List Byte := s.staging.readAll 0 (stagingAddress k 0) n

end Sys2Proof.Machine
end

