-- ==== Sys2Proof/Machine/Report.lean ====
section
/-! DEFINITION. The trunk transmit sections (R154) and the report unit (chapter 10): handing a frame over, forming a report
frame, beginning a drain, queuing a record, and the two emission timers' expiries. -/

namespace Sys2Proof.Machine

/-- A lane hands over one waiting frame when it has none in transmission, the response first, under the RSP_ID standing
(R154, R159). -/
def handOver (l : Lane) (s : State) : State :=
  let t := s.trunk[l]
  if t.sending.isSome then s
  else if t.response.isSome then s.setTrunk l { t with sending := some ⟨.response, s.params.rspId⟩ }
  else if t.report.isSome then s.setTrunk l { t with sending := some ⟨.report, s.params.rspId⟩ }
  else s

/-- The report queue's capacity (R168). -/
def reportCapacity : Nat := 64
/-- The record bytes one report frame carries at most (R170). -/
def reportRoom : Nat := 62
/-- The largest lost count (R167). -/
def lostMax : Nat := 255

/-- The queued bytes (R167). -/
def queuedBytes (q : List Record) : Nat := (q.map Record.length).sum

/-- The whole records taken from the head of the queue into `room` bytes, and the records that stay (R170). -/
def takeFitting : Nat → List Record → List Record × List Record
  | _, [] => ([], [])
  | room, r :: q =>
    if r.length ≤ room then
      let rest := takeFitting (room - r.length) q
      (r :: rest.1, rest.2)
    else ([], r :: q)

/-- A report frame (R170, section 11.1). -/
def reportFrame (lost : Nat) (records : List Record) : Frame :=
  padFrame ([0x41#8, byteOf lost] ++ records.flatMap Record.bytes)

/-- Whether a report frame is due when the report slot is empty: a full emission or a drain emission (R171). -/
def emissionDue (r : ReportUnit) : Bool :=
  decide (reportRoom < queuedBytes r.queue) || (r.drain && (!r.queue.isEmpty || r.owed))

/-- The report unit after a frame has been formed (R170, R173). -/
def ReportUnit.afterFrame (r : ReportUnit) : ReportUnit :=
  let rest := (takeFitting reportRoom r.queue).2
  { r with queue := rest, lost := 0, owed := false, drain := r.drain && !rest.isEmpty }

/-- Form a report frame and place it in the REPORT_LANE's report slot when that is empty and a frame is due (R170, R171). -/
def emit (s : State) : State :=
  let l := s.params.reportLane
  if s.trunk[l].report.isNone && emissionDue s.report then
    let frame := reportFrame s.report.lost (takeFitting reportRoom s.report.queue).1
    handOver l ((s.setTrunk l { s.trunk[l] with report := some frame }).withReport s.report.afterFrame)
  else s

/-- Begin a drain (R173): the timers stop and the emission conditions are judged; a drain with nothing to send ends at once. -/
def beginDrain (s : State) : State :=
  let r := s.report
  if r.queue.isEmpty && !r.owed then s.withReport { r with packet := none, absolute := none, drain := false }
  else emit (s.withReport { r with packet := none, absolute := none, drain := true })

/-- The two emission timers after a record was appended or updated while no drain runs and PACKET_TIMER is 1 or above (R172). -/
def ReportUnit.timersTouched (r : ReportUnit) (p : Params) (wasEmpty : Bool) : ReportUnit :=
  { r with
    packet := some p.packetTimer
    absolute := if wasEmpty && decide (1 ≤ p.absoluteTimer) then some (p.absoluteTimer * 8) else r.absolute }

/-- What the report unit does once a record has been appended (`wasEmpty`: to an empty queue) or updated in place (R171, R172). -/
def afterRecord (wasEmpty : Bool) (s : State) : State :=
  if s.report.drain then emit s
  else if s.params.packetTimer = 0 then beginDrain s
  else emit (s.withReport (s.report.timersTouched s.params wasEmpty))

/-- Whether a queued record is the WINDOW record of stream `i` (R169). -/
def Record.isWindowOf (i : StreamNo) : Record → Bool
  | .window j _ _ => j == i
  | _ => false

/-- Append a record at the tail, or discard it and count it as lost when the queue is full (R168). -/
def appendRecord (r : Record) (s : State) : State :=
  let q := s.report.queue
  if q.length < reportCapacity then
    afterRecord q.isEmpty (s.withReport { s.report with queue := q ++ [r] })
  else
    (s.withReport { s.report with lost := satInc lostMax s.report.lost }).withCounters s.counters.raiseLost

/-- Queue a record other than a WINDOW record (R168): append or discard it; an urgent one begins a drain either way. -/
def queueRecord (r : Record) (s : State) : State :=
  if r.urgent then beginDrain (appendRecord r s) else appendRecord r s

/-- Queue a WINDOW record (R169): update the stream's waiting one in place, else append or discard it. -/
def queueWindow (i : StreamNo) (low w : Nat) (s : State) : State :=
  let q := s.report.queue
  if q.any (Record.isWindowOf i) then
    afterRecord false (s.withReport
      { s.report with queue := q.map fun r => if r.isWindowOf i then .window i low w else r })
  else queueRecord (.window i low w) s

/-- PACKET_TIMER_EXPIRY (R173): the packet timer expires and begins a drain. A stopped timer does not expire: nothing happens
(R172; notes/assumptions/22). -/
def execPacketTimerExpiry (s : State) : Host.Outcome State Fault Refusal :=
  if s.report.packet.isSome then .next (beginDrain s) else .next s

/-- ABSOLUTE_TIMER_EXPIRY (R173): the absolute timer expires and begins a drain. A stopped timer does not expire: nothing happens
(R172; notes/assumptions/22). -/
def execAbsoluteTimerExpiry (s : State) : Host.Outcome State Fault Refusal :=
  if s.report.absolute.isSome then .next (beginDrain s) else .next s

end Sys2Proof.Machine
end

