-- ==== Sys2Proof/Machine/Control.lean ====
section
/-! DEFINITION. The control interpreter's service (chapter 9, sections 9.1 and 9.2): the search for an eligible lane, the placing
of a response, the judging of a request in the steps of R152, and the rows that no owner stands behind: a frame without code
or tag, and an unknown code. -/

namespace Sys2Proof.Machine

/-- A lane is eligible when its control queue holds a frame and its response slot is empty (R151). -/
def laneEligible (s : State) (l : Lane) : Bool := !s.lanes[l].queue.isEmpty && s.trunk[l].response.isNone

/-- The lanes in search order: from the lane after the last one served, wrapping from 3 to 0 (R151). -/
def searchOrder (last : Lane) : List Lane := [last + 1, last + 2, last + 3, last]

/-- The lane the search finds (R151). -/
def findLane (s : State) : Option Lane := (searchOrder s.interp.lastServed).find? (laneEligible s)

/-- The idle interpreter searches and takes the frame at the head of the lane it finds (R151, R52). -/
def serveLane (s : State) : State :=
  if s.interp.judging.isNone && !s.interp.restartPending then
    match findLane s with
    | some l =>
      match s.lanes[l].queue with
      | f :: rest =>
        (s.setLane l { s.lanes[l] with queue := rest }).withInterp
          { s.interp with lastServed := l, judging := some ⟨l, f⟩ }
      | [] => s
    | none => s
  else s

/-- The bytes of a response (R153, section 11.1). -/
def responseFrame (tag code : Byte) (st : Status) (data : List Byte) : Frame :=
  padFrame ([0x40#8, tag, code, st.code] ++ data)

/-- Place a response in its lane's response slot; the request is finished and the interpreter searches again (R151, R153). -/
def respond (l : Lane) (frame : Frame) (s : State) : State :=
  serveLane ((handOver l (s.setTrunk l { s.trunk[l] with response := some frame })).withInterp
    { s.interp with judging := none })

/-- What an owner answers: the status, the data, and the state with the request's effects made (R153). -/
structure Reply where
  status : Status
  data : List Byte
  state : State

/-- Judge the request the interpreter holds (R152, steps 4 and 5): `held` says whether the frame is one of the row's; a frame
below the minimum length is MALFORMED, with no data; any other is executed by its owner. -/
def judgeRequest (l : Lane) (f : Frame) (held : Bool) (minimum : Nat) (s : State) (owner : Reply) :
    Host.Outcome State Fault Refusal :=
  if s.interp.judging = some ⟨l, f⟩ ∧ held = true then
    if f.length < minimum then .next (respond l (responseFrame (byteAt f 1) (byteAt f 0) .malformed []) s)
    else .next (respond l (responseFrame (byteAt f 1) (byteAt f 0) owner.status owner.data) owner.state)
  else .fault .requestNotHeld

/-- Judge a request of kind `k` by its owner. -/
def judgeKind (k : RequestKind) (l : Lane) (f : Frame) (s : State) (owner : Reply) : Host.Outcome State Fault Refusal :=
  judgeRequest l f (isRequest k f) (minLength k f) s owner

/-- UNKNOWN_CODE (R152, step 3): a code that names no request is answered UNKNOWN, with no data. -/
def execUnknownCode (lane : Lane) (frame : Frame) (s : State) : Host.Outcome State Fault Refusal :=
  judgeRequest lane frame (decide (2 ≤ frame.length) && (requestOfCode (byteAt frame 0)).isNone) 2 s
    { status := .unknown, data := [], state := s }

/-- NO_CODE_FRAME (R152, steps 1 and 2): no code is answered MALFORMED with tag and code 0x00, no tag with tag 0x00 and the
code echoed. A byte the frame does not hold reads 0x00. -/
def execNoCodeFrame (lane : Lane) (frame : Frame) (s : State) : Host.Outcome State Fault Refusal :=
  judgeRequest lane frame (decide (frame.length < 2)) 2 s { status := .malformed, data := [], state := s }

end Sys2Proof.Machine
end

