-- ==== Sys2Proof/Machine/Lifecycle.lean ====
section
/-! DEFINITION. What every block shares of a stream's life (chapter 2): entering VACANT, FAULTED and ABORTING, and the
resolution of an abort. -/

namespace Sys2Proof.Machine

/-- Return a stream's extents to the pool, zero their entries and clear its header record (R5). -/
def releaseExtents (i : StreamNo) (s : State) : State :=
  let es := s.manifests[i].extents
  (s.withEntries
    (es.foldl (fun m e => m.clear (entryAddress (e * extentEntries) 0) (extentEntries * entrySize)) s.entryBytes)
    (es.foldl (fun m e => m.clear (e * extentEntries) extentEntries) s.entryCounts)).setManifest i ManifestRec.empty

/-- Enter VACANT (R5, R25, R27, R104): extents, header record, descriptor and release context return to their reset values,
and the STREAM record is queued with its cause. -/
def enterVacant (i : StreamNo) (c : Cause) (s : State) : State :=
  queueRecord (.stream i .vacant (some c))
    (((releaseExtents i s).setStream i Stream.vacant).setCtx i ReleaseCtx.idle)

/-- An ABORTING stream with nothing in flight enters VACANT with its stored cause (R44). -/
def resolveAbort (i : StreamNo) (s : State) : State :=
  if s.streams[i].state = .aborting ∧ inFlight s i = false then
    enterVacant i (s.streams[i].cause.getD .aborted) s
  else s

/-- Stop a stream's release (R124): the acknowledgement timer and the holds are dropped, and the stage is made absent unless a
frame of the stream is still in transmission. -/
def stopRelease (i : StreamNo) (s : State) : State :=
  let s1 := s.setCtx i { s.contexts[i] with ackTimer := none, resendHeld := false, startHeld := false }
  if frameInFlight s i then s1 else s1.setStream i { s1.streams[i] with stage := none }

/-- What a fault, an abort and a close do alike (R41, R42): timers stop, the release stops, and the slots with no work in
flight are freed. -/
def stopStream (i : StreamNo) (s : State) : State :=
  let s1 := s.setStream i s.streams[i].timersStopped
  freeIdleSlots i (stopRelease i s1)

/-- Enter FAULTED (R40, R41) with an urgent STREAM record. -/
def enterFaulted (i : StreamNo) (c : Cause) (s : State) : State :=
  let s1 := stopStream i s
  let s2 := s1.setStream i { s1.streams[i] with state := .faulted, cause := some c }
  queueRecord (.stream i .faulted (some c)) (returnReservation i s2)

/-- Enter ABORTING with a stored cause (R42, R43), the reservation returned when no slot remains (R31). -/
def enterAborting (i : StreamNo) (c : Cause) (s : State) : State :=
  returnReservation i (s.setStream i { s.streams[i] with state := .aborting, cause := some c })

/-- Free a slot whose last work in flight has ended (R86), and let its stream resolve (R44). -/
def freeEndedSlot (k : SlotNo) (i : StreamNo) (s : State) : State := resolveAbort i (freeSlot k s)

end Sys2Proof.Machine
end

