-- ==== Sys2Proof/Machine/Branch.lean ====
section
/-! DEFINITION. Release to branch ports, the sending side (chapter 6, sections 6.1 to 6.4, 6.7, 6.8): release and END frames, the
arbiter, the starts of releases, resends and END frames, and the end of a transmission. -/

namespace Sys2Proof.Machine

/-! ## Frames (R108, R122, section 11.3) -/

/-- The block bytes one release frame carries at most (R108). -/
def releaseChunk : Nat := 60

/-- A block's frame count: ceil(B_b / 60) (R108). -/
def frameCount (blockBytes : Nat) : Nat := (blockBytes + releaseChunk - 1) / releaseChunk

/-- A release header: block index, flags, frame number (section 11.3). -/
def releaseHeader (block : Nat) (flags : Byte) (number : Nat) : List Byte :=
  beBytes 2 block ++ [flags, byteOf number]

/-- Frame `j` of block `b`, read from the slot's data region (R107, R108). -/
def blockFrame (s : State) (m : Accepted) (k : SlotNo) (b j : Nat) : Frame :=
  let last := j + 1 == frameCount (m.blockBytes b)
  padFrame (releaseHeader b (if last then 0x01#8 else 0x00#8) j ++
    s.staging.readAll 0 (stagingAddress k (releaseChunk * j)) (min releaseChunk (m.blockBytes b - releaseChunk * j)))

/-- The END frame (R122). -/
def endFrame (m : Accepted) : Frame :=
  padFrame (releaseHeader m.blockCount 0x03#8 0 ++ m.imageTag ++ beBytes 4 m.version.toNat ++ beBytes 2 m.blockCount)

/-! ## The arbiter (R109, R110) -/

/-- Whether a stream has a frame ready for port `p` (R109). -/
def frameReady (s : State) (p : Port) (i : StreamNo) : Bool :=
  let x := s.streams[i]
  (x.state == .active || x.state == .ending) &&
    (match x.stage with | some g => g.kind == .sending | none => false) &&
    (match x.manifest with | some m => m.port == p | none => false)

/-- The stream numbers in the arbiter's order: after the pointer, wrapping from 7 to 0 (R109). -/
def arbiterOrder (pointer : StreamNo) : List StreamNo :=
  [pointer + 1, pointer + 2, pointer + 3, pointer + 4, pointer + 5, pointer + 6, pointer + 7, pointer]

/-- Hand frame `j` of block `b` over (R110): below the last, the next frame number rises; at the last, the slot and the
stage go to AWAITING. -/
def handBlockFrame (i : StreamNo) (p : Port) (m : Accepted) (k : SlotNo) (b : Nat) (s : State) : State :=
  let j := s.slots[k].nextFrame.getD 0
  let last := j + 1 == frameCount (m.blockBytes b)
  let s1 := s.setPort p
    { position := some { stream := i, block := b, number := j, isLast := last, ident := m.releaseId,
                         data := blockFrame s m k b j, answered := false }
      pointer := i }
  if last then
    (s1.setSlot k { s1.slots[k] with state := .awaiting, nextFrame := none }).setStream i
      { s1.streams[i] with stage := some ⟨.awaiting, b⟩ }
  else s1.setSlot k { s1.slots[k] with nextFrame := some (j + 1) }

/-- Hand the END frame over (R110, R122). -/
def handEndFrame (i : StreamNo) (p : Port) (m : Accepted) (s : State) : State :=
  (s.setPort p
    { position := some { stream := i, block := m.blockCount, number := 0, isLast := true, ident := m.releaseId,
                         data := endFrame m, answered := false }
      pointer := i }).setStream i { s.streams[i] with stage := some ⟨.awaiting, m.blockCount⟩ }

/-- Hand over the next frame of a stream the arbiter serves (R110). -/
def handFrame (i : StreamNo) (p : Port) (s : State) : State :=
  match s.streams[i].manifest, s.streams[i].stage with
  | some m, some g =>
    if s.streams[i].state = .ending then handEndFrame i p m s
    else match slotOf s i g.block with
      | some k => handBlockFrame i p m k g.block s
      | none => s
  | _, _ => s

/-- A port's arbiter serves one stream when the transmit position is empty and some stream has a frame ready (R109). -/
def servePort (p : Port) (s : State) : State :=
  if s.ports[p].position.isSome then s
  else match (arbiterOrder s.ports[p].pointer).find? (frameReady s p) with
    | some i => handFrame i p s
    | none => s

/-- Judge the arbiter of a stream's branch port. -/
def serveStreamPort (i : StreamNo) (s : State) : State :=
  match s.streams[i].manifest with
  | some m => servePort m.port s
  | none => s

/-! ## Starts (R106, R107, R118, R121, R122) -/

/-- The start conditions of R106 for a stream's low-edge block; the slot they name. -/
def releaseDue (s : State) (i : StreamNo) : Option SlotNo :=
  let x := s.streams[i]
  if x.state = .active ∧ x.stage = none ∧ supplyOk s = true then
    (slotOf s i x.lowEdge).filter fun k => s.slots[k].state == .verified
  else none

/-- Start the release of the low-edge block when its conditions hold, without judging the arbiter yet (R107). -/
def startRelease (i : StreamNo) (s : State) : State :=
  match releaseDue s i with
  | some k =>
    (s.setSlot k { s.slots[k] with state := .sending, nextFrame := some 0 }).setStream i
      { s.streams[i] with stage := some ⟨.sending, s.streams[i].lowEdge⟩ }
  | none => s

/-- Judge the start conditions of a stream, then its port's arbiter (R106, R109). -/
def tryRelease (i : StreamNo) (s : State) : State := serveStreamPort i (startRelease i s)

/-- Start a resend of block `b` (R118): the slot and the stage go to SENDING from frame 0. -/
def startResend (i : StreamNo) (b : Nat) (s : State) : State :=
  match slotOf s i b with
  | some k =>
    (s.setSlot k { s.slots[k] with state := .sending, nextFrame := some 0 }).setStream i
      { s.streams[i] with stage := some ⟨.sending, b⟩ }
  | none => s

/-- Start the END frame, or a resend of it (R122, R123). -/
def startEnd (i : StreamNo) (s : State) : State :=
  s.setStream i { s.streams[i] with stage := some ⟨.sending, s.streams[i].blockCount⟩ }

/-- Enter ENDING (R122): the END counts are 0, and the END frame starts, or its start is held while the supply is LOW. -/
def enterEnding (i : StreamNo) (s : State) : State :=
  let s1 := s.setStream i { s.streams[i] with state := .ending }
  let c := { s1.contexts[i] with endRetry := 0, endBusy := 0 }
  if supplyOk s then serveStreamPort i (startEnd i (s1.setCtx i c))
  else s1.setCtx i { c with startHeld := true }

/-- What a stream starts when the supply changes from LOW to OK (R121). -/
def startHeldWork (i : StreamNo) (s : State) : State :=
  let c := s.contexts[i]
  if c.resendHeld then
    startResend i ((s.streams[i].stage.map Stage.block).getD 0) (s.setCtx i { c with resendHeld := false })
  else if c.startHeld then startEnd i (s.setCtx i { c with startHeld := false })
  else startRelease i s

/-- The held starts of all streams, then every port's arbiter (R121). -/
def startAllHeld (s : State) : State :=
  (List.finRange 4).foldl (fun t p => servePort p t) ((List.finRange 8).foldl (fun t i => startHeldWork i t) s)

/-! ## Acknowledgement intervals (R117) -/

/-- The SHORT or LONG acknowledgement timer as its parameter stands (R117). -/
def ackInterval (s : State) (k : AckKind) : AckTimer :=
  match k with
  | .short => { kind := .short, ms := s.params.ackShort + 1 }
  | .long => { kind := .long, ms := (s.params.ackLong + 1) * 16 }

/-- The interval chosen when an item's last frame's transmission ends (R117): LONG when a BUSY has already started the timer,
for the END frame, and for a block whose entry has LONG set. -/
def intervalAtEnd (s : State) (i : StreamNo) (b : Nat) : AckKind :=
  if s.contexts[i].ackTimer.isSome || s.streams[i].state == .ending || longOf s i b then .long else .short

/-- Whether the end of a last frame's transmission starts the acknowledgement timer (R111). -/
def startsAckTimer (s : State) (f : TxPosition) : Bool :=
  let x := s.streams[f.stream]
  let c := s.contexts[f.stream]
  f.isLast && (x.state == .active || x.state == .ending) && x.stage == some ⟨.awaiting, f.block⟩
    && !c.resendHeld && !c.startHeld

/-- Whether a slot is kept for a frame's transmission (R85, R86). -/
def SlotState.inRelease (x : SlotState) : Bool := x == .sending || x == .awaiting

/-- Free the slot a stopped stream kept for block `b` (R86), if it is still held. -/
def freeKeptSlot (i : StreamNo) (b : Nat) (s : State) : State :=
  match slotOf s i b with
  | some k => if s.slots[k].state.inRelease then freeSlot k s else s
  | none => s

/-- What the end of a frame's transmission does to the frame's stream, by its state and stage (R111). The position has been
emptied already. -/
def frameEnded (f : TxPosition) (s : State) : State :=
  let i := f.stream
  let x := s.streams[i]
  if f.answered then s
  else if x.state = .faulted ∨ x.state = .aborting then
    let s1 := freeKeptSlot i f.block s
    resolveAbort i (s1.setStream i { s1.streams[i] with stage := none })
  else if startsAckTimer s f then
    s.setCtx i { s.contexts[i] with ackTimer := some (ackInterval s (intervalAtEnd s i f.block)) }
  else s

/-- BRANCH_TX_END (R111): the position empties, the frame's stream is acted on, and the arbiter is judged again. Sent and
abandoned are treated alike. With the position empty, the end is that of a frame which a start-up made no longer the part's, and
nothing happens (R105; notes/assumptions/21). -/
def execBranchTxEnd (port : Port) (_outcome : TxOutcome) (s : State) : Host.Outcome State Fault Refusal :=
  match s.ports[port].position with
  | none => .next s
  | some f => .next (servePort port (frameEnded f (s.setPort port { s.ports[port] with position := none })))

end Sys2Proof.Machine
end

