-- ==== Sys2Proof/Machine/Store.lean ====
section
/-! DEFINITION. The version store (chapter 7): records and pages, the start-up scan, the operation queue, commits, compaction,
key installation, and the end of one NVM step. -/

namespace Sys2Proof.Machine

/-! ## Records and pages (R127, R128) -/

/-- The first 14 bytes of a version record (R127, section 11.4). -/
def recordFields (r : VersionRecord) : List Byte :=
  beBytes 2 r.target.toNat ++ beBytes 4 r.version.toNat ++ beBytes 4 r.floor.toNat ++ beBytes 2 r.count ++ [0#8, 0#8]

/-- The 16 bytes of a version record in programming order: fields, check byte, marker (R127). -/
def recordBytes (r : VersionRecord) : List Byte := recordFields r ++ [checkByteFor (recordFields r), 0x00#8]

/-- How a record slot reads (R127). -/
inductive SlotReading where
  | free
  | good (r : VersionRecord)
  | torn
  deriving DecidableEq, Repr

/-- Classify the 16 bytes of a record slot (R127). -/
def readSlotBytes (bs : List Byte) : SlotReading :=
  if bs.all (· == erasedByte) then .free
  else if byteAt bs 15 = 0x00#8 ∧ checkSumOk (bs.take 15) = true then
    .good { target := BitVec.ofNat 16 (fieldAt bs 0 2), version := BitVec.ofNat 32 (fieldAt bs 2 4),
            floor := BitVec.ofNat 32 (fieldAt bs 6 4), count := fieldAt bs 10 2 }
  else .torn

/-- Classify record slot `n` of a page. -/
def readSlot (m : Memory) (p : PageId) (n : Nat) : SlotReading :=
  readSlotBytes (m.readAll erasedByte (recordAddress p n) 16)

/-- Whether a page's complete marker reads 0x3C (R128). -/
def pageValid (m : Memory) (p : PageId) : Bool := m.read erasedByte (completeMarkerAddress p) == 0x3C#8

/-- A page's sequence (R128). -/
def pageSequence (m : Memory) (p : PageId) : Word32 :=
  BitVec.ofNat 32 (beValue (m.readAll erasedByte (NvmUnit.page p).base 4))

/-- The active page the memory shows (R128). Two valid pages never share a sequence; page A is taken if they did. -/
def findActive (m : Memory) : Option PageId :=
  match pageValid m .a, pageValid m .b with
  | true, true => if (pageSequence m .b).toNat > (pageSequence m .a).toNat then some .b else some .a
  | true, false => some .a
  | false, true => some .b
  | false, false => none

/-! ## The governing table (R129) -/

/-- Put a row into the governing table, in ascending target order, replacing the target's row if it has one. -/
def putRow (r : GovRow) : List GovRow → List GovRow
  | [] => [r]
  | x :: xs =>
    if r.record.target.toNat < x.record.target.toNat then r :: x :: xs
    else if r.record.target = x.record.target then r :: xs
    else x :: putRow r xs

/-- The governing row of a target, if any. -/
def rowOf (rows : List GovRow) (t : Word16) : Option GovRow := rows.find? fun r => r.record.target == t

/-- A target's floor: its row's, or 0 with no row (R19, R134). -/
def floorOf (rows : List GovRow) (t : Word16) : Word32 := ((rowOf rows t).map fun r => r.record.floor).getD 0#32

/-- The governing rows the scan reads from a page: for each target the good record in the highest slot (R130). -/
def scanRows (m : Memory) (p : PageId) : List GovRow :=
  (List.range pageSlots).foldl (fun rows n =>
    match readSlot m p n with
    | .good r => putRow { record := r, page := p, slot := n } rows
    | _ => rows) []

/-- The slot after the highest-numbered slot that is not free (R130). -/
def scanAppend (m : Memory) (p : PageId) : Nat :=
  (List.range pageSlots).foldl (fun a n => if readSlot m p n = .free then a else n + 1) 0

/-- Whether a page holds a torn slot (R132). -/
def pageTorn (m : Memory) (p : PageId) : Bool := (List.range pageSlots).any fun n => readSlot m p n == .torn

/-! ## The start-up scan (R130, R131, R132) -/

/-- Whether the key marker shows an installed key (R140). -/
def keyMarked (m : Memory) : Bool := m.read erasedByte keyMarkerAddress == 0x00#8

/-- The units the scan scrubs, in order (R131). -/
def scrubUnits (m : Memory) : List NvmUnit :=
  ([NvmUnit.page .a, NvmUnit.page .b].filter fun u =>
      (match findActive m with | some p => u != .page p | none => true) && !unitErased m u)
    ++ (if !keyMarked m && !unitErased m .key then [NvmUnit.key] else [])

/-- What the scan sets from the memory before any scrub (R129, R130, R131). -/
def scannedStore (m : Memory) : Store :=
  { governing := (match findActive m with | some p => scanRows m p | none => [])
    activePage := findActive m
    activeSeq := (findActive m).map (pageSequence m)
    appendPos := (match findActive m with | some p => scanAppend m p | none => 0)
    erasedA := findActive m != some .a && unitErased m (.page .a)
    erasedB := findActive m != some .b && unitErased m (.page .b)
    keyState := if keyMarked m then .installed else .erased
    ops := []
    run := none }

/-- The store result when no scrub is made (R132). -/
def scanResult (m : Memory) : StoreResult :=
  match findActive m with
  | some p => if pageTorn m p then .recovered else .clean
  | none => .empty

/-- The scan ends: the RESTARTED record is queued and the receivers judge frames from then on (R132, R48). -/
def finishScan (c : StartCause) (r : StoreResult) (s : State) : State :=
  (queueRecord (.restarted c r) s).withPhase .running

/-! ## Steps (R126, R133) -/

/-- The erased flag of a page. -/
def Store.erasedFlag (t : Store) : PageId → Bool
  | .a => t.erasedA
  | .b => t.erasedB

/-- Set a page's erased flag. -/
def Store.setErased (t : Store) (p : PageId) (v : Bool) : Store :=
  match p with
  | .a => { t with erasedA := v }
  | .b => { t with erasedB := v }

/-- The store no longer knows a page to be fully erased once a program step into it has started (R129). -/
def Store.stepStarted (t : Store) : NvmStep → Store
  | .program a _ =>
    match pageOfAddress a with
    | some p => t.setErased p false
    | none => t
  | .erase _ => t

/-- Start the next step of the running operation when the supply is OK (R133); none starts once a RESTART has been issued (R164). -/
def startStep (s : State) : State :=
  match s.store.run with
  | some r =>
    match r.steps with
    | st :: _ =>
      if !r.stepping && supplyOk s && !s.interp.restartIssued then
        s.withStore { s.store.stepStarted st with run := some { r with stepping := true } }
      else s
    | [] => s
  | none => s

/-- The program steps that write bytes from an address upward. -/
def programSteps (a : Nat) (bs : List Byte) : List NvmStep := bs.mapIdx fun n b => .program (a + n) b

/-! ## Commits (R134 to R138) -/

/-- The new record of a commit (R134). -/
def newRecord (rows : List GovRow) (m : Accepted) : VersionRecord :=
  { target := m.target
    version := m.version
    floor := if (floorOf rows m.target).toNat < m.newFloor.toNat then m.newFloor else floorOf rows m.target
    count := match rowOf rows m.target with
      | some r => satInc 65535 r.record.count
      | none => 1 }

/-- A compaction is refused at this active sequence (R136). -/
def lastSequence : Word32 := 0xFFFFFFFE#32

/-- The steps of a compaction into page `x` (R136). -/
def compactSteps (t : Store) (x : PageId) (r : VersionRecord) (sequence : Word32) : List NvmStep :=
  (if t.erasedFlag x then [] else [.erase (.page x)])
    ++ ((t.governing.map GovRow.record ++ [r]).mapIdx fun n y => programSteps (recordAddress x n) (recordBytes y)).flatten
    ++ programSteps (NvmUnit.page x).base (beBytes 4 sequence.toNat)
    ++ [.program (completeMarkerAddress x) 0x3C#8, .erase (.page x.other)]

/-- The steps of a new page (R137). -/
def newPageSteps (t : Store) (r : VersionRecord) : List NvmStep :=
  (if t.erasedA then [] else [.erase (.page .a)])
    ++ programSteps (recordAddress .a 0) (recordBytes r)
    ++ programSteps (NvmUnit.page .a).base (beBytes 4 1)
    ++ [.program (completeMarkerAddress .a) 0x3C#8]

/-- The steps of a key installation (R142). -/
def keySteps (key : List Byte) : List NvmStep := programSteps NvmUnit.key.base key ++ [.program keyMarkerAddress 0x00#8]

/-- A commit at the head: the job and steps it proceeds with, or `none` when a compaction is refused at its start
(R134, R136). -/
def commitRun (t : Store) (i : StreamNo) (m : Accepted) : Option NvmRun :=
  let r := newRecord t.governing m
  match t.activePage with
  | none => some { job := .newPage i r, steps := newPageSteps t r, stepping := false }
  | some p =>
    if t.appendPos < pageSlots then
      some { job := .append i r p t.appendPos, steps := programSteps (recordAddress p t.appendPos) (recordBytes r),
             stepping := false }
    else if t.activeSeq = some lastSequence then none
    else
      let q := t.activeSeq.getD 0#32 + 1#32
      some { job := .compact i r p.other q, steps := compactSteps t p.other r q, stepping := false }

/-- The head operation leaves the queue. -/
def Store.popOp (t : Store) : Store := { t with ops := t.ops.tail, run := none }

/-- A commit of stream `i` has ended in STORE_FAIL (R138); its operation has left the queue. -/
def storeFailed (i : StreamNo) (s : State) : State :=
  if s.streams[i].state = .committing then enterFaulted i .storeFail s
  else if s.streams[i].state = .aborting then
    resolveAbort i (s.setStream i { s.streams[i] with cause := some .storeFail })
  else s

/-- A commit of stream `i` has ended in success (R135, steps 3 and 4); its operation has left the queue. -/
def commitEnded (i : StreamNo) (r : VersionRecord) (s : State) : State :=
  let s1 := queueRecord (.commit i r.target r.version r.floor) s
  if s1.streams[i].state = .committing then enterEnding i s1 else resolveAbort i s1

/-- Begin the operation at the head of the queue when none is running (R133), for at most `n` operations that end without a
step (a refused compaction, R136). -/
def beginOps : Nat → State → State
  | 0, s => s
  | n + 1, s =>
    if s.store.run.isSome || s.interp.restartIssued then s
    else match s.store.ops with
      | [] => s
      | .installKey key :: _ => s.withStore { s.store with run := some { job := .installKey, steps := keySteps key, stepping := false } }
      | .commit i :: _ =>
        match s.streams[i].manifest with
        | some m =>
          match commitRun s.store i m with
          | some r => s.withStore { s.store with run := some r }
          | none => beginOps n (storeFailed i (s.withStore s.store.popOp))
        | none => beginOps n (s.withStore s.store.popOp)

/-- The arbiter of the non-volatile memory (R133): the head operation begins, and its next step starts if it may. -/
def runStore (s : State) : State := startStep (beginOps s.store.ops.length s)

/-- Append an operation to the queue (R133). -/
def joinOps (op : NvmOp) (s : State) : State :=
  runStore (s.withStore { s.store with ops := s.store.ops ++ [op] })

/-- Enter COMMITTING at the WRITTEN for block N − 1 (R38): timers stop, the stage is absent, the reservation is returned and
the commit joins the operation queue. -/
def enterCommitting (i : StreamNo) (s : State) : State :=
  let s1 := s.setStream i { s.streams[i].timersStopped with state := .committing, stage := none }
  joinOps (.commit i) (returnReservation i s1)

/-! ## What an erase that does not end well leaves (R128, R138, R139, R142) -/

/-- The page an operation is forming (R136, R137), if it forms one. -/
def NvmJob.forms : NvmJob → Option PageId
  | .compact _ _ page _ => some page
  | .newPage _ _ => some .a
  | .scan _ => none
  | .append _ _ _ _ => none
  | .installKey => none

/-- Whether an operation is the start-up scan (R131). -/
def NvmJob.isScan : NvmJob → Bool
  | .scan _ => true
  | .append _ _ _ _ | .compact _ _ _ _ | .newPage _ _ | .installKey => false

/-- What an erase of a page that a reset cuts short, or that fails in a commit, may leave of the page, `c` being the content it
would have: a page that was valid and is not the one being formed may still be valid, with the sequence it had, and any other page is
invalid (R128, R138, R139; notes/assumptions/2 and 25). -/
def settlePage (m : Memory) (job : NvmJob) (p : PageId) (c : Memory) : Memory :=
  if pageValid c p = false then c
  else if pageValid m p = true ∧ job.forms ≠ some p then
    c.writeAll erasedByte (NvmUnit.page p).base (m.readAll erasedByte (NvmUnit.page p).base 4)
  else c.write erasedByte (completeMarkerAddress p) erasedByte

/-- What an erase of the key area that a reset cuts short may leave: no key marker that was not there (R142; notes/assumptions/2). -/
def settleKey (m c : Memory) : Memory :=
  if keyMarked c = true ∧ keyMarked m = false then c.write erasedByte keyMarkerAddress erasedByte else c

/-- What a step that is cut short, or that fails in a commit, may leave of its unit's markers (R138, R139, R142). A program step changes its
byte alone. -/
def settleStep (m : Memory) (job : NvmJob) (st : NvmStep) (c : Memory) : Memory :=
  match st with
  | .program _ _ => c
  | .erase (.page p) => settlePage m job p c
  | .erase .key => settleKey m c

/-! ## The end of a step (R126, R135 to R138, R142) -/

/-- The memory that a step's readback `rb` shows, and whether the step succeeded (R126); `none` for a readback that does not have
the step's shape. A failed step's byte or unit holds what it reads: a first program step that fails with its byte still 0xFF leaves
its slot, or the key area, all 0xFF, and the next scan finds that slot free, or that area erased (notes/assumptions/25). -/
def stepResult (m : Memory) (st : NvmStep) (rb : Readback) : Option (Memory × Bool) :=
  match st, rb with
  | .program a v, .asMeant => some (m.write erasedByte a v, true)
  | .program a v, .reads bs =>
    match bs with
    | [b] => some (m.write erasedByte a b, b == v)
    | _ => none
  | .erase u, .asMeant => some (m.clear u.base u.size, true)
  | .erase u, .reads bs =>
    if bs.length = u.size then
      some ((m.clear u.base u.size).writeAll erasedByte u.base bs, bs.all (· == erasedByte))
    else none

/-- The memory after a step of an operation has been read back as `c`. A scrub that does not read back erased leaves its unit as it reads
(R131); a failed erase of a commit makes no page valid (R128, R138; notes/assumptions/25). -/
def stepLeaves (m : Memory) (job : NvmJob) (st : NvmStep) (c : Memory) (ok : Bool) : Memory :=
  if ok || job.isScan then c else settleStep m job st c

/-- The store after a step has been read back: an erase step decides its page's erased flag (R131, R136). -/
def Store.stepEnded (t : Store) (st : NvmStep) (ok : Bool) : Store :=
  match st with
  | .erase (.page p) => t.setErased p ok
  | .erase .key => t
  | .program _ _ => t

/-- The new page takes over (R136, R137): the governing rows take their new positions, the committing target's the new record. -/
def pageSwitched (t : Store) (p : PageId) (sequence : Word32) (r : VersionRecord) : Store :=
  let moved := t.governing.mapIdx fun n g => { record := g.record, page := p, slot := n : GovRow }
  { t with
    governing := putRow { record := r, page := p, slot := t.governing.length } moved
    activePage := some p
    activeSeq := some sequence
    appendPos := t.governing.length + 1 }

/-- A commit's last step has succeeded: its operation leaves the queue and the stream moves on. -/
def commitDone (i : StreamNo) (r : VersionRecord) (s : State) : State := commitEnded i r (s.withStore s.store.popOp)

/-- The running operation after a step that succeeded, with `rest` still to do. -/
def afterGoodStep (r : NvmRun) (st : NvmStep) (rest : List NvmStep) (s : State) : State :=
  let next := s.withStore { s.store with run := some { r with steps := rest, stepping := false } }
  match r.job with
  | .scan c =>
    if rest.isEmpty then finishScan c .recovered (s.withStore { s.store with run := none }) else next
  | .append i rec p n =>
    if rest.isEmpty then
      commitDone i rec (s.withStore
        { s.store with governing := putRow { record := rec, page := p, slot := n } s.store.governing
                       appendPos := s.store.appendPos + 1 })
    else next
  | .compact i rec x q =>
    if rest.isEmpty then commitDone i rec s
    else if st = .program (completeMarkerAddress x) 0x3C#8 then
      next.withStore { pageSwitched s.store x q rec with run := some { r with steps := rest, stepping := false } }
    else next
  | .newPage i rec =>
    if rest.isEmpty then commitDone i rec (s.withStore (pageSwitched s.store .a 1#32 rec)) else next
  | .installKey =>
    if rest.isEmpty then s.withStore { s.store.popOp with keyState := .installed } else next

/-- The running operation after a step that did not read back (R131, R136, R138, R142). -/
def afterBadStep (r : NvmRun) (st : NvmStep) (rest : List NvmStep) (s : State) : State :=
  match r.job with
  | .scan c =>
    let t := if st = .erase .key then { s.store with keyState := .failed } else s.store
    if rest.isEmpty then finishScan c .recovered (s.withStore { t with run := none })
    else s.withStore { t with run := some { r with steps := rest, stepping := false } }
  | .append i _ _ _ =>
    storeFailed i (s.withStore { s.store.popOp with appendPos := s.store.appendPos + 1 })
  | .compact i rec x _ =>
    if rest.isEmpty then commitDone i rec s
    else storeFailed i (s.withStore (s.store.popOp.setErased x false))
  | .newPage i _ => storeFailed i (s.withStore (s.store.popOp.setErased .a false))
  | .installKey => s.withStore { s.store.popOp with keyState := .failed }

/-- NVM_STEP_DONE (R126): the step in progress ends, its readback is judged, and the operation proceeds, succeeds or fails;
then the next operation begins and the next step starts, if they may (R133). -/
def execNvmStepDone (readback : Readback) (s : State) : Host.Outcome State Fault Refusal :=
  match s.store.run with
  | none => .fault .noStepInProgress
  | some r =>
    match r.steps with
    | [] => .fault .noStepInProgress
    | st :: rest =>
      if r.stepping = false then .fault .noStepInProgress
      else match stepResult s.nvm st readback with
        | none => .fault .readbackShape
        | some (m, ok) =>
          let s1 := (s.withNvm (stepLeaves s.nvm r.job st m ok)).withStore (s.store.stepEnded st ok)
          .next (runStore (if ok then afterGoodStep r st rest s1 else afterBadStep r st rest s1))

/-- KEY_INSTALL (R141). -/
def keyInstallReply (f : Frame) (s : State) : Reply :=
  if s.store.keyState = .erased then
    let s1 := joinOps (.installKey ((f.drop 2).take 32)) (s.withStore { s.store with keyState := .pending })
    { status := .accepted, data := [s1.store.keyState.code], state := s1 }
  else { status := .state, data := [s.store.keyState.code], state := s }

/-- KEY_INSTALL (R141): the version store judges the request by the key state. -/
def execKeyInstall (lane : Lane) (frame : Frame) (s : State) : Host.Outcome State Fault Refusal :=
  judgeKind .keyInstall lane frame s (keyInstallReply frame s)

end Sys2Proof.Machine
end

