-- ==== Sys2Proof/Machine/Engine.lean ====
section
/-! DEFINITION. The digest engine (chapter 5): the FIFO, the judging of its head, and the completion of a block job; what a
MAC job reads. -/

namespace Sys2Proof.Machine

/-- The stream a job belongs to (R91): a block job's is its slot's owner. -/
def jobStream (s : State) : Job → Option StreamNo
  | .block k => s.slots[k].holder.map Holder.stream
  | .mac i => some i

/-- Discard a job that has left the FIFO (R91): a block job's slot is freed, and the ABORTING stream may resolve. -/
def discardJob (j : Job) (i : StreamNo) (s : State) : State :=
  match j with
  | .block k => freeEndedSlot k i s
  | .mac _ => resolveAbort i s

/-- Start a job (R91): the engine is busy, and a block job's slot goes from COMPLETE to HASHING. -/
def startJob (j : Job) (s : State) : State :=
  let s1 := s.withEngine { s.engine with busy := true }
  match j with
  | .block k => s1.setSlot k { s1.slots[k] with state := .hashing }
  | .mac _ => s1

/-- The idle engine judges the head job (R91), discarding for at most `n` heads. A job no stream stands behind leaves the FIFO. -/
def judgeHeads : Nat → State → State
  | 0, s => s
  | n + 1, s =>
    if s.engine.busy then s
    else match s.engine.fifo with
      | [] => s
      | j :: rest =>
        let s1 := s.withEngine { s.engine with fifo := rest }
        match jobStream s j with
        | some i =>
          if s.streams[i].state = .aborting then judgeHeads n (discardJob j i s1) else startJob j s
        | none => judgeHeads n s1

/-- Judge the head while the engine is idle (R91). -/
def judgeHead (s : State) : State := judgeHeads s.engine.fifo.length s

/-- Append a job at the tail of the FIFO (R89, R90), and judge the head if the engine is idle. -/
def appendJob (j : Job) (s : State) : State := judgeHead (s.withEngine { s.engine with fifo := s.engine.fifo ++ [j] })

/-- Clear a slot after a mismatch within the limit (R81, R98): back to FILLING, empty, with the new fail count; quiet timers start
if their condition has become true (R33); the REFETCH record is queued. -/
def clearSlot (k : SlotNo) (h : Holder) (newFail : Nat) (s : State) : State :=
  let before := quietCondition s h.stream
  let s1 := s.setSlot k { s.slots[k] with state := .filling, filled := 0, byteCount := 0, failCount := newFail }
  let s2 := if before then s1 else s1.setStream h.stream (s1.streams[h.stream].quietStarted (quietInterval s1))
  queueRecord (.refetch h.stream h.block newFail) s2

/-- A mismatch for a block of an ACTIVE stream (R97, R98, R99). -/
def blockMismatch (k : SlotNo) (h : Holder) (m : Accepted) (s : State) : State :=
  let s1 := countStream h.stream .digestFailures s
  let newFail := s1.slots[k].failCount + 1
  if newFail ≤ m.blockRetryLimit then clearSlot k h newFail s1 else enterFaulted h.stream .digest s1

/-- A match for a block of an ACTIVE stream (R96): the slot is VERIFIED and the release engine judges its start conditions. -/
def blockMatch (k : SlotNo) (h : Holder) (s : State) : State :=
  tryRelease h.stream (s.setSlot k { s.slots[k] with state := .verified })

/-- Whether the block's bytes hash to its manifest digest (R92, R95). -/
def blockMatches (s : State) (k : SlotNo) (h : Holder) (m : Accepted) : Bool :=
  sha256 (slotBytes s k (m.blockBytes h.block)) == digestOf s h.stream h.block

/-- The outcome of a completed block job by the owner stream's state (R95). The job has left the FIFO. -/
def blockOutcome (k : SlotNo) (s : State) : State :=
  match s.slots[k].holder with
  | none => s
  | some h =>
    match s.streams[h.stream].state, s.streams[h.stream].manifest with
    | .active, some m => if blockMatches s k h m then blockMatch k h s else blockMismatch k h m s
    | _, _ => freeEndedSlot k h.stream s

/-- The head job leaves the FIFO and the engine is idle (R95). -/
def jobLeft (s : State) : State := s.withEngine { fifo := s.engine.fifo.tail, busy := false }

/-- BLOCK_JOB_DONE (R95): the running block job completes, its outcome is acted on or discarded, and the next head is judged.
With no block job running, the completion is that of a job which a start-up abandoned: it has no outcome and nothing happens (R102;
notes/assumptions/23). -/
def execBlockJobDone (s : State) : Host.Outcome State Fault Refusal :=
  if s.engine.busy then
    match s.engine.fifo with
    | .block k :: _ => .next (judgeHead (blockOutcome k (jobLeft s)))
    | _ => .next s
  else .next s

/-- The manifest bytes of a stream in load order: the header, then entries 0 to N′ − 1 (R12). -/
def manifestBytes (s : State) (i : StreamNo) : List Byte :=
  let r := s.manifests[i]
  r.header.toList ++ (List.range (r.declaredBlocks.getD 0)).flatMap fun j => entryBytesOf s i j

/-- The device key in the key area (R140). -/
def deviceKey (m : Memory) : List Byte := m.readAll erasedByte NvmUnit.key.base 32

/-- Whether a stream's MAC matches the expected one (R12, R93, R100). -/
def macMatches (s : State) (i : StreamNo) : Bool :=
  s.manifests[i].expectedMac == some (hmacSha256 (deviceKey s.nvm) (manifestBytes s i))

end Sys2Proof.Machine
end

