-- ==== Sys2Proof/Machine/Acks.lean ====
section
/-! DEFINITION. Target acknowledgements and timeouts (chapter 6, sections 6.5, 6.6 and 6.8). -/

namespace Sys2Proof.Machine

/-- The results an acknowledgement carries (section 11.3). -/
inductive AckResult where
  | written | busy | rejected | activated
  deriving DecidableEq, Repr

/-- The result a code names, if any (section 11.3). -/
def ackResultOf (b : Byte) : Option AckResult :=
  if b = 0x01#8 then some .written else if b = 0x02#8 then some .busy
  else if b = 0x03#8 then some .rejected else if b = 0x04#8 then some .activated else none

/-- The stream whose accepted manifest names this port and this ack identifier (R112). -/
def ackStream (s : State) (p : Port) (ident : Ident) : Option StreamNo :=
  (List.finRange 8).find? fun i =>
    match s.streams[i].manifest with
    | some m => m.port == p && m.ackId == ident
    | none => false

/-- An ignored acknowledgement (R113). -/
def untimely (i : StreamNo) (s : State) : State := countStream i .untimely s

/-- Stop a stream's acknowledgement timer. -/
def stopAckTimer (i : StreamNo) (s : State) : State := s.setCtx i { s.contexts[i] with ackTimer := none }

/-- Start or restart a stream's acknowledgement timer with the LONG interval (R115, R123). -/
def restartLong (i : StreamNo) (s : State) : State := s.setCtx i { s.contexts[i] with ackTimer := some (ackInterval s .long) }

/-! ## An acknowledgement that comes together with a timeout (R109, R120) -/

/-- The port, identifier and block index of a command that is a well-formed WRITTEN, BUSY or REJECTED (R112, R120). -/
def answerOf : Instr → Option (Port × Ident × Nat)
  | .written p d b => some (p, d, b.toNat)
  | .busy p d b => some (p, d, b.toNat)
  | .rejected p d b => some (p, d, b.toNat)
  | .branchFrame p d f =>
    if f.length < 3 then none
    else match ackResultOf (byteAt f 2) with
      | some .activated => none
      | some _ => some (p, d, fieldAt f 0 2)
      | none => none
  | _ => none

/-- Whether the next command is an answer for block `b` of stream `i`: it came together with the one being taken (R120;
notes/assumptions/24). -/
def answerWaits (i : StreamNo) (b : Nat) (s : State) : Bool :=
  match s.pending.head?.bind answerOf with
  | some (p, d, n) => n == b && ackStream s p d == some i
  | none => false

/-- The arbiter's search for the resend of block `b`: an answer that came together with the timeout is taken before it, and finds the
block in SENDING (R109, R120; notes/assumptions/24). -/
def serveResend (i : StreamNo) (b : Nat) (s : State) : State := if answerWaits i b s then s else serveStreamPort i s

/-- An ignored WRITTEN, BUSY or REJECTED for block `b` (R113). The resend of a block that is in SENDING goes on: the search follows. -/
def untimelyAnswer (i : StreamNo) (b : Nat) (s : State) : State :=
  let s1 := untimely i s
  if s1.streams[i].state = .active ∧ s1.streams[i].stage = some ⟨.sending, b⟩ then serveResend i b s1 else s1

/-! ## Timeouts (R118, R119, R123) -/

/-- A timeout of the outstanding block `b` in slot `k` of an ACTIVE stream with release retry limit `limit` (R118, R119). The resend
takes its turn at the arbiter in the same step (R109, R110), or, when an answer for the block came together with the timeout, after
that answer (R120; notes/assumptions/24). -/
def blockTimeout (i : StreamNo) (b : Nat) (k : SlotNo) (limit : Nat) (s : State) : State :=
  if s.slots[k].retryCount < limit then
    let s1 := countStream i .releaseRetries
      (s.setSlot k { s.slots[k] with retryCount := s.slots[k].retryCount + 1, busyCount := 0 })
    let s2 := stopAckTimer i s1
    if supplyOk s2 then serveResend i b (startResend i b s2)
    else s2.setCtx i { s2.contexts[i] with resendHeld := true }
  else enterFaulted i .targetSilent s

/-- A timeout of the END frame of an ENDING stream (R123). -/
def endTimeout (i : StreamNo) (limit : Nat) (s : State) : State :=
  let c := s.contexts[i]
  if c.endRetry < limit then
    let s1 := (countStream i .releaseRetries s).setCtx i
      { c with endRetry := c.endRetry + 1, endBusy := 0, ackTimer := none }
    if supplyOk s1 then serveStreamPort i (startEnd i s1)
    else s1.setCtx i { s1.contexts[i] with startHeld := true }
  else enterFaulted i .targetSilent s

/-! ## The four results (R113 to R116, R123) -/

/-- What an acknowledgement for block `b` of stream `i` concerns (R113): the outstanding block and its slot, the END frame, or
nothing it may move. -/
inductive AckSubject where
  | block (k : SlotNo) (limit : Nat)
  | endFrame (limit : Nat)
  | none
  deriving DecidableEq, Repr

/-- The subject of an acknowledgement, by state and stage (R113). -/
def ackSubject (s : State) (i : StreamNo) (b : Nat) : AckSubject :=
  let x := s.streams[i]
  match x.manifest with
  | some m =>
    if x.stage = some ⟨.awaiting, b⟩ then
      if x.state = .active then
        match slotOf s i b with
        | some k => .block k m.releaseRetryLimit
        | none => .none
      else if x.state = .ending ∧ b = m.blockCount then .endFrame m.releaseRetryLimit
      else .none
    else .none
  | none => .none

/-- A WRITTEN for the outstanding block, held in slot `k` (R114). -/
def acceptWritten (i : StreamNo) (k : SlotNo) (s : State) : State :=
  let s1 := s.setCtx i { s.contexts[i] with ackTimer := none, resendHeld := false }
  let s2 := freeSlot k s1
  let low := s.streams[i].lowEdge + 1
  let s3 := s2.setStream i { s2.streams[i] with lowEdge := low, stage := none }
  let s4 := queueWindow i low s.streams[i].window s3
  if low = s.streams[i].blockCount then enterCommitting i s4 else tryRelease i s4

/-- A WRITTEN (R113, R114). -/
def ackWritten (i : StreamNo) (b : Nat) (s : State) : State :=
  match ackSubject s i b with
  | .block k _ => acceptWritten i k s
  | .endFrame _ => untimely i s
  | .none => untimelyAnswer i b s

/-- A BUSY (R113, R115, R123). -/
def ackBusy (i : StreamNo) (b : Nat) (s : State) : State :=
  match ackSubject s i b with
  | .block k limit =>
    let s1 := countStream i .busy s
    if s.contexts[i].resendHeld then s1
    else if s.slots[k].busyCount < s.params.busyLimit then
      restartLong i (s1.setSlot k { s1.slots[k] with busyCount := s1.slots[k].busyCount + 1 })
    else blockTimeout i b k limit s1
  | .endFrame limit =>
    let s1 := countStream i .busy s
    if s.contexts[i].startHeld then s1
    else if s.contexts[i].endBusy < s.params.busyLimit then
      restartLong i (s1.setCtx i { s1.contexts[i] with endBusy := s1.contexts[i].endBusy + 1 })
    else endTimeout i limit s1
  | .none => untimelyAnswer i b s

/-- A REJECTED (R116, R123). -/
def ackRejected (i : StreamNo) (b : Nat) (s : State) : State :=
  match ackSubject s i b with
  | .block _ _ => enterFaulted i .targetReject s
  | .endFrame _ => enterFaulted i .targetReject s
  | .none => untimelyAnswer i b s

/-- The position's frame has been answered for good, if it is stream `i`'s (notes/assumptions/9). -/
def BranchPort.answeredFor (p : BranchPort) (i : StreamNo) : BranchPort :=
  { p with position := p.position.map fun f => if f.stream = i then { f with answered := true } else f }

/-- An ACTIVATED for the END frame (R123): the timer stops, no start is held, the stage is absent, and the stream is DONE. -/
def acceptActivated (i : StreamNo) (s : State) : State :=
  let s1 := s.setCtx i { s.contexts[i] with ackTimer := none, startHeld := false }
  let s2 := s1.setStream i { s1.streams[i] with state := .done, stage := none }
  let s3 := match s2.streams[i].manifest with
    | some m => s2.setPort m.port (s2.ports[m.port].answeredFor i)
    | none => s2
  queueRecord (.stream i .done none) s3

/-- An ACTIVATED (R113, R123). -/
def ackActivated (i : StreamNo) (b : Nat) (s : State) : State :=
  match ackSubject s i b with
  | .block _ _ => untimely i s
  | .endFrame _ => acceptActivated i s
  | .none => untimely i s

/-- Judge a well-formed acknowledgement (R113). -/
def judgeAck (i : StreamNo) (b : Nat) (r : AckResult) (s : State) : State :=
  match r with
  | .written => ackWritten i b s
  | .busy => ackBusy i b s
  | .rejected => ackRejected i b s
  | .activated => ackActivated i b s

/-- A well-formed acknowledgement frame on a port (R112): no matching stream, ignored and not counted. -/
def takeAck (p : Port) (ident : Ident) (b : Nat) (r : AckResult) (s : State) : State :=
  match ackStream s p ident with
  | some i => judgeAck i b r s
  | none => s

/-- WRITTEN (R114). -/
def execWritten (port : Port) (ident : Ident) (block : Word16) (s : State) : Host.Outcome State Fault Refusal :=
  .next (takeAck port ident block.toNat .written s)

/-- BUSY (R115, R123). -/
def execBusy (port : Port) (ident : Ident) (block : Word16) (s : State) : Host.Outcome State Fault Refusal :=
  .next (takeAck port ident block.toNat .busy s)

/-- REJECTED (R116, R123). -/
def execRejected (port : Port) (ident : Ident) (block : Word16) (s : State) : Host.Outcome State Fault Refusal :=
  .next (takeAck port ident block.toNat .rejected s)

/-- ACTIVATED (R123). -/
def execActivated (port : Port) (ident : Ident) (block : Word16) (s : State) : Host.Outcome State Fault Refusal :=
  .next (takeAck port ident block.toNat .activated s)

/-- BRANCH_FRAME (R112): a frame that no stream's ack identifier matches is ignored; one that matches and is malformed is
counted UNTIMELY; a well-formed one is judged as R113 states. Bytes beyond the third are ignored. -/
def execBranchFrame (port : Port) (ident : Ident) (data : Frame) (s : State) : Host.Outcome State Fault Refusal :=
  match ackStream s port ident with
  | none => .next s
  | some i =>
    if data.length < 3 then .next (untimely i s)
    else match ackResultOf (byteAt data 2) with
      | none => .next (untimely i s)
      | some r => .next (judgeAck i (fieldAt data 0 2) r s)

/-- ACK_TIMEOUT (R118, R119, R123): the acknowledgement timer of a stream expires; it runs only while the stage is AWAITING
(R104). A stopped timer does not expire: nothing happens (R120; notes/assumptions/22). -/
def execAckTimeout (stream : StreamNo) (s : State) : Host.Outcome State Fault Refusal :=
  if s.contexts[stream].ackTimer.isSome then
    match s.streams[stream].stage with
    | some g =>
      match ackSubject s stream g.block with
      | .block k limit => .next (blockTimeout stream g.block k limit s)
      | .endFrame limit => .next (endTimeout stream limit s)
      | .none => .next s
    | none => .next s
  else .next s

end Sys2Proof.Machine
end

