-- ==== Sys2Proof/Machine/Intake.lean ====
section
/-! DEFINITION. Trunk lanes, segment intake and block assembly (chapters 3 and 4). -/

namespace Sys2Proof.Machine

/-- The stream number a byte names, if it is 0 to 7 (R55, R28). -/
def streamNoOf (b : Byte) : Option StreamNo := if h : b.toNat < 8 then some ⟨b.toNat, h⟩ else none

/-! ## Placement (R76, R77, R78) -/

/-- Allocate slot `k` for block `b` of stream `i` (R76). -/
def allocateSlot (k : SlotNo) (i : StreamNo) (b expected : Nat) (s : State) : State :=
  s.setSlot k { Slot.free with state := .filling, holder := some { stream := i, block := b, expected := expected } }

/-- Serve the member record of the lane a placed segment arrived on (R34): its quiet timer restarts while R33's conditions hold,
and a QUIET member becomes ACTIVE with its MEMBER record. -/
def serveMember (i : StreamNo) (l : Lane) (s : State) : State :=
  let x := s.streams[i]
  match x.members[l] with
  | none => s
  | some m =>
    let timer := if quietCondition s i then some (quietInterval s) else none
    let s1 := s.setStream i { x with members := x.members.set l (some { state := .active, timer := timer }) }
    if m.state = .quiet then queueRecord (.member i l .active) s1 else s1

/-- Complete a slot (R78): COMPLETE, one block job appended, and the quiet-timer conditions judged again. -/
def completeSlot (k : SlotNo) (i : StreamNo) (s : State) : State :=
  stopQuietIfDone i (appendJob (.block k) (s.setSlot k { s.slots[k] with state := .complete }))

/-- A slot with position `p` filled by a payload of `n` bytes (R77). -/
def Slot.fill (x : Slot) (p n : Nat) : Slot :=
  { x with filled := x.filled ||| (1#64 <<< p), byteCount := x.byteCount + n }

/-- Whether a slot's filled positions number its expected segment count (R78). -/
def Slot.isFull (x : Slot) : Bool :=
  match x.holder with
  | some h => filledCount x.filled h.expected == h.expected
  | none => false

/-- Place a segment of stream `i` at position `p` of slot `k` (R77). -/
def placeSegment (l : Lane) (i : StreamNo) (k : SlotNo) (p segmentUnit : Nat) (payload : List Byte) (s : State) : State :=
  let s1 := s.withStaging (s.staging.writeAll 0 (stagingAddress k (p * segmentUnit)) payload)
  let s2 := s1.setSlot k (s1.slots[k].fill p payload.length)
  let s3 := countStream i .placed s2
  let s4 := s3.setStream i { s3.streams[i] with stallCount := 0, stallTimer := some (stallInterval s3) }
  let s5 := serveMember i l s4
  if s5.slots[k].isFull then completeSlot k i s5 else s5

/-! ## Judging a segment (R69 to R74) -/

/-- The outcome of a segment (R69). -/
inductive SegmentOutcome where
  | inactive | foreign | beyond | length | stale | ahead | duplicate
  /-- placed at a position of a slot that holds the block -/
  | place (k : SlotNo) (p segmentUnit : Nat)
  /-- placed after allocating a slot for the block -/
  | allocate (k : SlotNo) (b expected p segmentUnit : Nat)
  deriving DecidableEq, Repr

/-- The steps of R69 for segment `k` with a payload of `n` bytes, arriving on lane `l` for stream `i`.
With no FREE slot for an allocation, which R76 rules out, the segment is AHEAD. -/
def segmentOutcome (s : State) (l : Lane) (i : StreamNo) (k n : Nat) : SegmentOutcome :=
  let x := s.streams[i]
  match x.manifest with
  | none => .inactive
  | some m =>
    let b := k / m.perBlock
    let p := k % m.perBlock
    if x.state ≠ .active then .inactive
    else if x.members[l].isNone then .foreign
    else if m.segmentCount ≤ k then .beyond
    else if n ≠ m.segmentLength k then .length
    else if b < x.lowEdge then .stale
    else if x.lowEdge + x.window ≤ b then .ahead
    else match slotOf s i b with
      | some q =>
        if s.slots[q].state.reachedComplete || s.slots[q].filled.getLsbD p then .duplicate
        else .place q p m.segmentUnit
      | none =>
        match lowestFree s with
        | some q => .allocate q b (m.blockSegments b) p m.segmentUnit
        | none => .ahead

/-- The block assembler judges a good segment (R69): one outcome, one counter. -/
def assemble (l : Lane) (i : StreamNo) (k : Nat) (payload : List Byte) (s : State) : State :=
  match segmentOutcome s l i k payload.length with
  | .inactive => countLane l .inactive s
  | .foreign => countLane l .foreign s
  | .beyond => countStream i .beyond s
  | .length => countStream i .length s
  | .stale => countStream i .stale s
  | .ahead => queueWindow i s.streams[i].lowEdge s.streams[i].window (countStream i .ahead s)
  | .duplicate => countStream i .duplicate s
  | .place q p u => placeSegment l i q p u payload s
  | .allocate q b e p u => placeSegment l i q p u payload (allocateSlot q i b e s)

/-! ## The lane integrity machine (R58 to R60) -/

/-- Shut a lane off from intake (R58, R60): BLOCKED, the quarantine timer started, and a LANE record queued. -/
def blockLane (l : Lane) (s : State) : State :=
  queueRecord (.lane l .blocked)
    (s.setLane l { s.lanes[l] with integrity := .blocked, quarantine := some (s.params.quarantine * 10) })

/-- A lane fault (R53, R58, R60), counted under the counter named. -/
def laneFault (l : Lane) (k : LaneCounter) (s : State) : State :=
  let s1 := countLane l k s
  match s1.lanes[l].integrity with
  | .opened =>
    let c := s1.lanes[l].faults + 1
    let s2 := s1.setLane l { s1.lanes[l] with faults := c }
    if s2.params.faultThreshold ≤ c then blockLane l s2 else s2
  | .guarded => blockLane l s1
  | .blocked => s1

/-- The integrity machine takes a good segment (R58, R60). -/
def laneGood (l : Lane) (s : State) : State :=
  match s.lanes[l].integrity with
  | .opened => s.setLane l { s.lanes[l] with faults := 0 }
  | .guarded =>
    let g := s.lanes[l].good + 1
    if s.params.guardCount ≤ g then
      queueRecord (.lane l .opened) (s.setLane l { s.lanes[l] with integrity := .opened, good := g, faults := 0 })
    else s.setLane l { s.lanes[l] with good := g }
  | .blocked => s

/-! ## Frames (R49 to R57) -/

/-- The header tests of R55 for a frame of at least 8 bytes on lane `l`. -/
def headerOk (l : Lane) (f : Frame) : Bool :=
  checkSumOk (f.take 8) && decide ((byteAt f 0).toNat < 8)
    && decide (1 ≤ (byteAt f 3).toNat ∧ (byteAt f 3).toNat ≤ 56) && byteAt f 6 == byteOf l

/-- The payload of a segment frame: payload-length bytes from byte 8 (section 3.4). -/
def segmentPayload (f : Frame) : List Byte := (f.drop 8).take (byteAt f 3).toNat

/-- What a lane's checks find in a segment frame (R53). -/
inductive FrameVerdict where
  | blocked | short | header | payload
  | good (stream : StreamNo) (index : Nat) (bytes : List Byte)
  deriving DecidableEq, Repr

/-- The steps of R53 for a segment frame. -/
def frameVerdict (s : State) (l : Lane) (f : Frame) : FrameVerdict :=
  if s.lanes[l].integrity = .blocked then .blocked
  else if f.length < 8 then .short
  else if headerOk l f = false then .header
  else if f.length < 8 + (byteAt f 3).toNat then .short
  else if onesSum 0 (segmentPayload f) ≠ fieldAt f 4 2 then .payload
  else match streamNoOf (byteAt f 0) with
    | some i => .good i (fieldAt f 1 2) (segmentPayload f)
    | none => .header

/-- A lane takes a segment frame (R53, R57). -/
def takeSegment (l : Lane) (f : Frame) (s : State) : State :=
  let s1 := countLane l .frames s
  match frameVerdict s l f with
  | .blocked => countLane l .blocked s1
  | .short => laneFault l .short s1
  | .header => laneFault l .header s1
  | .payload => laneFault l .payload s1
  | .good i k bytes => assemble l i k bytes (laneGood l (countLane l .good s1))

/-- The capacity of a control queue (R47). -/
def controlQueueMax : Nat := 4

/-- A lane takes a control frame (R51); the interpreter then searches (R151). -/
def takeControl (l : Lane) (f : Frame) (s : State) : State :=
  if s.params.controlLanes.getLsbD l = false then countLane l .controlForeign s
  else if controlQueueMax ≤ s.lanes[l].queue.length then countLane l .controlOverrun s
  else serveLane (s.setLane l { s.lanes[l] with queue := s.lanes[l].queue ++ [f] })

/-- A lane receiver judges a frame its controller hands it (R48, R49). -/
def receiveFrame (l : Lane) (ident : Ident) (f : Frame) (s : State) : State :=
  if s.phase ≠ .running then s
  else if s.params.laneEnable.getLsbD l = false then s
  else if ident = s.params.segId then takeSegment l f s
  else if ident = s.params.ctlId then takeControl l f s
  else s

/-- SEGMENT_FRAME (R53): a frame on SEG_ID. -/
def execSegmentFrame (lane : Lane) (data : Frame) (s : State) : Host.Outcome State Fault Refusal :=
  .next (receiveFrame lane s.params.segId data s)

/-- CONTROL_FRAME (R51): a frame on CTL_ID. -/
def execControlFrame (lane : Lane) (data : Frame) (s : State) : Host.Outcome State Fault Refusal :=
  .next (receiveFrame lane s.params.ctlId data s)

/-- OTHER_TRUNK_FRAME (R49): a frame whose identifier decides its path; on a disabled lane, during start-up, on RSP_ID or on any
identifier but SEG_ID and CTL_ID it is discarded without being counted. -/
def execOtherTrunkFrame (lane : Lane) (ident : Ident) (data : Frame) (s : State) : Host.Outcome State Fault Refusal :=
  .next (receiveFrame lane ident data s)

/-- QUARANTINE_EXPIRY (R59): the lane enters GUARDED with g = 0, and a LANE record is queued. A stopped timer does not
expire: nothing happens (notes/assumptions/22). -/
def execQuarantineExpiry (lane : Lane) (s : State) : Host.Outcome State Fault Refusal :=
  if s.lanes[lane].quarantine.isSome then
    .next (queueRecord (.lane lane .guarded)
      (s.setLane lane { s.lanes[lane] with integrity := .guarded, good := 0, quarantine := none }))
  else .next s

end Sys2Proof.Machine
end

