-- ==== Sys2Proof/Machine/Manifest.lean ====
section
/-! DEFINITION. The manifest store (chapter 1): the three load requests, authentication and the acceptance checks. -/

namespace Sys2Proof.Machine

/-- The free-extent pool, ascending: the extents in no stream's list (R3). -/
def freeExtents (s : State) : List Nat :=
  (List.range 32).filter fun e => !((List.finRange 8).any fun i => s.manifests[i].extents.contains e)

/-- Extents needed for `n` entries: ceil(n / 64) (R4). -/
def extentsFor (n : Nat) : Nat := (n + extentEntries - 1) / extentEntries

/-- The largest block count (R1). -/
def maxBlocks : Nat := 2048

/-- The block count that a declared total length stands for, if it is 64 + 34 × N′ for N′ from 1 to 2,048 (R7). -/
def declaredCount (len : Nat) : Option Nat :=
  if 98 ≤ len ∧ len ≤ 69696 ∧ (len - 64) % 34 = 0 then some ((len - 64) / 34) else none

/-- Whether a stream is LOADING or AUTHENTICATING (R6). -/
def StreamState.loads (x : StreamState) : Bool := x == .loading || x == .authenticating

/-- The stream that is LOADING, if any (R6). -/
def loadingStream (s : State) : Option StreamNo := (List.finRange 8).find? fun i => s.streams[i].state == .loading

/-- Whether a stream other than `i` is LOADING or AUTHENTICATING (R7, condition 3). -/
def otherLoads (s : State) (i : StreamNo) : Bool := (List.finRange 8).any fun j => j != i && s.streams[j].state.loads

/-! ## MANIFEST_BEGIN (R4, R7) -/

/-- Take the extents for a load and put the stream in LOADING (R4, R7). -/
def beginLoad (i : StreamNo) (len n : Nat) (s : State) : State :=
  let es := (freeExtents s).take (extentsFor n)
  let s1 := s.withEntries
    (es.foldl (fun m e => m.clear (entryAddress (e * extentEntries) 0) (extentEntries * entrySize)) s.entryBytes)
    (es.foldl (fun m e => m.clear (e * extentEntries) extentEntries) s.entryCounts)
  let s2 := s1.setManifest i
    { s1.manifests[i] with extents := es, declaredLength := some len, declaredBlocks := some n, received := 0 }
  s2.setStream i { s2.streams[i] with state := .loading }

/-- The conditions of R7 in order. -/
def manifestBeginReply (f : Frame) (s : State) : Reply :=
  let refuse (st : Status) : Reply := { status := st, data := [0#8, byteOf (freeExtents s).length], state := s }
  match streamNoOf (byteAt f 2) with
  | none => refuse .range
  | some i =>
    if s.streams[i].state ≠ .vacant then refuse .state
    else if otherLoads s i then refuse .order
    else match declaredCount (fieldAt f 3 3) with
      | none => refuse .range
      | some n =>
        if (freeExtents s).length < extentsFor n then refuse .noRoom
        else
          let s1 := beginLoad i (fieldAt f 3 3) n s
          { status := .ok, data := [byteOf (extentsFor n), byteOf (freeExtents s1).length], state := s1 }

/-- MANIFEST_BEGIN (R7). -/
def execManifestBegin (lane : Lane) (frame : Frame) (s : State) : Host.Outcome State Fault Refusal :=
  judgeKind .manifestBegin lane frame s (manifestBeginReply frame s)

/-! ## MANIFEST_DATA (R8, R9) -/

/-- Store the manifest byte at offset `o` (R9): a header byte, or byte (o − 64) mod 34 of entry (o − 64) div 34. -/
def storeManifestByte (i : StreamNo) (o : Nat) (v : Byte) (s : State) : State :=
  let r := s.manifests[i]
  if h : o < 64 then s.setManifest i { r with header := r.header.set o v }
  else
    let e := entryIndex r ((o - 64) / entrySize)
    s.withEntries (s.entryBytes.write 0 (entryAddress e ((o - 64) % entrySize)) v)
      (s.entryCounts.write 0 e (s.entryCounts.read 0 e + 1))

/-- Store consecutive manifest bytes from offset `o` upward (R9). -/
def storeManifestBytes (i : StreamNo) (o : Nat) (vs : List Byte) (s : State) : State :=
  match vs with
  | [] => s
  | v :: rest => storeManifestBytes i (o + 1) rest (storeManifestByte i o v s)

/-- Write the bytes of a taken MANIFEST_DATA and raise the received count (R8). -/
def takeManifestData (i : StreamNo) (o : Nat) (vs : List Byte) (s : State) : State :=
  let s1 := storeManifestBytes i o vs s
  s1.setManifest i { s1.manifests[i] with received := s1.manifests[i].received + vs.length }

/-- The data of a MANIFEST_DATA or MANIFEST_END response: a stream number and its received count (section 11.1). -/
def loadData (number : Byte) (received : Nat) : List Byte := number :: beBytes 3 received

/-- What MANIFEST_DATA's response reports of the load in progress: 0xFF and 0 when no stream is LOADING (R8). -/
def loadingData (s : State) : List Byte :=
  match loadingStream s with
  | some i => loadData (byteOf i) s.manifests[i].received
  | none => loadData 0xFF#8 0

/-- The conditions of R8 in order. A RANGE refusal's data follows the layout of section 11.1 as the others do. -/
def manifestDataReply (f : Frame) (s : State) : Reply :=
  let o := fieldAt f 2 3
  let n := (byteAt f 5).toNat
  if n < 1 ∨ 58 < n then { status := .range, data := loadingData s, state := s }
  else match loadingStream s with
    | none => { status := .state, data := loadingData s, state := s }
    | some i =>
      let r := s.manifests[i]
      if o ≠ r.received ∨ r.declaredLength.getD 0 < o + n then { status := .order, data := loadingData s, state := s }
      else
        let s1 := takeManifestData i o ((f.drop 6).take n) s
        { status := .ok, data := loadingData s1, state := s1 }

/-- MANIFEST_DATA (R8). -/
def execManifestData (lane : Lane) (frame : Frame) (s : State) : Host.Outcome State Fault Refusal :=
  judgeKind .manifestData lane frame s (manifestDataReply frame s)

/-! ## MANIFEST_END (R11) -/

/-- Whether a job is a MAC job (R11). -/
def Job.isMac : Job → Bool
  | .mac _ => true
  | .block _ => false

/-- Start authentication (R11): the expected MAC is stored, the stream is AUTHENTICATING, and one MAC job is appended. -/
def beginAuthentication (i : StreamNo) (mac : List Byte) (s : State) : State :=
  let s1 := s.setManifest i { s.manifests[i] with expectedMac := some mac }
  appendJob (.mac i) (s1.setStream i { s1.streams[i] with state := .authenticating })

/-- The conditions of R11 in order. -/
def manifestEndReply (f : Frame) (s : State) : Reply :=
  match streamNoOf (byteAt f 2) with
  | none => { status := .range, data := loadData (byteAt f 2) 0, state := s }
  | some i =>
    let r := s.manifests[i]
    let refuse (st : Status) : Reply := { status := st, data := loadData (byteOf i) r.received, state := s }
    if s.streams[i].state ≠ .loading then refuse .state
    else if r.received ≠ r.declaredLength.getD 0 then refuse .order
    else if s.engine.fifo.any Job.isMac then refuse .order
    else if s.store.keyState ≠ .installed then refuse .noKey
    else
      { status := .accepted, data := loadData (byteOf i) r.received
        state := beginAuthentication i ((f.drop 3).take 32) s }

/-- MANIFEST_END (R11). -/
def execManifestEnd (lane : Lane) (frame : Frame) (s : State) : Host.Outcome State Fault Refusal :=
  judgeKind .manifestEnd lane frame s (manifestEndReply frame s)

/-! ## The manifest's fields (R1, R20, section 11.4) -/

/-- The header fields as numbers (R1). -/
structure HeaderFields where
  format : Nat
  target : Nat
  port : Nat
  releaseId : Nat
  ackId : Nat
  version : Nat
  newFloor : Nat
  imageLength : Nat
  segmentUnit : Nat
  perBlock : Nat
  blockCount : Nat
  releaseRetryLimit : Nat
  blockRetryLimit : Nat
  flags : Byte
  imageTag : List Byte
  reserved : List Byte
  deriving DecidableEq, Repr

/-- Read the 64 header bytes (section 11.4). -/
def readHeader (h : List Byte) : HeaderFields :=
  { format := fieldAt h 0 1, target := fieldAt h 1 2, port := fieldAt h 3 1, releaseId := fieldAt h 4 2,
    ackId := fieldAt h 6 2, version := fieldAt h 8 4, newFloor := fieldAt h 12 4, imageLength := fieldAt h 16 4,
    segmentUnit := fieldAt h 20 1, perBlock := fieldAt h 21 1, blockCount := fieldAt h 22 2,
    releaseRetryLimit := fieldAt h 24 1, blockRetryLimit := fieldAt h 25 1, flags := byteAt h 26,
    imageTag := (h.drop 27).take 16, reserved := (h.drop 43).take 21 }

/-- ceil(a / b) for b at least 1 (00_scope, Conventions). -/
def ceilDiv (a b : Nat) : Nat := (a + b - 1) / b

/-- T = ceil(L / U) (R20). -/
def HeaderFields.segmentCount (h : HeaderFields) : Nat := ceilDiv h.imageLength h.segmentUnit

/-- The accepted fields and derived quantities of a header (R19, R20). -/
def HeaderFields.accepted (h : HeaderFields) : Accepted :=
  let t := h.segmentCount
  let n := ceilDiv t h.perBlock
  let b := h.perBlock * h.segmentUnit
  { format := BitVec.ofNat 8 h.format
    target := BitVec.ofNat 16 h.target
    port := Fin.ofNat 4 h.port
    releaseId := BitVec.ofNat 11 h.releaseId
    ackId := BitVec.ofNat 11 h.ackId
    version := BitVec.ofNat 32 h.version
    newFloor := BitVec.ofNat 32 h.newFloor
    imageLength := h.imageLength
    segmentUnit := h.segmentUnit
    perBlock := h.perBlock
    blockCount := n
    releaseRetryLimit := h.releaseRetryLimit
    blockRetryLimit := h.blockRetryLimit
    newTarget := h.flags.getLsbD 0
    imageTag := h.imageTag
    reserved := h.reserved
    segmentCount := t
    blockLength := b
    lastSegmentLength := h.imageLength - (t - 1) * h.segmentUnit
    lastBlockSegments := t - (n - 1) * h.perBlock
    lastBlockBytes := h.imageLength - (n - 1) * b }

/-! ## The acceptance checks (R14 to R19) -/

/-- An entry's flag bits other than LONG are zero and its reserved byte is zero (R2, R15). -/
def entryConsistent (e : List Byte) : Bool := byteAt e 32 &&& 0xFE#8 == 0#8 && byteAt e 33 == 0#8

/-- The conditions of R15 on the header fields, for the declared block count. -/
def headerConsistent (h : HeaderFields) (declared : Nat) : Bool :=
  h.format == 1
    && h.blockCount == declared
    && h.segmentUnit % 8 == 0 && decide (8 ≤ h.segmentUnit ∧ h.segmentUnit ≤ 56)
    && decide (1 ≤ h.perBlock ∧ h.perBlock ≤ 64)
    && decide (h.segmentCount ≤ 65536)
    && ceilDiv h.segmentCount h.perBlock == h.blockCount
    && decide (h.port ≤ 3)
    && decide (h.releaseId ≤ 0x7FF) && decide (h.ackId ≤ 0x7FF) && h.releaseId != h.ackId
    && decide (h.releaseRetryLimit ≤ 3) && decide (h.blockRetryLimit ≤ 3)
    && decide (h.newFloor ≤ h.version)
    && h.reserved.all (· == 0#8)
    && h.flags &&& 0xFE#8 == 0#8

/-- The consistency check (R15). -/
def manifestConsistent (s : State) (i : StreamNo) (h : HeaderFields) : Bool :=
  let n := s.manifests[i].declaredBlocks.getD 0
  headerConsistent h n && (List.range n).all fun j => entryConsistent (entryBytesOf s i j)

/-- The accepted manifests of the streams compared with stream `i` (R14). -/
def comparedManifests (s : State) (i : StreamNo) : List Accepted :=
  (List.finRange 8).filterMap fun j => if j = i then none else s.streams[j].manifest

/-- Whether two manifests clash on a branch port (R16). -/
def identifiersClash (a b : Accepted) : Bool :=
  a.port == b.port && (a.releaseId == b.releaseId || a.ackId == b.ackId || a.releaseId == b.ackId || a.ackId == b.releaseId)

/-- The targets the version store has to make room for (R18): governed ones, and new ones of compared streams, each once. -/
def roomCount (s : State) (i : StreamNo) : Nat :=
  s.store.governing.length +
    (((comparedManifests s i).map Accepted.target).filter fun t => (rowOf s.store.governing t).isNone).dedup.length

/-- The most targets the version store governs (R129). -/
def maxTargets : Nat := 16

/-- The cause of the first acceptance check that fails, if any (R14 to R19). -/
def acceptanceFailure (s : State) (i : StreamNo) (h : HeaderFields) : Option Cause :=
  let m := h.accepted
  let others := comparedManifests s i
  let row := rowOf s.store.governing m.target
  if manifestConsistent s i h = false then some .inconsistent
  else if others.any (identifiersClash m) then some .identConflict
  else if others.any (fun o => o.target == m.target) then some .targetBusy
  else if row.isNone ∧ m.newTarget = false then some .unknownTarget
  else if row.isNone ∧ maxTargets ≤ roomCount s i then some .noTargetRoom
  else if m.version.toNat < (floorOf s.store.governing m.target).toNat then some .belowFloor
  else none

/-- Accept a manifest (R19): floor, header fields and derived quantities are stored, the stream is READY, a STREAM record queued. -/
def acceptManifest (i : StreamNo) (m : Accepted) (s : State) : State :=
  queueRecord (.stream i .ready none)
    (s.setStream i { s.streams[i] with
      state := .ready, manifest := some m, floorAtAcceptance := some (floorOf s.store.governing m.target) })

/-- A match is judged by the acceptance checks (R14). -/
def judgeAcceptance (i : StreamNo) (s : State) : State :=
  let h := readHeader s.manifests[i].header.toList
  match acceptanceFailure s i h with
  | some c => enterVacant i c s
  | none => acceptManifest i h.accepted s

/-- The outcome of a completed MAC job by the stream's state (R100). The job has left the FIFO. -/
def macOutcome (i : StreamNo) (s : State) : State :=
  match s.streams[i].state with
  | .authenticating => if macMatches s i then judgeAcceptance i s else enterVacant i .authFail s
  | _ => resolveAbort i s

/-- MAC_JOB_DONE (R100): the running MAC job completes, its outcome is handed to acceptance or discarded, and the next head is
judged. With no MAC job running, the completion is that of a job which a start-up abandoned: it has no outcome and nothing
happens (R102; notes/assumptions/23). -/
def execMacJobDone (s : State) : Host.Outcome State Fault Refusal :=
  if s.engine.busy then
    match s.engine.fifo with
    | .mac i :: _ => .next (judgeHead (macOutcome i (jobLeft s)))
    | _ => .next s
  else .next s

end Sys2Proof.Machine
end

