-- ==== Sys2Proof/Machine/Streams.lean ====
section
/-! DEFINITION. The stream controller (chapter 2): the four stream requests, and the stall and quiet expiries. -/

namespace Sys2Proof.Machine

/-- A lane-set byte with only the four lane bits, at least one set (R29, R32). -/
def laneBitsOk (b : Byte) : Bool := decide (b.toNat < 16) && b != 0#8

/-- A stream's state in a response: its code, 0 for a stream number above 7, which names no stream. -/
def stateByte (s : State) (n : Byte) : Byte :=
  match streamNoOf n with
  | some i => s.streams[i].state.code
  | none => 0#8

/-! ## STREAM_START (R29, R30) -/

/-- The window as taken (R29, condition 2). -/
def windowTaken (w : Nat) : Nat := if 16 < w then 16 else w

/-- The staging slots there are to reserve (R31). -/
def totalSlots : Nat := 32

/-- The member records a lane set begins with: ACTIVE, each with its quiet timer started (R30). -/
def newMembers (lanes : Byte) (timer : Option Nat) : Vector (Option Member) 4 :=
  Vector.ofFn fun l : Lane => if lanes.getLsbD l then some { state := .active, timer := timer } else none

/-- STREAM_START taken (R30). -/
def startStream (i : StreamNo) (lanes : Byte) (w : Nat) (s : State) : State :=
  let s1 := s.setStream i
    { s.streams[i] with
      state := .active, members := newMembers lanes (some (quietInterval s)), window := w, reservationHeld := true,
      lowEdge := 0, stallCount := 0, stallTimer := some (stallInterval s) }
  queueWindow i 0 w (queueRecord (.stream i .active none) s1)

/-- STREAM_START's judgement (R28, R29). -/
def streamStartReply (f : Frame) (s : State) : Reply :=
  let n := byteAt f 2
  let lanes := byteAt f 3
  let w := (byteAt f 4).toNat
  let refuse (st : Status) (last : Nat) : Reply :=
    { status := st, data := [n, stateByte s n, byteAt f 4, byteOf last], state := s }
  match streamNoOf n with
  | none => refuse .range (reservedTotal s)
  | some i =>
    if s.streams[i].state ≠ .ready then refuse .state (reservedTotal s)
    else if laneBitsOk lanes = false then refuse .range (reservedTotal s)
    else if w < 1 then refuse .range (reservedTotal s)
    else if totalSlots < reservedTotal s + windowTaken w then refuse .noRoom (totalSlots - reservedTotal s)
    else
      let s1 := startStream i lanes (windowTaken w) s
      { status := if 16 < w then .clamped else .ok
        data := [n, s1.streams[i].state.code, byteOf s1.streams[i].window, byteOf (reservedTotal s1)]
        state := s1 }

/-- STREAM_START (R29). -/
def execStreamStart (lane : Lane) (frame : Frame) (s : State) : Host.Outcome State Fault Refusal :=
  judgeKind .streamStart lane frame s (streamStartReply frame s)

/-! ## STREAM_LANES (R32) -/

/-- Replace a stream's lane set (R32). -/
def replaceLanes (i : StreamNo) (lanes : Byte) (s : State) : State :=
  let x := s.streams[i]
  let timer := if quietCondition s i then some (quietInterval s) else none
  let members := Vector.ofFn fun l : Lane =>
    if lanes.getLsbD l then some (x.members[l].getD { state := .active, timer := timer }) else none
  s.setStream i { x with members := members }

/-- STREAM_LANES's judgement (R28, R32). -/
def streamLanesReply (f : Frame) (s : State) : Reply :=
  let n := byteAt f 2
  let lanes := byteAt f 3
  match streamNoOf n with
  | none => { status := .range, data := [n, 0#8, 0#8], state := s }
  | some i =>
    let data (t : State) : List Byte := [n, t.streams[i].state.code, t.streams[i].laneSet.setWidth 8]
    if s.streams[i].state ≠ .active then { status := .state, data := data s, state := s }
    else if laneBitsOk lanes = false then { status := .range, data := data s, state := s }
    else
      let s1 := replaceLanes i lanes s
      { status := .ok, data := data s1, state := s1 }

/-- STREAM_LANES (R32). -/
def execStreamLanes (lane : Lane) (frame : Frame) (s : State) : Host.Outcome State Fault Refusal :=
  judgeKind .streamLanes lane frame s (streamLanesReply frame s)

/-! ## STREAM_ABORT and STREAM_CLOSE (R42, R43) -/

/-- Release a stream (R42, R43): what has no work in flight is given up; with nothing in flight the stream enters VACANT with
status OK, otherwise ABORTING with the cause stored and status ACCEPTED. -/
def releaseStream (i : StreamNo) (c : Cause) (s : State) : Status × State :=
  let s1 := stopStream i s
  if inFlight s1 i then (.accepted, enterAborting i c s1) else (.ok, enterVacant i c s1)

/-- STREAM_ABORT's outcome by the stream's state (R28, R10, R42). -/
def abortStream (i : StreamNo) (s : State) : Status × State :=
  match s.streams[i].state with
  | .vacant => (.state, s)
  | .loading => (.ok, enterVacant i .aborted s)
  | .authenticating => (.accepted, enterAborting i .aborted s)
  | .ready => (.ok, enterVacant i .aborted s)
  | .active => releaseStream i .aborted s
  | .committing => releaseStream i .aborted s
  | .ending => releaseStream i .aborted s
  | .done => releaseStream i .aborted s
  | .faulted => releaseStream i .aborted s
  | .aborting => (.accepted, s)

/-- STREAM_CLOSE's outcome by the stream's state (R28, R43). -/
def closeStream (i : StreamNo) (s : State) : Status × State :=
  match s.streams[i].state with
  | .done => releaseStream i .closed s
  | .faulted => releaseStream i .closed s
  | .vacant | .loading | .authenticating | .ready | .active | .committing | .ending | .aborting => (.state, s)

/-- The reply of a request that names a stream and nothing else (R28). -/
def streamReply (f : Frame) (s : State) (act : StreamNo → State → Status × State) : Reply :=
  let n := byteAt f 2
  match streamNoOf n with
  | none => { status := .range, data := [n, 0#8], state := s }
  | some i =>
    let r := act i s
    { status := r.1, data := [n, r.2.streams[i].state.code], state := r.2 }

/-- STREAM_ABORT (R42). -/
def execStreamAbort (lane : Lane) (frame : Frame) (s : State) : Host.Outcome State Fault Refusal :=
  judgeKind .streamAbort lane frame s (streamReply frame s abortStream)

/-- STREAM_CLOSE (R43). -/
def execStreamClose (lane : Lane) (frame : Frame) (s : State) : Host.Outcome State Fault Refusal :=
  judgeKind .streamClose lane frame s (streamReply frame s closeStream)

/-! ## Stall and quiet expiries (R34, R36, R37) -/

/-- The lowest block of the window that has not reached COMPLETE (R36). -/
def lowestGap (s : State) (i : StreamNo) : Option Nat :=
  let x := s.streams[i]
  let top := min (x.lowEdge + x.window) x.blockCount
  ((List.range (top - x.lowEdge)).map (x.lowEdge + ·)).find? fun b => !blockReachedComplete s i b

/-- The missing positions of a block (R36): those of its slot, or every position when it has no slot. -/
def missingOf (s : State) (i : StreamNo) (b : Nat) : List Nat :=
  let expected := ((s.streams[i].manifest.map fun m => m.blockSegments b).getD 0)
  match slotOf s i b with
  | some k => missingPositions s.slots[k].filled expected
  | none => List.range expected

/-- The positions a GAP record lists at most (R36). -/
def gapListed : Nat := 16

/-- The GAP record of a block (R36). -/
def gapRecord (s : State) (i : StreamNo) (b : Nat) : Record :=
  .gap i b ((missingOf s i b).take gapListed) (decide (gapListed < (missingOf s i b).length))

/-- Restart a stream's stall timer (R35). -/
def restartStall (i : StreamNo) (s : State) : State :=
  s.setStream i { s.streams[i] with stallTimer := some (stallInterval s) }

/-- A stall expiry that finds a gap in block `b` (R36, R37): the GAP record first, then the stall count against GAP_LIMIT. -/
def stallGap (i : StreamNo) (b : Nat) (s : State) : State :=
  let s1 := queueRecord (gapRecord s i b) s
  if s1.streams[i].stallCount < s1.params.gapLimit then
    restartStall i (s1.setStream i { s1.streams[i] with stallCount := s1.streams[i].stallCount + 1 })
  else enterFaulted i .stalled s1

/-- STALL_EXPIRY (R36): the stall timer of a stream expires; it runs only in ACTIVE (R35). In any other state,
FAULTED among them, the expiry is not taken and nothing happens (R40; notes/assumptions/22). -/
def execStallExpiry (stream : StreamNo) (s : State) : Host.Outcome State Fault Refusal :=
  if s.streams[stream].stallTimer.isSome ∧ s.streams[stream].state = .active then
    match lowestGap s stream with
    | some b => .next (stallGap stream b s)
    | none => .next (restartStall stream s)
  else .next s

/-- QUIET_EXPIRY (R34): the member goes QUIET, its timer stops, and a MEMBER record is queued. A stopped
timer does not expire: nothing happens (notes/assumptions/22). -/
def execQuietExpiry (stream : StreamNo) (lane : Lane) (s : State) : Host.Outcome State Fault Refusal :=
  match s.streams[stream].members[lane] with
  | some m =>
    if m.timer.isSome then
      .next (queueRecord (.member stream lane .quiet)
        (s.setStream stream
          { s.streams[stream] with
            members := s.streams[stream].members.set lane (some { state := .quiet, timer := none }) }))
    else .next s
  | none => .next s

end Sys2Proof.Machine
end

