-- ==== Sys2Proof/Machine/Power.lean ====
section
/-! DEFINITION. The supply watch (chapter 8), power-on reset and start-up (chapters 7, 8 and 9). -/

namespace Sys2Proof.Machine

/-! ## Levels (R145, R148) -/

/-- The reset level in millivolts (R148). -/
def resetLevelMv : Nat := 6000

/-- The LOW threshold in millivolts for a SUPPLY_LEVEL (R145). -/
def lowThresholdMv (level : Nat) : Nat := 9000 + 600 * level

/-- The release level in millivolts: the threshold plus 0.5 V (R145). -/
def releaseLevelMv (level : Nat) : Nat := lowThresholdMv level + 500

/-- Whether a voltage departs from the present supply state (R145). -/
def departs (s : State) (mv : Nat) : Bool :=
  match s.supply.state with
  | .ok => decide (mv < lowThresholdMv s.params.supplyLevel)
  | .low => decide (releaseLevelMv s.params.supplyLevel < mv)

/-! ## The filter (R146, R147) -/

/-- The other supply state. -/
def SupplyState.flipped : SupplyState → SupplyState
  | .ok => .low
  | .low => .ok

/-- Work that the change to OK releases (R121, R133): held starts, releases judged again, and the waiting NVM step. -/
def resumeWork (s : State) : State := if supplyOk s then startStep (startAllHeld s) else s

/-- The supply state changes (R146): the timer is stopped, the SUPPLY record is queued in the same event, and waiting work starts. -/
def changeSupply (s : State) : State :=
  let st := s.supply.state.flipped
  resumeWork (queueRecord (.supply st) (s.withSupply { state := st, filter := none }))

/-- Compare the sensed voltage with the level in force (R146, R147): a departure with the timer stopped starts it, or changes the
state at once when SUPPLY_FILTER is 0; the end of a departure stops a running timer; otherwise the timer stays as it is. -/
def compareSupply (s : State) : State :=
  if departs s s.pins.senseMv then
    if s.supply.filter.isSome then s
    else if s.params.supplyFilter = 0 then changeSupply s
    else s.withSupply { s.supply with filter := some s.params.supplyFilter }
  else s.withSupply { s.supply with filter := none }

/-- FILTER_EXPIRY (R146). A stopped timer does not expire: nothing happens (notes/assumptions/22). -/
def execFilterExpiry (s : State) : Host.Outcome State Fault Refusal :=
  if s.supply.filter.isSome then .next (changeSupply s) else .next s

/-! ## Power-on reset (R126, R148) -/

/-- `n` bytes left unknown (R126): the free values from index `start` on. -/
def unknownBytes (start n : Nat) : List Byte := (List.range n).map fun j => Config.freeByte (start + j)

/-- The memory with the byte or unit of a step in an unknown state (R126). -/
def unknownStep (m : Memory) (start : Nat) : NvmStep → Memory
  | .program a _ => m.writeAll erasedByte a (unknownBytes start 1)
  | .erase u => (m.clear u.base u.size).writeAll erasedByte u.base (unknownBytes start u.size)

/-- Where a cut step must leave a trace (R139, R142), as a first address and a length: the record slot or the key area that a program
step was filling, the page that an erase step was clearing. -/
def NvmStep.trace : NvmStep → Nat × Nat
  | .program a _ => if a < NvmUnit.key.base then (a - a % 16, 16) else (NvmUnit.key.base, NvmUnit.key.size)
  | .erase u => (u.base, u.size)

/-- The last address a step changes. -/
def NvmStep.lastAddress : NvmStep → Nat
  | .program a _ => a
  | .erase u => u.base + u.size - 1

/-- A cut step of a commit or of a key installation does not leave what it was changing erased: the slot is torn, the page or the key
area is scrubbed (R139, R142). A cut scrub need leave no trace (R131). -/
def leaveTrace (job : NvmJob) (st : NvmStep) (c : Memory) : Memory :=
  if job.isScan = false ∧ c.isClear erasedByte st.trace.1 st.trace.2 = true then c.write erasedByte st.lastAddress 0#8 else c

/-- The memory after a reset cuts a step of an operation short: the step's byte or unit is in an unknown state (R126) within what R139
and R142 let the next scan find (notes/assumptions/2). -/
def cutStep (m : Memory) (start : Nat) (job : NvmJob) (st : NvmStep) : Memory :=
  leaveTrace job st (settleStep m job st (unknownStep m start st))

/-- How many unknown bytes a cut step leaves. -/
def NvmStep.width : NvmStep → Nat
  | .program _ _ => 1
  | .erase u => u.size

/-- The step in progress, if any. -/
def stepInProgress (s : State) : Option NvmStep :=
  match s.store.run with
  | some r => if r.stepping then r.steps.head? else none
  | none => none

/-- The non-volatile memory cut short, and the unknown bytes counted as used (R126, R133). -/
def cutShort (s : State) : State :=
  match s.store.run, stepInProgress s with
  | some r, some st => (s.withNvm (cutStep s.nvm s.freeIndex r.job st)).withFreeIndex (s.freeIndex + st.width)
  | _, _ => s

/-- Every volatile item at its reset value, with the parameter set given (R150, R165 and each chapter's reset values). What is not
volatile, the non-volatile memory, is kept, and so are the model's own items. -/
def volatileReset (s : State) (phase : Phase) (pins : Pins) (params : Params) : State :=
  { State.reset with
    phase := phase, pins := pins, params := params, nvm := s.nvm, freeIndex := s.freeIndex, pending := s.pending }

/-- POWER_ON_RESET (R148): a step in progress is cut short, and every volatile item and parameter takes its reset value; the part
stays in reset until START_UP. -/
def execPowerOnReset (senseMv : Nat) (resetnLow : Bool) (s : State) : Host.Outcome State Fault Refusal :=
  .next (volatileReset (cutShort s) .inReset { senseMv := senseMv, resetnLow := resetnLow } Params.default)

/-- The sensed voltage moves (R146, R148). Below 6.0 V it causes a power-on reset; while the part is held in power-on reset it only
moves the input; otherwise it is judged against the levels in force (R147; notes/assumptions/19). -/
def moveSense (senseMv : Nat) (s : State) : Host.Outcome State Fault Refusal :=
  if senseMv < resetLevelMv then execPowerOnReset senseMv s.pins.resetnLow s
  else if s.phase = .inReset then .next (s.withPins { s.pins with senseMv := senseMv })
  else .next (compareSupply (s.withPins { s.pins with senseMv := senseMv }))

/-- DEPARTURE_BEGIN (R146): the sensed voltage now departs. One that does not depart from the levels in force, because a write of
SUPPLY_LEVEL was taken first, is judged against the new levels (R147). -/
def execDepartureBegin (senseMv : Nat) (s : State) : Host.Outcome State Fault Refusal := moveSense senseMv s

/-- DEPARTURE_END (R146): the sensed voltage no longer departs, and a running filter timer stops. One that departs from the levels in
force, because a write of SUPPLY_LEVEL was taken first, is judged against the new levels (R147). -/
def execDepartureEnd (senseMv : Nat) (s : State) : Host.Outcome State Fault Refusal := moveSense senseMv s

/-! ## Start-up (R48, R130 to R132, R148, R164, R165) -/

/-- The first measurement (R148): OK above the release level of the SUPPLY_LEVEL in force, LOW otherwise, with a SUPPLY record for
LOW (R149). -/
def firstMeasurement (s : State) : State :=
  if releaseLevelMv s.params.supplyLevel < s.pins.senseMv then s.withSupply { state := .ok, filter := none }
  else queueRecord (.supply .low) (s.withSupply { state := .low, filter := none })

/-- The version store's scan (R130, R131): the memory is read, and the scrubs it needs begin; with none it ends at once (R132). -/
def startScan (c : StartCause) (s : State) : State :=
  let t := scannedStore s.nvm
  match scrubUnits s.nvm with
  | [] => finishScan c (scanResult s.nvm) (s.withStore t)
  | us =>
    startStep (s.withStore { t with run := some { job := .scan c, steps := us.map .erase, stepping := false } })

/-- Start-up for a cause, with the first measurement's voltage (R130, R148, R165). -/
def beginStartUp (c : StartCause) (senseMv : Nat) (s : State) : State :=
  startScan c (firstMeasurement (volatileReset s .scanning { senseMv := senseMv, resetnLow := false } s.params))

/-- START_UP (R130): a power-on reset has ended with the supply at 6.0 V or above and RESETN high, or an issued RESTART is acted on
once no NVM step is in progress (R133, R164). The cause is POWER or REQUEST (R132). -/
def execStartUp (senseMv : Nat) (s : State) : Host.Outcome State Fault Refusal :=
  if senseMv < resetLevelMv then .fault .noStartUpDue
  else if s.phase = .inReset then .next (beginStartUp .power senseMv s)
  else if s.interp.restartIssued = true ∧ stepInProgress s = none then .next (beginStartUp .request senseMv s)
  else .fault .noStartUpDue

/-! ## The end of a trunk transmission, and RESTART (R154, R164) -/

/-- Whether a frame is the OK response to a RESTART: response mark, code 0x5F, status OK (R164, section 11.1). -/
def isRestartResponse (f : Frame) : Bool := byteAt f 0 == 0x40#8 && byteAt f 2 == RequestKind.restart.code && byteAt f 3 == Status.ok.code

/-- A slot of a lane's transmit section empties with the end of its transmission (R154). -/
def TrunkTx.ended (t : TrunkTx) (k : TrunkSlot) : TrunkTx :=
  match k with
  | .response => { t with response := none, sending := none }
  | .report => { t with report := none, sending := none }

/-- Whether the end of this transmission issues the RESTART (R164). -/
def issuesRestart (s : State) (l : Lane) (k : TrunkSlot) : Bool :=
  s.interp.restartPending && k == .response && (match s.trunk[l].response with | some f => isRestartResponse f | none => false)

/-- TRUNK_TX_END (R154): the slot empties, the lane's next waiting frame is handed over, the interpreter searches again (R151),
and a due report frame is formed (R171). The end of the RESTART response issues the restart to the version store (R164). Sent
and abandoned are treated alike. With no frame of the part in transmission, the end is that of a frame which a start-up made no
longer the part's, and nothing happens (R154; notes/assumptions/21). -/
def execTrunkTxEnd (lane : Lane) (_outcome : TxOutcome) (s : State) : Host.Outcome State Fault Refusal :=
  match s.trunk[lane].sending with
  | none => .next s
  | some t =>
    let s1 := if issuesRestart s lane t.slot then s.withInterp { s.interp with restartIssued := true } else s
    .next (emit (serveLane (handOver lane (s1.setTrunk lane (s1.trunk[lane].ended t.slot)))))

/-- RESTART (R164): always taken; restart pending becomes yes and the OK response, with no data, is placed. -/
def execRestart (lane : Lane) (frame : Frame) (s : State) : Host.Outcome State Fault Refusal :=
  judgeKind .restart lane frame s
    { status := .ok, data := [], state := s.withInterp { s.interp with restartPending := true } }

end Sys2Proof.Machine
end

