-- ==== Sys2Proof/Machine/Params.lean ====
section
/-! DEFINITION. The parameters, FLUSH and SNAPSHOT (chapter 9, section 9.3; chapter 10). -/

namespace Sys2Proof.Machine

/-! ## The parameter table (R155) -/

/-- The kinds of parameter (R155). -/
inductive ParamKind where
  | identifier
  | laneSet (mayBeEmpty : Bool)
  | lane
  | number (lowest highest : Nat)
  deriving DecidableEq, Repr

/-- A parameter's kind and range by its number (R155). -/
def paramKind (n : Nat) : Option ParamKind :=
  match n with
  | 0 => some .identifier
  | 1 => some .identifier
  | 2 => some .identifier
  | 3 => some (.laneSet true)
  | 4 => some (.laneSet false)
  | 5 => some .lane
  | 6 => some (.number 1 15)
  | 7 => some (.number 1 15)
  | 8 => some (.number 1 255)
  | 9 => some (.number 1 255)
  | 10 => some (.number 1 15)
  | 11 => some (.number 1 255)
  | 12 => some (.number 0 255)
  | 13 => some (.number 0 255)
  | 14 => some (.number 1 15)
  | 15 => some (.number 0 255)
  | 16 => some (.number 0 255)
  | 17 => some (.number 0 3)
  | 18 => some (.number 0 255)
  | _ => none

/-- A parameter's present value as it travels (R155, R160); 0 for a number above 18 (R160). -/
def paramValue (p : Params) (n : Nat) : Nat :=
  match n with
  | 0 => p.segId.toNat
  | 1 => p.ctlId.toNat
  | 2 => p.rspId.toNat
  | 3 => p.laneEnable.toNat
  | 4 => p.controlLanes.toNat
  | 5 => p.reportLane.val
  | 6 => p.faultThreshold
  | 7 => p.guardCount
  | 8 => p.quarantine
  | 9 => p.stallTime
  | 10 => p.gapLimit
  | 11 => p.quietTime
  | 12 => p.ackShort
  | 13 => p.ackLong
  | 14 => p.busyLimit
  | 15 => p.packetTimer
  | 16 => p.absoluteTimer
  | 17 => p.supplyLevel
  | 18 => p.supplyFilter
  | _ => 0

/-- Store a parameter (R156, step 4). -/
def storeParam (p : Params) (n v : Nat) : Params :=
  match n with
  | 0 => { p with segId := BitVec.ofNat 11 v }
  | 1 => { p with ctlId := BitVec.ofNat 11 v }
  | 2 => { p with rspId := BitVec.ofNat 11 v }
  | 3 => { p with laneEnable := BitVec.ofNat 4 v }
  | 4 => { p with controlLanes := BitVec.ofNat 4 v }
  | 5 => { p with reportLane := Fin.ofNat 4 v }
  | 6 => { p with faultThreshold := v }
  | 7 => { p with guardCount := v }
  | 8 => { p with quarantine := v }
  | 9 => { p with stallTime := v }
  | 10 => { p with gapLimit := v }
  | 11 => { p with quietTime := v }
  | 12 => { p with ackShort := v }
  | 13 => { p with ackLong := v }
  | 14 => { p with busyLimit := v }
  | 15 => { p with packetTimer := v }
  | 16 => { p with absoluteTimer := v }
  | 17 => { p with supplyLevel := v }
  | 18 => { p with supplyFilter := v }
  | _ => p

/-! ## PARAM_WRITE and PARAM_READ (R156 to R160) -/

/-- A value clamped to a range (R157). -/
def clampTo (lowest highest v : Nat) : Nat := if v < lowest then lowest else if highest < v then highest else v

/-- The value range test (R156, step 2): the value to store, or `none` when it is refused with RANGE. -/
def paramInRange (k : ParamKind) (v : Nat) : Option Nat :=
  match k with
  | .identifier => if 0x7FF < v then none else some v
  | .laneSet mayBeEmpty => if 0xF < v ∨ (v = 0 ∧ mayBeEmpty = false) then none else some v
  | .lane => if 3 < v then none else some v
  | .number lowest highest => some (clampTo lowest highest v)

/-- The conflict test (R158). -/
def paramConflicts (p : Params) (n v : Nat) : Bool :=
  match n with
  | 0 => v == p.ctlId.toNat || v == p.rspId.toNat
  | 1 => v == p.segId.toNat || v == p.rspId.toNat
  | 2 => v == p.segId.toNat || v == p.ctlId.toNat
  | 3 => !v.testBit p.reportLane.val
  | 5 => !p.laneEnable.getLsbD v
  | _ => false

/-- What a stored parameter sets going at the write itself: SUPPLY_LEVEL is compared at once (R147), and a new REPORT_LANE's report
slot is judged (R171). -/
def afterParam (n : Nat) (s : State) : State :=
  match n with
  | 5 => emit s
  | 17 => compareSupply s
  | _ => s

/-- The data of a parameter response (section 11.1). -/
def paramData (p : Params) (number : Byte) : List Byte := number :: beBytes 2 (paramValue p number.toNat)

/-- PARAM_WRITE's judgement (R156). -/
def paramWriteReply (f : Frame) (s : State) : Reply :=
  let number := byteAt f 2
  let n := number.toNat
  let v := fieldAt f 3 2
  let refuse (st : Status) : Reply := { status := st, data := paramData s.params number, state := s }
  match paramKind n with
  | none => refuse .range
  | some k =>
    match paramInRange k v with
    | none => refuse .range
    | some w =>
      if paramConflicts s.params n w then refuse .conflict
      else
        let p := storeParam s.params n w
        { status := if w = v then .ok else .clamped
          data := paramData p number
          state := afterParam n (s.withParams p) }

/-- PARAM_WRITE (R156). -/
def execParamWrite (lane : Lane) (frame : Frame) (s : State) : Host.Outcome State Fault Refusal :=
  judgeKind .paramWrite lane frame s (paramWriteReply frame s)

/-- PARAM_READ's judgement (R160). -/
def paramReadReply (f : Frame) (s : State) : Reply :=
  let number := byteAt f 2
  { status := if number.toNat ≤ 18 then .ok else .range, data := paramData s.params number, state := s }

/-- PARAM_READ (R160). -/
def execParamRead (lane : Lane) (frame : Frame) (s : State) : Host.Outcome State Fault Refusal :=
  judgeKind .paramRead lane frame s (paramReadReply frame s)

/-! ## FLUSH and SNAPSHOT (R174, R179) -/

/-- FLUSH (R174): frame owed, and a drain begins; the data gives the records queued and the lost count at that moment. -/
def flushReply (s : State) : Reply :=
  { status := .ok
    data := [byteOf s.report.queue.length, byteOf s.report.lost]
    state := beginDrain (s.withReport { s.report with owed := true }) }

/-- FLUSH (R174). -/
def execFlush (lane : Lane) (frame : Frame) (s : State) : Host.Outcome State Fault Refusal :=
  judgeKind .flush lane frame s (flushReply s)

/-- SNAPSHOT (R179): the live counters are copied, then 0, and the snapshot count rises. -/
def takeSnapshot (s : State) : State :=
  (s.withSnapshot { counters := s.counters, count := satInc counterMax s.snapshot.count }).withCounters Counters.zero

/-- SNAPSHOT's reply (R179). -/
def snapshotReply (s : State) : Reply :=
  { status := .ok, data := beBytes 4 (takeSnapshot s).snapshot.count, state := takeSnapshot s }

/-- SNAPSHOT (R179). -/
def execSnapshot (lane : Lane) (frame : Frame) (s : State) : Host.Outcome State Fault Refusal :=
  judgeKind .snapshot lane frame s (snapshotReply s)

end Sys2Proof.Machine
end

