-- ==== Sys2Proof/Machine/Tables.lean ====
section
/-! DEFINITION. Table access (chapter 9, section 9.4) and the rows of the seven tables (section 11.5). -/

namespace Sys2Proof.Machine

/-! ## Rows -/

/-- A Boolean as a byte: 0 no, 1 yes. -/
def flagByte (b : Bool) : Byte := if b then 1#8 else 0#8

/-- A member bit of a STREAMS row (section 11.5). -/
def memberBits (x : Stream) : Nat :=
  ((List.finRange 4).map fun l =>
    match x.members[l] with
    | some m => 2 ^ l.val + (if m.state = .quiet then 2 ^ (l.val + 4) else 0)
    | none => 0).sum

/-- The release stage byte (section 11.5). -/
def stageByte (g : Option Stage) : Byte :=
  match g with
  | none => 0#8
  | some x => match x.kind with | .sending => 1#8 | .awaiting => 2#8

/-- A row of table 0, STREAMS (R46). -/
def streamRow (s : State) (i : StreamNo) : List Byte :=
  let x := s.streams[i]
  let m := x.manifest
  [x.state.code, causeCode x.cause]
    ++ beBytes 2 ((m.map fun a => a.target.toNat).getD 0)
    ++ [byteOf ((m.map fun a => a.port.val).getD 0)]
    ++ beBytes 2 x.blockCount
    ++ beBytes 4 ((m.map fun a => a.version.toNat).getD 0)
    ++ beBytes 4 ((x.floorAtAcceptance.map BitVec.toNat).getD 0)
    ++ [byteOf (memberBits x), byteOf x.window, flagByte x.reservationHeld]
    ++ beBytes 2 x.lowEdge
    ++ [byteOf x.stallCount, byteOf (slotsHeld s i), stageByte x.stage]
    ++ beBytes 2 ((x.stage.map Stage.block).getD 0)
    ++ [byteOf s.contexts[i].endRetry, byteOf s.contexts[i].endBusy]

/-- A row of table 1, LANES (R65). -/
def laneRow (s : State) (l : Lane) : List Byte :=
  let x := s.lanes[l]
  let marks := (if s.params.laneEnable.getLsbD l then 1 else 0) + (if s.params.controlLanes.getLsbD l then 2 else 0)
    + (if s.params.reportLane = l then 4 else 0)
  [byteOf marks, x.integrity.code, byteOf x.faults, byteOf x.good, flagByte x.quarantine.isSome, byteOf x.queue.length]

/-- A row of table 2, SLOTS (R88). -/
def slotRow (s : State) (k : SlotNo) : List Byte :=
  let x := s.slots[k]
  [x.state.code, (x.holder.map fun h => byteOf h.stream).getD 0xFF#8]
    ++ beBytes 2 ((x.holder.map Holder.block).getD 0)
    ++ [byteOf ((x.holder.map Holder.expected).getD 0)]
    ++ beBytes 8 x.filled.toNat
    ++ beBytes 2 x.byteCount
    ++ [byteOf x.failCount, byteOf x.retryCount, byteOf x.busyCount, byteOf (x.nextFrame.getD 0)]

/-- The stream whose extent list holds an extent, and its place there (R24). -/
def extentOwner (s : State) (e : Nat) : Option (StreamNo × Nat) :=
  ((List.finRange 8).find? fun i => s.manifests[i].extents.contains e).map fun i =>
    (i, s.manifests[i].extents.idxOf e)

/-- The marks of a MANIFEST row (R23). -/
inductive EntryMark where
  | free | spare | partially | loaded | accepted
  deriving DecidableEq, Repr

/-- Mark codes (section 11.6). -/
def EntryMark.code : EntryMark → Byte
  | .free => 0#8 | .spare => 1#8 | .partially => 2#8 | .loaded => 3#8 | .accepted => 4#8

/-- The mark of the entry with table index `e` (R23). -/
def entryMark (s : State) (e : Nat) : EntryMark :=
  match extentOwner s (e / extentEntries) with
  | none => .free
  | some (i, place) =>
    if s.manifests[i].declaredBlocks.getD 0 ≤ place * extentEntries + e % extentEntries then .spare
    else if s.streams[i].manifest.isSome then .accepted
    else if (s.entryCounts.read 0 e).toNat < entrySize then .partially
    else .loaded

/-- A row of table 3, MANIFEST (R23): the block index reads 0 for a FREE or SPARE entry. -/
def manifestRow (s : State) (e : Nat) : List Byte :=
  let mark := entryMark s e
  let owner := extentOwner s (e / extentEntries)
  let block := (owner.map fun x => x.2 * extentEntries + e % extentEntries).getD 0
  [mark.code, (owner.map fun x => byteOf x.1).getD 0xFF#8]
    ++ beBytes 2 (if mark = .free ∨ mark = .spare then 0 else block)
    ++ [s.entryCounts.read 0 e]
    ++ s.entryBytes.readAll 0 (entryAddress e 0) entrySize

/-- A row of table 4, EXTENTS (R24). -/
def extentRow (s : State) (e : Nat) : List Byte :=
  match extentOwner s e with
  | none => [0xFF#8, 0#8, 0#8]
  | some (i, place) =>
    [byteOf i, byteOf place, byteOf (min extentEntries (s.manifests[i].declaredBlocks.getD 0 - extentEntries * place))]

/-- A page code: 0 none, 1 A, 2 B (section 11.5). -/
def pageCode (p : Option PageId) : Byte :=
  match p with
  | none => 0#8
  | some .a => 1#8
  | some .b => 2#8

/-- The store summary every VERSIONS row carries (R143). -/
def storeSummary (t : Store) : List Byte :=
  [pageCode t.activePage] ++ beBytes 4 ((t.activeSeq.map BitVec.toNat).getD 0)
    ++ [byteOf t.appendPos, byteOf ((if t.erasedA then 1 else 0) + (if t.erasedB then 2 else 0)), t.keyState.code,
        byteOf t.ops.length]

/-- A row of table 5, VERSIONS (R143): the governing rows in ascending target order, then empty rows. -/
def versionRow (t : Store) (n : Nat) : List Byte :=
  (match t.governing[n]? with
  | some g =>
    [1#8] ++ beBytes 2 g.record.target.toNat ++ beBytes 4 g.record.version.toNat ++ beBytes 4 g.record.floor.toNat
      ++ beBytes 2 g.record.count ++ [pageCode (some g.page), byteOf g.slot]
  | none => List.replicate 15 0#8) ++ storeSummary t

/-- A row of table 6, SNAPSHOT (R180): lanes, then stream numbers, then the device. -/
def snapshotRow (x : Snapshot) (n : Nat) : List Byte :=
  if h : n < 4 then (x.counters.lanes[n]).toList.flatMap (beBytes 4)
  else if h : n - 4 < 8 then (x.counters.streams[n - 4]).toList.flatMap (beBytes 4)
  else beBytes 4 x.counters.recordsLost ++ beBytes 4 x.count

/-- The number of rows of a table (section 9.4). -/
def tableSize (t : Fin 7) : Nat :=
  match t with
  | 0 => 8
  | 1 => 4
  | 2 => 32
  | 3 => 2048
  | 4 => 32
  | 5 => 16
  | 6 => 13

/-- A row of a table, by its index (section 11.5). -/
def tableRow (s : State) (t : Fin 7) (n : Nat) : List Byte :=
  match t with
  | 0 => streamRow s (Fin.ofNat 8 n)
  | 1 => laneRow s (Fin.ofNat 4 n)
  | 2 => slotRow s (Fin.ofNat 32 n)
  | 3 => manifestRow s n
  | 4 => extentRow s n
  | 5 => versionRow s.store n
  | 6 => snapshotRow s.snapshot n

/-! ## TABLE_SELECT and CURSOR_SET (R161) -/

/-- TABLE_SELECT's judgement (R161). -/
def tableSelectReply (f : Frame) (s : State) : Reply :=
  let data (t : State) : List Byte := byteOf t.interp.table :: beBytes 2 (tableSize t.interp.table)
  if h : (byteAt f 2).toNat < 7 then
    let s1 := s.withInterp { s.interp with table := ⟨(byteAt f 2).toNat, h⟩, cursor := 0 }
    { status := .ok, data := data s1, state := s1 }
  else { status := .range, data := data s, state := s }

/-- TABLE_SELECT (R161). -/
def execTableSelect (lane : Lane) (frame : Frame) (s : State) : Host.Outcome State Fault Refusal :=
  judgeKind .tableSelect lane frame s (tableSelectReply frame s)

/-- The selected table and the cursor as response data (section 11.1). -/
def cursorData (s : State) : List Byte := byteOf s.interp.table :: beBytes 2 s.interp.cursor

/-- CURSOR_SET's judgement (R161). -/
def cursorSetReply (f : Frame) (s : State) : Reply :=
  if fieldAt f 2 2 < tableSize s.interp.table then
    let s1 := s.withInterp { s.interp with cursor := fieldAt f 2 2 }
    { status := .ok, data := cursorData s1, state := s1 }
  else { status := .range, data := cursorData s, state := s }

/-- CURSOR_SET (R161). -/
def execCursorSet (lane : Lane) (frame : Frame) (s : State) : Host.Outcome State Fault Refusal :=
  judgeKind .cursorSet lane frame s (cursorSetReply frame s)

/-! ## TABLE_READ (R162, R163) -/

/-- The row a mode reads and the cursor afterwards (R162), or `none` when the read is refused with RANGE. `c` is the cursor, `n` the
table's size. -/
def readTarget (m : ReadMode) (f : Frame) (c n : Nat) : Option (Nat × Nat) :=
  match m with
  | .direct => if n ≤ fieldAt f 3 2 then none else some (fieldAt f 3 2, c)
  | .atCursor => if c = n then none else some (c, c)
  | .postInc => if c = n then none else some (c, c + 1)
  | .preInc => if n ≤ c + 1 then none else some (c + 1, c + 1)
  | .offset =>
    let r : Int := (c : Int) + signedByte (byteAt f 3)
    if r < 0 ∨ (n : Int) ≤ r then none else some (r.toNat, c)

/-- TABLE_READ's judgement (R162): the frame's mode decides; a mode byte that names none of the five modes is refused with RANGE. -/
def tableReadReply (f : Frame) (s : State) : Reply :=
  let t := s.interp.table
  let refuse : Reply := { status := .range, data := cursorData s, state := s }
  match readModeOf (byteAt f 2) with
  | none => refuse
  | some m =>
    match readTarget m f s.interp.cursor (tableSize t) with
    | none => refuse
    | some (row, c) =>
      { status := .ok, data := byteOf t :: beBytes 2 row ++ tableRow s t row
        state := s.withInterp { s.interp with cursor := c } }

/-- A TABLE_READ judged under the row of one mode (R162). -/
def judgeTableRead (m : ReadMode) (l : Lane) (f : Frame) (s : State) : Host.Outcome State Fault Refusal :=
  judgeRequest l f (isTableRead m f) (minLength .tableRead f) s (tableReadReply f s)

/-- DIRECT (R162): the row at the index given; the cursor stays. -/
def execDirect (lane : Lane) (frame : Frame) (s : State) : Host.Outcome State Fault Refusal :=
  judgeTableRead .direct lane frame s

/-- AT_CURSOR (R162): the row at the cursor; the cursor stays. -/
def execAtCursor (lane : Lane) (frame : Frame) (s : State) : Host.Outcome State Fault Refusal :=
  judgeTableRead .atCursor lane frame s

/-- POST_INC (R162): the row at the cursor; the cursor then rises by 1. -/
def execPostInc (lane : Lane) (frame : Frame) (s : State) : Host.Outcome State Fault Refusal :=
  judgeTableRead .postInc lane frame s

/-- PRE_INC (R162): the cursor rises by 1 and the row it then points at is read. -/
def execPreInc (lane : Lane) (frame : Frame) (s : State) : Host.Outcome State Fault Refusal :=
  judgeTableRead .preInc lane frame s

/-- OFFSET (R162): the row at the cursor plus a signed offset; the cursor stays. -/
def execOffset (lane : Lane) (frame : Frame) (s : State) : Host.Outcome State Fault Refusal :=
  judgeTableRead .offset lane frame s

end Sys2Proof.Machine
end

