-- ==== Sys2Proof/Machine/Dispatch.lean ====
section
/-! DEFINITION. One arm per command: which meaning it has. -/

namespace Sys2Proof.Machine

/-- A command's effect on everything but the queue of commands. -/
def exec (i : Instr) (s : State) : Host.Outcome State Fault Refusal :=
  match i with
  | .powerOnReset senseMv resetnLow => Sys2Proof.Machine.execPowerOnReset senseMv resetnLow s
  | .startUp senseMv => Sys2Proof.Machine.execStartUp senseMv s
  | .segmentFrame lane data => Sys2Proof.Machine.execSegmentFrame lane data s
  | .controlFrame lane data => Sys2Proof.Machine.execControlFrame lane data s
  | .otherTrunkFrame lane ident data => Sys2Proof.Machine.execOtherTrunkFrame lane ident data s
  | .quarantineExpiry lane => Sys2Proof.Machine.execQuarantineExpiry lane s
  | .manifestBegin lane frame => Sys2Proof.Machine.execManifestBegin lane frame s
  | .manifestData lane frame => Sys2Proof.Machine.execManifestData lane frame s
  | .manifestEnd lane frame => Sys2Proof.Machine.execManifestEnd lane frame s
  | .streamStart lane frame => Sys2Proof.Machine.execStreamStart lane frame s
  | .streamLanes lane frame => Sys2Proof.Machine.execStreamLanes lane frame s
  | .streamAbort lane frame => Sys2Proof.Machine.execStreamAbort lane frame s
  | .streamClose lane frame => Sys2Proof.Machine.execStreamClose lane frame s
  | .keyInstall lane frame => Sys2Proof.Machine.execKeyInstall lane frame s
  | .flush lane frame => Sys2Proof.Machine.execFlush lane frame s
  | .snapshot lane frame => Sys2Proof.Machine.execSnapshot lane frame s
  | .paramWrite lane frame => Sys2Proof.Machine.execParamWrite lane frame s
  | .paramRead lane frame => Sys2Proof.Machine.execParamRead lane frame s
  | .tableSelect lane frame => Sys2Proof.Machine.execTableSelect lane frame s
  | .cursorSet lane frame => Sys2Proof.Machine.execCursorSet lane frame s
  | .direct lane frame => Sys2Proof.Machine.execDirect lane frame s
  | .atCursor lane frame => Sys2Proof.Machine.execAtCursor lane frame s
  | .postInc lane frame => Sys2Proof.Machine.execPostInc lane frame s
  | .preInc lane frame => Sys2Proof.Machine.execPreInc lane frame s
  | .offset lane frame => Sys2Proof.Machine.execOffset lane frame s
  | .restart lane frame => Sys2Proof.Machine.execRestart lane frame s
  | .unknownCode lane frame => Sys2Proof.Machine.execUnknownCode lane frame s
  | .noCodeFrame lane frame => Sys2Proof.Machine.execNoCodeFrame lane frame s
  | .trunkTxEnd lane outcome => Sys2Proof.Machine.execTrunkTxEnd lane outcome s
  | .blockJobDone => Sys2Proof.Machine.execBlockJobDone s
  | .macJobDone => Sys2Proof.Machine.execMacJobDone s
  | .branchTxEnd port outcome => Sys2Proof.Machine.execBranchTxEnd port outcome s
  | .branchFrame port ident data => Sys2Proof.Machine.execBranchFrame port ident data s
  | .written port ident block => Sys2Proof.Machine.execWritten port ident block s
  | .busy port ident block => Sys2Proof.Machine.execBusy port ident block s
  | .rejected port ident block => Sys2Proof.Machine.execRejected port ident block s
  | .activated port ident block => Sys2Proof.Machine.execActivated port ident block s
  | .ackTimeout stream => Sys2Proof.Machine.execAckTimeout stream s
  | .nvmStepDone readback => Sys2Proof.Machine.execNvmStepDone readback s
  | .stallExpiry stream => Sys2Proof.Machine.execStallExpiry stream s
  | .quietExpiry stream lane => Sys2Proof.Machine.execQuietExpiry stream lane s
  | .departureBegin senseMv => Sys2Proof.Machine.execDepartureBegin senseMv s
  | .departureEnd senseMv => Sys2Proof.Machine.execDepartureEnd senseMv s
  | .filterExpiry => Sys2Proof.Machine.execFilterExpiry s
  | .packetTimerExpiry => Sys2Proof.Machine.execPacketTimerExpiry s
  | .absoluteTimerExpiry => Sys2Proof.Machine.execAbsoluteTimerExpiry s

end Sys2Proof.Machine
end

