-- ==== Sys2Proof/Safety.lean ====
section
/-! DEFINITION. What the statements about the part are said with: which parts of the state a command may change, what it
reports and answers, and the laws that the manual says hold at all times. -/

namespace Sys2Proof.Machine

/-! ## Frames: the parts of the state -/

/-- The parts of the state, one per field of `State`; the manifest entries' bytes and counts are one part. -/
inductive Part where
  | phase | pins | supply | params | interp | lanes | trunk | streams | manifests | entries | slots | staging
  | engine | contexts | ports | store | nvm | report | counters | snapshot | freeIndex | pending
  deriving DecidableEq, Repr

/-- A part reads the same in two states. -/
def Part.Same (s t : State) (p : Part) : Prop :=
  match p with
  | .phase => t.phase = s.phase
  | .pins => t.pins = s.pins
  | .supply => t.supply = s.supply
  | .params => t.params = s.params
  | .interp => t.interp = s.interp
  | .lanes => t.lanes = s.lanes
  | .trunk => t.trunk = s.trunk
  | .streams => t.streams = s.streams
  | .manifests => t.manifests = s.manifests
  | .entries => t.entryBytes = s.entryBytes ∧ t.entryCounts = s.entryCounts
  | .slots => t.slots = s.slots
  | .staging => t.staging = s.staging
  | .engine => t.engine = s.engine
  | .contexts => t.contexts = s.contexts
  | .ports => t.ports = s.ports
  | .store => t.store = s.store
  | .nvm => t.nvm = s.nvm
  | .report => t.report = s.report
  | .counters => t.counters = s.counters
  | .snapshot => t.snapshot = s.snapshot
  | .freeIndex => t.freeIndex = s.freeIndex
  | .pending => t.pending = s.pending

/-- From `s` to `t` at most the listed parts change. -/
def Touches (ps : List Part) (s t : State) : Prop := ∀ p, p ∉ ps → p.Same s t

/-- The parts that queuing a record may change: the report queue and its timers, the report lane's transmit section, and
records lost. -/
def reportParts : List Part := [.report, .trunk, .counters]
/-- What answering a request may change: the interpreter, the control queues and the trunk transmit sections. -/
def answerParts : List Part := [.interp, .lanes, .trunk]
/-- What entering VACANT may change. -/
def vacantParts : List Part := [.manifests, .entries, .streams, .contexts] ++ reportParts
/-- What entering FAULTED may change. -/
def faultParts : List Part := [.contexts, .streams, .slots] ++ reportParts
/-- What freeing a stopped stream's slot may change. -/
def freeParts : List Part := .slots :: vacantParts
/-- What handing a branch frame over may change. -/
def sendParts : List Part := [.ports, .slots, .streams]
/-- What the version store's operations may change. -/
def storeParts : List Part := [.store, .ports] ++ freeParts
/-- What the digest engine's judging of heads may change. -/
def engineParts : List Part := .engine :: freeParts
/-- What a lane's integrity machine may change. -/
def laneParts : List Part := .lanes :: reportParts
/-- What a segment frame may change. -/
def segmentParts : List Part := [.lanes, .staging] ++ engineParts
/-- What a change of the supply state may change. -/
def supplyParts : List Part := [.supply, .store, .contexts] ++ sendParts ++ reportParts
/-- What a start-up may change: everything volatile but the parameter set. -/
def startUpParts : List Part :=
  [.phase, .pins, .interp, .lanes, .snapshot, .staging, .engine] ++ supplyParts ++ vacantParts
/-- What a power-on reset may change: everything but the queue of commands. -/
def resetParts : List Part := [.params, .nvm, .freeIndex] ++ startUpParts

/-- The parts of the state that a command may change when it has a next state. -/
def commandParts (c : Instr) : List Part :=
  match c with
  | .powerOnReset _ _ => resetParts
  | .startUp _ => startUpParts
  | .segmentFrame _ _ => segmentParts
  | .controlFrame _ _ => [.interp, .lanes, .counters]
  | .otherTrunkFrame _ _ _ => .interp :: segmentParts
  | .quarantineExpiry _ => laneParts
  | .manifestBegin _ _ => [.entries, .manifests, .streams] ++ answerParts
  | .manifestData _ _ => [.entries, .manifests] ++ answerParts
  | .manifestEnd _ _ => engineParts ++ answerParts
  | .streamStart _ _ => .streams :: reportParts ++ answerParts
  | .streamLanes _ _ => .streams :: answerParts
  | .streamAbort _ _ => freeParts ++ answerParts
  | .streamClose _ _ => freeParts ++ answerParts
  | .keyInstall _ _ => storeParts ++ answerParts
  | .flush _ _ => .report :: answerParts
  | .snapshot _ _ => [.snapshot, .counters] ++ answerParts
  | .paramWrite _ _ => .params :: supplyParts ++ answerParts
  | .paramRead _ _ => answerParts
  | .tableSelect _ _ => answerParts
  | .cursorSet _ _ => answerParts
  | .direct _ _ => answerParts
  | .atCursor _ _ => answerParts
  | .postInc _ _ => answerParts
  | .preInc _ _ => answerParts
  | .offset _ _ => answerParts
  | .restart _ _ => answerParts
  | .unknownCode _ _ => answerParts
  | .noCodeFrame _ _ => answerParts
  | .trunkTxEnd _ _ => .report :: answerParts
  | .blockJobDone => .ports :: engineParts
  | .macJobDone => engineParts
  | .branchTxEnd _ _ => .ports :: freeParts
  | .branchFrame _ _ _ => storeParts
  | .written _ _ _ => storeParts
  | .busy _ _ _ => .ports :: faultParts
  | .rejected _ _ _ => .ports :: faultParts
  | .activated _ _ _ => [.contexts, .streams, .ports] ++ reportParts
  | .ackTimeout _ => .ports :: faultParts
  | .nvmStepDone _ => [.nvm, .phase] ++ storeParts
  | .stallExpiry _ => faultParts
  | .quietExpiry _ _ => .streams :: reportParts
  | .departureBegin mv => if mv < resetLevelMv then resetParts else .pins :: supplyParts
  | .departureEnd mv => if mv < resetLevelMv then resetParts else .pins :: supplyParts
  | .filterExpiry => supplyParts
  | .packetTimerExpiry => [.report, .trunk]
  | .absoluteTimerExpiry => [.report, .trunk]

/-- Whether a command is a power-on reset or a start-up: the two reset rows, and a departure below 6.0 V (R148). -/
def isReset (c : Instr) : Bool :=
  match c with
  | .powerOnReset _ _ => true
  | .startUp _ => true
  | .departureBegin mv => decide (mv < resetLevelMv)
  | .departureEnd mv => decide (mv < resetLevelMv)
  | _ => false

/-- Every lane receiver but lane `l`'s reads the same (R64). -/
def OtherLanesSame (l : Lane) (s t : State) : Prop := ∀ m, m ≠ l → t.lanes[m] = s.lanes[m]

/-- Every stream's descriptor, header record and release context but stream `i`'s read the same. -/
def OtherStreamsSame (i : StreamNo) (s t : State) : Prop :=
  ∀ j, j ≠ i → t.streams[j] = s.streams[j] ∧ t.manifests[j] = s.manifests[j] ∧ t.contexts[j] = s.contexts[j]

/-- Every slot record but slot `k`'s reads the same. -/
def OtherSlotsSame (k : SlotNo) (s t : State) : Prop := ∀ q, q ≠ k → t.slots[q] = s.slots[q]

/-! ## Reports and answers -/

/-- Queue a record of any kind by its rule (R168, R169). -/
def queueAny (r : Record) (s : State) : State :=
  match r with
  | .window i low w => queueWindow i low w s
  | other => queueRecord other s

/-- The records of `rs` are queued, in that order, and nothing else happens to the report unit, the trunk transmit
sections and the counters between `s` and `t` (R168 to R173). -/
def Reports (rs : List Record) (s t : State) : Prop :=
  t.report = (rs.foldl (fun u r => queueAny r u) s).report ∧
    t.trunk = (rs.foldl (fun u r => queueAny r u) s).trunk ∧
    t.counters = (rs.foldl (fun u r => queueAny r u) s).counters

/-- The request `f` from lane `l` is answered with a status and data on that lane, its effects having been made (state `u`); the
interpreter then searches again (R151, R153). -/
def answered (l : Lane) (f : Frame) (st : Status) (data : List Byte) (u : State) : State :=
  respond l (responseFrame (byteAt f 1) (byteAt f 0) st data) u

/-- The interpreter is judging the request `f` from lane `l`, and the frame is a request of kind `k` of sufficient length
(R151, R152). -/
def Judging (k : RequestKind) (l : Lane) (f : Frame) (s : State) : Prop :=
  s.interp.judging = some ⟨l, f⟩ ∧ isRequest k f = true ∧ minLength k f ≤ f.length

/-- The lane takes frames: start-up is over and the lane is in LANE_ENABLE (R48, R49). -/
def Receiving (l : Lane) (s : State) : Prop := s.phase = .running ∧ s.params.laneEnable.getLsbD l = true

/-- A counter of a lane. -/
def laneCount (s : State) (l : Lane) (k : LaneCounter) : Nat := s.counters.lanes[l][k.index]

/-- A counter of a stream number. -/
def streamCount (s : State) (i : StreamNo) (k : StreamCounter) : Nat := s.counters.streams[i][k.index]

/-! ## Segment frames (R53 to R57) -/

/-- The header tests of R55 for a frame of at least 8 bytes on lane `l`. -/
def HeaderPasses (l : Lane) (f : Frame) : Prop :=
  byteSum (f.take 8) % 256 = 0x5A ∧ (byteAt f 0).toNat ≤ 7 ∧ (1 ≤ (byteAt f 3).toNat ∧ (byteAt f 3).toNat ≤ 56) ∧
    (byteAt f 6).toNat = l.val

/-- A segment frame on lane `l` is the lane fault counted under `k` (R53 to R56). -/
def SegmentFault (l : Lane) (f : Frame) (k : LaneCounter) : Prop :=
  (k = .short ∧ f.length < 8) ∨
    (k = .header ∧ 8 ≤ f.length ∧ ¬ HeaderPasses l f) ∨
    (k = .short ∧ 8 ≤ f.length ∧ HeaderPasses l f ∧ f.length < 8 + (byteAt f 3).toNat) ∨
    (k = .payload ∧ HeaderPasses l f ∧ 8 + (byteAt f 3).toNat ≤ f.length ∧
      onesSum 0 (segmentPayload f) ≠ fieldAt f 4 2)

/-- A segment frame on lane `l` passes every check: segment `n` of stream `i` (R53 to R57). -/
def GoodSegment (l : Lane) (f : Frame) (i : StreamNo) (n : Nat) : Prop :=
  HeaderPasses l f ∧ 8 + (byteAt f 3).toNat ≤ f.length ∧ onesSum 0 (segmentPayload f) = fieldAt f 4 2 ∧
    (byteAt f 0).toNat = i.val ∧ fieldAt f 1 2 = n

/-- A good segment on lane `l` that is not BLOCKED, when the part takes frames. -/
def TakesSegment (l : Lane) (f : Frame) (i : StreamNo) (n : Nat) (s : State) : Prop :=
  Receiving l s ∧ s.lanes[l].integrity ≠ .blocked ∧ GoodSegment l f i n

/-- What the lane itself does with a good segment, before the assembler judges it (R57): the two counters, then the integrity
machine. -/
def goodTaken (l : Lane) (s : State) : State := laneGood l (countLane l .good (countLane l .frames s))

/-- Segment `n`, with a payload of `len` bytes, lies in the window of the ACTIVE stream `i` and fits it (R69, steps 5 to 10). -/
def InWindow (s : State) (l : Lane) (i : StreamNo) (m : Accepted) (n len : Nat) : Prop :=
  s.streams[i].state = .active ∧ s.streams[i].manifest = some m ∧ s.streams[i].members[l].isSome = true ∧
    n < m.segmentCount ∧ len = m.segmentLength n ∧ s.streams[i].lowEdge ≤ n / m.perBlock ∧
    n / m.perBlock < s.streams[i].lowEdge + s.streams[i].window ∧ n / m.perBlock < m.blockCount

/-- The slot a segment of block `b` of stream `i` is placed into, as it stands before the placement: the FILLING slot that holds the
block, or the lowest FREE slot allocated for it (R74, R76). -/
def PlacementSlot (s : State) (i : StreamNo) (m : Accepted) (b p : Nat) (q : SlotNo) (x : Slot) : Prop :=
  (slotOf s i b = some q ∧ x = s.slots[q] ∧ x.state = .filling ∧ x.filled.getLsbD p = false) ∨
    (slotOf s i b = none ∧ lowestFree s = some q ∧
      x = { Slot.free with state := .filling, holder := some { stream := i, block := b, expected := m.blockSegments b } })

/-- What a placement on lane `l` makes of the stream's descriptor (R34, R77): the stall count 0, the stall timer restarted, the
member ACTIVE with its quiet timer restarted. -/
def placedStream (s : State) (l : Lane) (i : StreamNo) : Stream :=
  { s.streams[i] with
    stallCount := 0
    stallTimer := some (s.params.stallTime * 10)
    members := s.streams[i].members.set l (some { state := .active, timer := some (s.params.quietTime * 10) }) }

/-- The MEMBER record of a placement from a QUIET member (R34). -/
def memberRecords (s : State) (l : Lane) (i : StreamNo) : List Record :=
  if (s.streams[i].members[l].map Member.state) = some .quiet then [.member i l .active] else []

/-! ## Requests (chapters 1, 2 and 9) -/

/-- The transmission that ends on lane `l` is that of the OK response to a RESTART while one is pending (R164). -/
def RestartAnswered (s : State) (l : Lane) (x : TrunkSending) : Prop :=
  s.interp.restartPending = true ∧ x.slot = .response ∧
    ∃ f, s.trunk[l].response = some f ∧ byteAt f 0 = 0x40#8 ∧ byteAt f 2 = 0x5F#8 ∧ byteAt f 3 = 0x00#8

/-- A report frame is due (R171): more than 62 bytes are queued, or a drain runs with a record queued or a frame owed. -/
def ReportDue (r : ReportUnit) : Prop :=
  62 < queuedBytes r.queue ∨ (r.drain = true ∧ (r.queue ≠ [] ∨ r.owed = true))

/-- The byte of an entry's 34 stored bytes, by table index (R3). -/
def entryByte (s : State) (e b : Nat) : Byte := s.entryBytes.read 0 (entryAddress e b)

/-- The entries of the listed extents read as 34 zero bytes with received count 0, every other entry as in `s` (R4, R5). -/
def ExtentsCleared (es : List Nat) (s t : State) : Prop :=
  ∀ e b, b < 34 →
    (e / 64 ∈ es → entryByte t e b = 0 ∧ t.entryCounts.read 0 e = 0) ∧
      (e / 64 ∉ es → entryByte t e b = entryByte s e b ∧ t.entryCounts.read 0 e = s.entryCounts.read 0 e)

/-- How many of the 34 bytes of entry `j` arrive with a MANIFEST_DATA of `n` bytes at offset `o` (R9). -/
def arrivingBytes (o n j : Nat) : Nat :=
  ((List.range 34).filter fun b => decide (o ≤ 64 + 34 * j + b ∧ 64 + 34 * j + b < o + n)).length

/-- The quiet timers of a stream run (R33): it is ACTIVE and some block from the low edge to N − 1 has not reached COMPLETE. -/
def QuietTimersRun (s : State) (i : StreamNo) : Prop :=
  s.streams[i].state = .active ∧
    ∃ b, s.streams[i].lowEdge ≤ b ∧ b < s.streams[i].blockCount ∧ blockReachedComplete s i b = false

/-! ## Acceptance (R14 to R19) -/

/-- The conditions of R15 on the header's own fields, for the block count declared at MANIFEST_BEGIN. -/
def HeaderConsistent (h : HeaderFields) (declared : Nat) : Prop :=
  let segments := (h.imageLength + h.segmentUnit - 1) / h.segmentUnit
  h.format = 1 ∧ h.blockCount = declared ∧ h.segmentUnit % 8 = 0 ∧ (8 ≤ h.segmentUnit ∧ h.segmentUnit ≤ 56) ∧
    (1 ≤ h.perBlock ∧ h.perBlock ≤ 64) ∧ segments ≤ 65536 ∧
    (segments + h.perBlock - 1) / h.perBlock = h.blockCount ∧ h.port ≤ 3 ∧
    h.releaseId ≤ 0x7FF ∧ h.ackId ≤ 0x7FF ∧ h.releaseId ≠ h.ackId ∧
    h.releaseRetryLimit ≤ 3 ∧ h.blockRetryLimit ≤ 3 ∧ h.newFloor ≤ h.version ∧
    (∀ b ∈ h.reserved, b = 0) ∧ h.flags.toNat ≤ 1

/-- The consistency check of R15: the header's conditions, and every entry's flags and reserved byte (R2). -/
def ManifestConsistent (s : State) (i : StreamNo) (h : HeaderFields) (declared : Nat) : Prop :=
  HeaderConsistent h declared ∧ ∀ j, j < declared →
    (entryByte s (entryIndex s.manifests[i] j) 32).toNat ≤ 1 ∧ entryByte s (entryIndex s.manifests[i] j) 33 = 0

/-- A stream other than `i` holds the accepted manifest `a` (R14). -/
def ComparedWith (s : State) (i : StreamNo) (a : Accepted) : Prop := ∃ j, j ≠ i ∧ s.streams[j].manifest = some a

/-- Two manifests name the same branch port and share an identifier on it (R16). -/
def Clash (a m : Accepted) : Prop :=
  a.port = m.port ∧ (m.releaseId = a.releaseId ∨ m.releaseId = a.ackId ∨ m.ackId = a.releaseId ∨ m.ackId = a.ackId)

/-- The targets of the compared streams that have no governing record, each once (R18). -/
def NewTargets (s : State) (i : StreamNo) (ts : List Word16) : Prop :=
  ts.Nodup ∧ ∀ t, t ∈ ts ↔ (∃ a, ComparedWith s i a ∧ a.target = t) ∧ ∀ g ∈ s.store.governing, g.record.target ≠ t

/-! ## Release (R106, R109, R112, R113) -/

/-- Stream `i` has a frame ready for branch port `p` (R109). -/
def FrameReady (s : State) (p : Port) (i : StreamNo) : Prop :=
  (s.streams[i].state = .active ∨ s.streams[i].state = .ending) ∧
    (∃ b, s.streams[i].stage = some ⟨.sending, b⟩) ∧ ∃ m, s.streams[i].manifest = some m ∧ m.port = p

/-- The start conditions of R106 hold for stream `i`, whose low-edge block slot `k` holds. -/
def ReleaseDue (s : State) (i : StreamNo) (k : SlotNo) : Prop :=
  s.streams[i].state = .active ∧ s.streams[i].stage = none ∧ s.supply.state = .ok ∧
    slotOf s i s.streams[i].lowEdge = some k ∧ s.slots[k].state = .verified

/-- Stream `i`, with accepted manifest `m`, is the one whose port and ack identifier a branch frame matches (R112). -/
def AcknowledgesFor (s : State) (p : Port) (ident : Ident) (i : StreamNo) (m : Accepted) : Prop :=
  s.streams[i].manifest = some m ∧ m.port = p ∧ m.ackId = ident ∧
    ∀ j a, j ≠ i → s.streams[j].manifest = some a → ¬ (a.port = p ∧ a.ackId = ident)

/-- No stream's accepted manifest names this port and ack identifier (R112). -/
def AcknowledgesNone (s : State) (p : Port) (ident : Ident) : Prop :=
  ∀ (j : StreamNo) a, s.streams[j].manifest = some a → ¬ (a.port = p ∧ a.ackId = ident)

/-- The command is a well-formed WRITTEN, BUSY or REJECTED for block `b` on this port under this identifier (R112, R120). -/
def Answers (c : Instr) (p : Port) (ident : Ident) (b : Nat) : Prop :=
  (∃ w : Word16, w.toNat = b ∧ (c = .written p ident w ∨ c = .busy p ident w ∨ c = .rejected p ident w)) ∨
    ∃ f : Frame, c = .branchFrame p ident f ∧ 3 ≤ f.length ∧ fieldAt f 0 2 = b ∧
      (byteAt f 2 = 1#8 ∨ byteAt f 2 = 2#8 ∨ byteAt f 2 = 3#8)

/-- The next command in the queue is such an answer. -/
def AnswerNext (s : State) (p : Port) (ident : Ident) (b : Nat) : Prop := ∃ c, s.pending.head? = some c ∧ Answers c p ident b

/-- The stage of stream `i` is AWAITING for block `b`, which slot `k` holds, and the stream is ACTIVE with manifest `m` (R113). -/
def Outstanding (s : State) (i : StreamNo) (b : Nat) (k : SlotNo) (m : Accepted) : Prop :=
  s.streams[i].state = .active ∧ s.streams[i].stage = some ⟨.awaiting, b⟩ ∧ s.streams[i].manifest = some m ∧
    slotOf s i b = some k

/-- Stream `i` is ENDING with manifest `m` and its END frame is awaited (R113, R123). -/
def EndAwaited (s : State) (i : StreamNo) (m : Accepted) : Prop :=
  s.streams[i].state = .ending ∧ s.streams[i].stage = some ⟨.awaiting, m.blockCount⟩ ∧ s.streams[i].manifest = some m

/-! ## Laws that hold at all times -/

/-- The four memories are in canonical form. -/
def MemoriesCanonical (s : State) : Prop :=
  s.nvm.wf erasedByte = true ∧ s.staging.wf 0 = true ∧ s.entryBytes.wf 0 = true ∧ s.entryCounts.wf 0 = true

/-- The report law (R168) and the range of the lost count (R167). -/
def ReportLaw (s : State) : Prop :=
  s.report.queue.length ≤ reportCapacity ∧ s.report.lost ≤ lostMax ∧
    ∀ i, s.report.queue.countP (Record.isWindowOf i) ≤ 1

/-- Every parameter is in its range (R155), the three identifiers differ and the REPORT_LANE is enabled (R158). -/
def ParamsLegal (p : Params) : Prop :=
  p.segId ≠ p.ctlId ∧ p.segId ≠ p.rspId ∧ p.ctlId ≠ p.rspId ∧ p.controlLanes ≠ 0 ∧
    p.laneEnable.getLsbD p.reportLane = true ∧
    (1 ≤ p.faultThreshold ∧ p.faultThreshold ≤ 15) ∧ (1 ≤ p.guardCount ∧ p.guardCount ≤ 15) ∧
    (1 ≤ p.quarantine ∧ p.quarantine ≤ 255) ∧ (1 ≤ p.stallTime ∧ p.stallTime ≤ 255) ∧
    (1 ≤ p.gapLimit ∧ p.gapLimit ≤ 15) ∧ (1 ≤ p.quietTime ∧ p.quietTime ≤ 255) ∧
    p.ackShort ≤ 255 ∧ p.ackLong ≤ 255 ∧ (1 ≤ p.busyLimit ∧ p.busyLimit ≤ 15) ∧
    p.packetTimer ≤ 255 ∧ p.absoluteTimer ≤ 255 ∧ p.supplyLevel ≤ 3 ∧ p.supplyFilter ≤ 255

/-- Every counter of a set is within 32 bits (R176). -/
def Counters.Bounded (c : Counters) : Prop :=
  (∀ (l : Lane) (k : Fin 10), c.lanes[l][k] ≤ counterMax) ∧ (∀ (i : StreamNo) (k : Fin 10), c.streams[i][k] ≤ counterMax) ∧
    c.recordsLost ≤ counterMax

/-- The live counters, the snapshot set and the snapshot count are within 32 bits (R176, R179). -/
def CountersBounded (s : State) : Prop :=
  s.counters.Bounded ∧ s.snapshot.counters.Bounded ∧ s.snapshot.count ≤ counterMax

/-- Every control queue holds at most four frames (R47, R52). -/
def ControlQueueLaw (s : State) : Prop := ∀ l : Lane, s.lanes[l].queue.length ≤ controlQueueMax

/-- The single-load law (R6): at most one stream is LOADING or AUTHENTICATING. -/
def SingleLoadLaw (s : State) : Prop :=
  ∀ i j : StreamNo, s.streams[i].state.loads = true → s.streams[j].state.loads = true → i = j

/-- The law of the manifest table (R4): each extent is in at most one stream's list, and there once; and a list holds an
entry for every block its stream has declared. -/
def ExtentLaw (s : State) : Prop :=
  (∀ i : StreamNo, s.manifests[i].extents.Nodup ∧ (∀ e ∈ s.manifests[i].extents, e < 32) ∧
      s.manifests[i].declaredLength.getD 0 ≤ 64 + entrySize * extentEntries * s.manifests[i].extents.length) ∧
    ∀ i j : StreamNo, ∀ e, e ∈ s.manifests[i].extents → e ∈ s.manifests[j].extents → i = j

/-- The digest engine is idle only while its FIFO is empty: an idle engine judges the head at once (R91). -/
def EngineLaw (s : State) : Prop := s.engine.busy = false → s.engine.fifo = []

/-- The window law's second half (R31): the held reservations sum to at most 32. -/
def ReservationLaw (s : State) : Prop := reservedTotal s ≤ totalSlots

/-- While the part is held in power-on reset every volatile item and every parameter is at its reset value (R148, R165). -/
def HeldLaw (s : State) : Prop := s.phase = .inReset → s = volatileReset s .inReset s.pins Params.default

/-- The filter timer runs exactly while the voltage departs from the present supply state (R145, R146). -/
def FilterLaw (s : State) : Prop :=
  s.phase ≠ .inReset → (s.supply.filter.isSome = true ↔ departs s s.pins.senseMv = true)

/-- The record a running commit will make does not lower its target's floor (R134). -/
def Store.KeepsFloor (t : Store) : Prop :=
  match t.run with
  | some r =>
    match r.job with
    | .append _ rec _ _ => (floorOf t.governing rec.target).toNat ≤ rec.floor.toNat
    | .compact _ rec _ _ => (floorOf t.governing rec.target).toNat ≤ rec.floor.toNat
    | .newPage _ rec => (floorOf t.governing rec.target).toNat ≤ rec.floor.toNat
    | .scan _ => True
    | .installKey => True
  | none => True

/-- A slot is FREE exactly when it is held for nothing (R66, R68). -/
def Slot.HeldUnlessFree (x : Slot) : Prop := x.state = .free ↔ x.holder = none

/-- The slot law (R68): a slot is FREE exactly when it is held for nothing, and no two slots hold the same pair. -/
def SlotLaw (s : State) : Prop :=
  (∀ k : SlotNo, s.slots[k].HeldUnlessFree) ∧
    ∀ (k q : SlotNo) (i : StreamNo) (b : Nat), s.slots[k].holds i b = true → s.slots[q].holds i b = true → k = q

/-! ## Laws of windows, jobs and releases -/

/-- Whether a stream in this state has been started (R30): ACTIVE, or a state that follows it. -/
def StreamState.started : StreamState → Bool
  | .vacant | .loading | .authenticating | .ready => false
  | .active | .committing | .ending | .done | .faulted | .aborting => true

/-- Whether a stream in this state has been stopped with work perhaps in flight: FAULTED or ABORTING (R41, R42). -/
def StreamState.stopped : StreamState → Bool
  | .faulted | .aborting => true
  | .vacant | .loading | .authenticating | .ready | .active | .committing | .ending | .done => false

/-- The digest FIFO law (R90): no job is in the FIFO twice, so there is at most one per slot; there is at most one MAC job; and a slot whose
job is in the FIFO is COMPLETE or HASHING. -/
def FifoLaw (s : State) : Prop :=
  s.engine.fifo.Nodup ∧ (∀ i j, .mac i ∈ s.engine.fifo → .mac j ∈ s.engine.fifo → i = j) ∧
    ∀ k : SlotNo, .block k ∈ s.engine.fifo → s.slots[k].state = .complete ∨ s.slots[k].state = .hashing

/-- A slot is held only for a started stream, and for a block of its window, from the low edge to low + W − 1 and below N (R31, R76); and a
stopped stream keeps only slots with work in flight (R41, R42, R85). -/
def WindowLaw (s : State) : Prop :=
  ∀ (k : SlotNo) h, s.slots[k].holder = some h →
    (s.streams[h.stream].state.started = true ∧ s.streams[h.stream].lowEdge ≤ h.block ∧
      h.block < s.streams[h.stream].lowEdge + s.streams[h.stream].window ∧ h.block < s.streams[h.stream].blockCount) ∧
    (s.streams[h.stream].state.stopped = true → slotBusy s k = true)

/-- The low-edge law (R26): the low edge never exceeds N, and is 0, with no release stage, while the stream has not started; the segments of
an accepted manifest fit its blocks (R15, R20). -/
def LowEdgeLaw (s : State) : Prop :=
  ∀ i : StreamNo, s.streams[i].lowEdge ≤ s.streams[i].blockCount ∧
    (s.streams[i].state.started = false → s.streams[i].lowEdge = 0 ∧ s.streams[i].stage = none) ∧
    ∀ m, s.streams[i].manifest = some m → m.segmentCount ≤ m.blockCount * m.perBlock

/-- The outstanding block of an ACTIVE stream is its low-edge block, which a slot in SENDING or AWAITING holds (R106, R107); a resend is held only for such
a stream, and an END start only in ENDING (R104, R118, R122). -/
def StageLaw (s : State) : Prop :=
  ∀ i : StreamNo,
    (∀ g, s.streams[i].state = .active → s.streams[i].stage = some g → g.block = s.streams[i].lowEdge ∧
      ∃ k : SlotNo, s.slots[k].holds i s.streams[i].lowEdge = true ∧ s.slots[k].state.inRelease = true) ∧
    (s.contexts[i].resendHeld = true → s.streams[i].state = .active ∧ s.streams[i].stage.isSome = true) ∧
    (s.contexts[i].startHeld = true → s.streams[i].state = .ending)

/-- A frame in transmission is of a started stream; a slot that holds its block is SENDING or AWAITING; and an ACTIVE stream's frame is of its low-edge
block, which a slot holds, or of a block below it, already WRITTEN (R105, R110, R114). -/
def TransmissionLaw (s : State) : Prop :=
  ∀ (p : Port) f, s.ports[p].position = some f → f.answered = false →
    s.streams[f.stream].state.started = true ∧
    (∀ k : SlotNo, s.slots[k].holds f.stream f.block = true → s.slots[k].state.inRelease = true) ∧
    (s.streams[f.stream].state = .active → f.block < s.streams[f.stream].lowEdge ∨
      f.block = s.streams[f.stream].lowEdge ∧ ∃ k : SlotNo, s.slots[k].holds f.stream f.block = true)

/-- The laws of slots, windows, jobs and releases together. -/
def ReleaseLaws (s : State) : Prop :=
  SlotLaw s ∧ FifoLaw s ∧ WindowLaw s ∧ LowEdgeLaw s ∧ StageLaw s ∧ TransmissionLaw s

/-! ## The law of the version store: what its memory would show to a scan -/

/-- What the store holds of what its memory shows: the governing table, the active page, its sequence, and the first slot from which the
active page is free. -/
structure StoreView where
  governing : List GovRow
  activePage : Option PageId
  activeSeq : Option Word32
  freeFrom : Nat

/-- The view a store has while its operation runs. The slot an append is filling is no longer free. -/
def Store.view (t : Store) : StoreView :=
  { governing := t.governing, activePage := t.activePage, activeSeq := t.activeSeq
    freeFrom := match t.run.map NvmRun.job with
      | some (.append _ _ _ _) => t.appendPos + 1
      | _ => t.appendPos }

/-- A start-up scan of this memory would find the view: its table, its active page and sequence, which is not that of an erased page, and the
slots from its first free one free (R128, R130). -/
def NvmShows (m : Memory) (v : StoreView) : Prop :=
  (scannedStore m).governing = v.governing ∧ (scannedStore m).activePage = v.activePage ∧
    (scannedStore m).activeSeq = v.activeSeq ∧ v.activeSeq ≠ some 0xFFFFFFFF#32 ∧
    ∀ p n, v.activePage = some p → v.freeFrom ≤ n → n < pageSlots → readSlot m p n = .free

/-- The memory after a step that does what it means (R126). -/
def NvmStep.done (m : Memory) : NvmStep → Memory
  | .program a v => m.write erasedByte a v
  | .erase u => m.clear u.base u.size

/-- What a step may leave, whether it succeeds, fails with a sound readback or is cut short (R126, R131, R138, R139): every byte but its own as
it was, and a page that it was to erase valid only if it was, is not being formed, and has the sequence it had. -/
def NvmStep.Leaves (m : Memory) (job : NvmJob) (st : NvmStep) (c : Memory) : Prop :=
  match st with
  | .program a _ => ∀ x, x ≠ a → c.read erasedByte x = m.read erasedByte x
  | .erase u => (∀ x, x < u.base ∨ u.base + u.size ≤ x → c.read erasedByte x = m.read erasedByte x) ∧
      ∀ p, u = .page p → pageValid c p = true →
        pageValid m p = true ∧ job.forms ≠ some p ∧ pageSequence c p = pageSequence m p

/-- The step is a program step, and its byte reads as it was meant to. -/
def NvmStep.ReadsAsMeant (c : Memory) (st : NvmStep) : Prop := ∃ a v, st = .program a v ∧ c.read erasedByte a = v

/-- Whether a step with `rest` after it is the one with which an operation's record comes to count (R135 to R137). -/
def NvmJob.turns (job : NvmJob) (st : NvmStep) (rest : List NvmStep) : Bool :=
  match job with
  | .append _ _ _ _ => rest.isEmpty
  | .newPage _ _ => rest.isEmpty
  | .compact _ _ x _ => !rest.isEmpty && st == .program (completeMarkerAddress x) 0x3C#8
  | .scan _ => false
  | .installKey => false

/-- The view once the record of a commit counts (R135 to R137). -/
def Store.turned (t : Store) : NvmJob → Option StoreView
  | .append _ r p n => some
      { governing := putRow { record := r, page := p, slot := n } t.governing, activePage := t.activePage
        activeSeq := t.activeSeq, freeFrom := t.appendPos + 1 }
  | .compact _ r x q => if t.activePage = some x then none else some
      { governing := (pageSwitched t x q r).governing, activePage := some x, activeSeq := some q
        freeFrom := t.governing.length + 1 }
  | .newPage _ r => some
      { governing := (pageSwitched t .a 1#32 r).governing, activePage := some .a, activeSeq := some 1#32
        freeFrom := t.governing.length + 1 }
  | .scan _ => none
  | .installKey => none

/-- From memory `m`, which shows `v`, every one of the steps leaves a memory that shows `v`, however it ends; but the one step that turns the
operation leaves, when its byte reads as meant, the new view. -/
def StepsSafe (job : NvmJob) : Option StoreView → StoreView → Memory → List NvmStep → Prop
  | _, _, _, [] => True
  | new, v, m, st :: rest =>
    if job.turns st rest = true then
      ∃ w, new = some w ∧ (∀ c, st.Leaves m job c → NvmShows c v ∨ NvmShows c w ∧ st.ReadsAsMeant c) ∧
        NvmShows (st.done m) w ∧ StepsSafe job none w (st.done m) rest
    else (∀ c, st.Leaves m job c → NvmShows c v) ∧ NvmShows (st.done m) v ∧ StepsSafe job new v (st.done m) rest

/-- The steps that an operation has still to make are safe: a scan's are erases of units other than the active page, and the steps of any other
keep the view or turn it. A page that a step in progress programs is not known to be erased. -/
def Store.RunSafe (m : Memory) (t : Store) (r : NvmRun) : Prop :=
  (match r.job with
    | .scan _ => ∀ st ∈ r.steps, ∃ u, st = .erase u ∧ ∀ p, t.activePage = some p → u ≠ .page p
    | job => StepsSafe job (t.turned job) t.view m r.steps) ∧
  (r.stepping = true → ∀ st rest, r.steps = st :: rest → t.stepStarted st = t)

/-- The store holds what its memory shows, knows a page to be erased only if it is, and runs safe steps. -/
def StoreCore (m : Memory) (t : Store) : Prop :=
  NvmShows m t.view ∧ (∀ p, t.erasedFlag p = true → unitErased m (.page p) = true) ∧ ∀ r, t.run = some r → t.RunSafe m r

/-- The stream and the record of an operation that is a commit. -/
def NvmJob.commits : NvmJob → Option (StreamNo × VersionRecord)
  | .append i r _ _ => some (i, r)
  | .compact i r _ _ => some (i, r)
  | .newPage i r => some (i, r)
  | .scan _ => none
  | .installKey => none

/-- The commit law (R133, R134): the operation queue holds at most one commit of a stream, and only of one in COMMITTING or ABORTING; and a
commit that runs is the one at its head, and makes a record for the target of its stream's manifest. -/
def CommitLaw (s : State) : Prop :=
  (∀ i : StreamNo, s.store.ops.count (.commit i) ≤ 1 ∧
    (.commit i ∈ s.store.ops → s.streams[i].state = .committing ∨ s.streams[i].state = .aborting)) ∧
  ∀ r i v, s.store.run = some r → r.job.commits = some (i, v) →
    s.store.ops.head? = some (.commit i) ∧ ∃ m, s.streams[i].manifest = some m ∧ m.target = v.target

/-- The target law (R18, R129): the targets that the memory governs and those of the accepted manifests are at most 16 together. -/
def RoomLaw (s : State) : Prop :=
  ∃ ts : List Word16, ts.length ≤ 16 ∧ (∀ g ∈ (scannedStore s.nvm).governing, g.record.target ∈ ts) ∧
    ∀ (i : StreamNo) m, s.streams[i].manifest = some m → m.target ∈ ts

/-- What a command that ends a scrub reads back, if the scrub failed, does not show a page valid that was not, nor with another sequence. It is
what the floor law's proviso, that programmed bytes keep their values, says of an erase that fails (R128, R139): a failed scrub leaves
its unit as it reads (R131). -/
def ScrubReadsSound (c : Instr) (s : State) : Prop :=
  ∀ rb r p rest mem, c = .nvmStepDone rb → s.store.run = some r → r.job.isScan = true → r.steps = .erase (.page p) :: rest →
    stepResult s.nvm (.erase (.page p)) rb = some (mem, false) → pageValid mem p = true →
      pageValid s.nvm p = true ∧ pageSequence mem p = pageSequence s.nvm p

/-- The law of the version store: its memory is in canonical form, shows no active page with the sequence of an erased one, and has room for
every target; its queue and its running operation are those of its streams; and unless the part is held in power-on reset the store holds what
a scan of the memory would find. -/
def StoreLaw (s : State) : Prop :=
  s.nvm.wf erasedByte = true ∧ (scannedStore s.nvm).activeSeq ≠ some 0xFFFFFFFF#32 ∧ RoomLaw s ∧ CommitLaw s ∧
    (s.phase ≠ .inReset → StoreCore s.nvm s.store)

end Sys2Proof.Machine
end

