-- ==== Sys2Proof/Certificates/Slice0/Obligations.lean ====
section
/-! DEFINITION. The statements about the model, one per entry of OBLIGATIONS.json: what the part does, from the numbered rules of
spec/. They name the shared operations (queuing a record, answering a request, serving a branch port, judging the head of
the digest FIFO) where a rule hands on to another rule; each of those operations has a statement of its own here. -/

open Sys2Proof Sys2Proof.Machine

/-! ## The step, reset, stops and frames -/

/-- The command at the front of the queue runs on the state with the queue's rest; on an empty queue the part idles (the
model's choice, notes/assumptions/1). -/
def Obligations.StepRunsTheFrontCommand : Prop :=
  (∀ (c : Instr) (rest : List Instr) (s : State), step (s.withPending (c :: rest)) = exec c (s.withPending rest)) ∧
    ∀ s : State, s.pending = [] → step s = .next s

/-- Every item whose reset value the manual states has it at reset (R3, R25, R47, R66, R89, R104, R105, R129, R144, R150, R154, R155,
R167, R177, R179). The queue of commands, the model's own, is empty (DESIGN CHOICE, notes/assumptions/16). -/
def Obligations.ResetValuesAreAsStated : Prop :=
  State.reset.params =
      { segId := 0x6A0#11, ctlId := 0x6A8#11, rspId := 0x6A9#11, laneEnable := 0b1111#4, controlLanes := 0b1111#4,
        reportLane := 0, faultThreshold := 4, guardCount := 8, quarantine := 10, stallTime := 50, gapLimit := 6,
        quietTime := 30, ackShort := 49, ackLong := 62, busyLimit := 8, packetTimer := 5, absoluteTimer := 4,
        supplyLevel := 1, supplyFilter := 20 } ∧
    State.reset.interp =
      { lastServed := 3, restartPending := false, restartIssued := false, table := 0, cursor := 0, judging := none } ∧
    (∀ l : Lane, State.reset.lanes[l] =
        { integrity := .opened, faults := 0, good := 0, quarantine := none, queue := [] } ∧
      State.reset.trunk[l] = { response := none, report := none, sending := none } ∧
      ∀ k, laneCount State.reset l k = 0) ∧
    (∀ i : StreamNo, State.reset.streams[i] =
        { state := .vacant, cause := none, manifest := none, floorAtAcceptance := none,
          members := Vector.replicate 4 none, window := 0, reservationHeld := false, lowEdge := 0, stallCount := 0,
          stallTimer := none, stage := none } ∧
      State.reset.manifests[i] =
        { extents := [], declaredLength := none, declaredBlocks := none, received := 0,
          header := Vector.replicate 64 0#8, expectedMac := none } ∧
      State.reset.contexts[i] =
        { ackTimer := none, resendHeld := false, startHeld := false, endRetry := 0, endBusy := 0 } ∧
      ∀ k, streamCount State.reset i k = 0) ∧
    (∀ k : SlotNo, State.reset.slots[k] =
      { state := .free, holder := none, filled := 0#64, byteCount := 0, failCount := 0, retryCount := 0,
        busyCount := 0, nextFrame := none }) ∧
    State.reset.engine = { fifo := [], busy := false } ∧
    (∀ p : Port, State.reset.ports[p] = { position := none, pointer := 7 }) ∧
    State.reset.store =
      { governing := [], activePage := none, activeSeq := none, appendPos := 0, erasedA := false, erasedB := false,
        keyState := .erased, ops := [], run := none } ∧
    State.reset.report = { queue := [], lost := 0, packet := none, absolute := none, drain := false, owed := false } ∧
    State.reset.counters.recordsLost = 0 ∧
    (∀ e b, b < 34 → entryByte State.reset e b = 0#8 ∧ State.reset.entryCounts.read 0 e = 0#8) ∧
    freeExtents State.reset = List.range 32 ∧
    (∀ (l : Lane) (i : StreamNo) (n : Fin 10), State.reset.snapshot.counters.lanes[l][n] = 0 ∧
      State.reset.snapshot.counters.streams[i][n] = 0) ∧
    State.reset.snapshot.counters.recordsLost = 0 ∧ State.reset.snapshot.count = 0 ∧
    State.reset.supply.filter = none ∧ State.reset.pending = []

/-- Events without a subject in the part. Those that the manual says have no effect change nothing: the end of a transmission of a frame
that is no longer the part's (R105, R154; DEDUCED, notes/assumptions/21), the completion of a job that a start-up abandoned (R102;
DEDUCED, notes/assumptions/23), the expiry of a timer that is stopped, a stall expiry that finds the stream FAULTED among them (R40,
R120, R172; DEDUCED, notes/assumptions/22); and a movement of the supply while the part is held in power-on reset only moves the
input (R148; DEDUCED, notes/assumptions/19). Those that cannot occur stop by name (DESIGN CHOICE, notes/assumptions/3): the end of
an NVM step that is not in progress, a readback without the step's shape, a request that is not the one being judged, a start-up
that is not due. -/
def Obligations.EventsWithoutASubjectChangeNothingOrStop : Prop :=
  ((∀ (l : Lane) (o : TxOutcome) (s : State), s.trunk[l].sending = none → exec (.trunkTxEnd l o) s = .next s) ∧
    (∀ (p : Port) (o : TxOutcome) (s : State), s.ports[p].position = none → exec (.branchTxEnd p o) s = .next s) ∧
    (∀ s : State, ((∀ k rest, s.engine.fifo ≠ .block k :: rest) ∨ s.engine.busy = false → exec .blockJobDone s = .next s) ∧
      ((∀ i rest, s.engine.fifo ≠ .mac i :: rest) ∨ s.engine.busy = false → exec .macJobDone s = .next s)) ∧
    ∀ (mv : Nat) (s : State), s.phase = .inReset → 6000 ≤ mv →
      exec (.departureBegin mv) s = .next (s.withPins { s.pins with senseMv := mv }) ∧
        exec (.departureEnd mv) s = .next (s.withPins { s.pins with senseMv := mv })) ∧
  ((∀ (l : Lane) (s : State), s.lanes[l].quarantine = none → exec (.quarantineExpiry l) s = .next s) ∧
    (∀ (i : StreamNo) (s : State), s.streams[i].stallTimer = none ∨ s.streams[i].state ≠ .active →
      exec (.stallExpiry i) s = .next s) ∧
    (∀ (i : StreamNo) (l : Lane) (s : State), s.streams[i].members[l].bind Member.timer = none →
      exec (.quietExpiry i l) s = .next s) ∧
    (∀ (i : StreamNo) (s : State), s.contexts[i].ackTimer = none → exec (.ackTimeout i) s = .next s) ∧
    (∀ s : State, s.supply.filter = none → exec .filterExpiry s = .next s) ∧
    (∀ s : State, s.report.packet = none → exec .packetTimerExpiry s = .next s) ∧
    ∀ s : State, s.report.absolute = none → exec .absoluteTimerExpiry s = .next s) ∧
  (∀ (rb : Readback) (s : State),
    (stepInProgress s = none → exec (.nvmStepDone rb) s = .fault .noStepInProgress) ∧
    ∀ st, stepInProgress s = some st → stepResult s.nvm st rb = none →
      exec (.nvmStepDone rb) s = .fault .readbackShape) ∧
  (∀ (l : Lane) (f : Frame) (s : State), s.interp.judging ≠ some ⟨l, f⟩ →
    ∀ c ∈ [Instr.manifestBegin l f, .manifestData l f, .manifestEnd l f, .streamStart l f, .streamLanes l f,
      .streamAbort l f, .streamClose l f, .keyInstall l f, .flush l f, .snapshot l f, .paramWrite l f,
      .paramRead l f, .tableSelect l f, .cursorSet l f, .direct l f, .atCursor l f, .postInc l f, .preInc l f,
      .offset l f, .restart l f, .unknownCode l f, .noCodeFrame l f], exec c s = .fault .requestNotHeld) ∧
  ∀ (mv : Nat) (s : State), mv < 6000 ∨ (s.phase ≠ .inReset ∧ (s.interp.restartIssued = false ∨ stepInProgress s ≠ none)) →
    exec (.startUp mv) s = .fault .noStartUpDue

/-- A command that has a next state changes at most the parts of the state that `commandParts` lists for it. The premise is one
clause of `ParamsLegal`, which every command keeps: the two identifiers differ (R158). -/
def Obligations.CommandsChangeOnlyTheirParts : Prop :=
  ∀ (c : Instr) (s t : State), s.params.segId ≠ s.params.ctlId → exec c s = .next t → Touches (commandParts c) s t

/-- A power-on reset gives every volatile item and parameter its reset value and keeps the non-volatile memory, but for the byte or
unit of an NVM step in progress, whose bytes are free values (R126, R133, R148; notes/assumptions/2) within what R139 and R142 let the
next scan find: the page that a cut erase clears is not the active one, is valid only if it was, is not being formed, and then
has its sequence; the key area gains no marker; and a cut step of a commit or a key installation does not leave its slot, page or
key area erased. So the page that the scan finds active and its governing records are what they were before a cut erase of another
page. The addresses are the model's choice (DESIGN CHOICE, notes/assumptions/6). -/
def Obligations.PowerOnResetKeepsOnlyTheMemory : Prop :=
  ∀ (mv : Nat) (low : Bool) (s : State), s.nvm.wf erasedByte = true →
    ∃ t, exec (.powerOnReset mv low) s = .next t ∧
      (∃ nvm free, t = { State.reset with
        pins := { senseMv := mv, resetnLow := low }, nvm := nvm, freeIndex := free, pending := s.pending }) ∧
      (stepInProgress s = none → t.nvm = s.nvm ∧ t.freeIndex = s.freeIndex) ∧
      ∀ r, s.store.run = some r →
        (∀ a v, stepInProgress s = some (.program a v) → t.freeIndex = s.freeIndex + 1 ∧
          let first := if a < 2048 then a - a % 16 else 2048
          let length := if a < 2048 then 16 else 64
          let unknown (b : Nat) : Byte := if b = a then Config.freeByte s.freeIndex else s.nvm.read erasedByte b
          let traceless := (∀ c, r.job ≠ .scan c) ∧ ∀ b, first ≤ b → b < first + length → unknown b = 0xFF#8
          (∀ b, b ≠ a → t.nvm.read erasedByte b = s.nvm.read erasedByte b) ∧
          (traceless → t.nvm.read erasedByte a = 0x00#8) ∧
          (¬ traceless → t.nvm.read erasedByte a = Config.freeByte s.freeIndex)) ∧
        ∀ u, stepInProgress s = some (.erase u) → t.freeIndex = s.freeIndex + u.size ∧
          let unknown (b : Nat) : Byte := Config.freeByte (s.freeIndex + b)
          let after (b : Nat) : Byte := t.nvm.read erasedByte (u.base + b)
          let before (b : Nat) : Byte := s.nvm.read erasedByte (u.base + b)
          (∀ b, b < u.base ∨ u.base + u.size ≤ b → t.nvm.read erasedByte b = s.nvm.read erasedByte b) ∧
          ((∀ c, r.job ≠ .scan c) → ∃ b, b < u.size ∧ after b ≠ 0xFF#8) ∧
          (after (u.size - 1) = unknown (u.size - 1) ∨ after (u.size - 1) = 0x00#8) ∧
          (u = .key →
            (∀ b, b < 63 → b ≠ 32 → after b = unknown b) ∧ (after 32 = unknown 32 ∨ after 32 = 0xFF#8) ∧
            (after 32 = 0x00#8 → before 32 = 0x00#8)) ∧
          ∀ p, u = .page p →
            (∀ b, 5 ≤ b → b < 1023 → after b = unknown b) ∧ (after 4 = unknown 4 ∨ after 4 = 0xFF#8) ∧
            (after 4 ≠ 0x3C#8 → ∀ b, b < 4 → after b = unknown b) ∧
            (after 4 = 0x3C#8 → before 4 = 0x3C#8 ∧ (∀ b, b < 4 → after b = before b) ∧
              (∀ i rec q, r.job ≠ .compact i rec p q) ∧ ∀ i rec, r.job = .newPage i rec → p ≠ .a) ∧
            ((scannedStore s.nvm).activePage ≠ some p →
              (scannedStore t.nvm).activePage = (scannedStore s.nvm).activePage ∧
              (scannedStore t.nvm).governing = (scannedStore s.nvm).governing)

/-- A start-up, after a power-on reset (POWER) or for an issued RESTART (REQUEST), gives every volatile item its reset value, keeps
the parameters and the non-volatile memory, takes the first measurement, reads the store from the memory, and either ends at
once with a RESTARTED record or begins its scrubs. What it reads: the valid page with the higher sequence is active; the good record
in a target's highest slot governs it; records are appended after the last slot that is not free; every other page that is not
erased, and a key area that is neither marked nor erased, is scrubbed, page A before page B before the key area; and the store
result with no scrub is EMPTY with no active page, RECOVERED with a torn slot, CLEAN with none (R127 to R132, R140, R148, R149,
R165). -/
def Obligations.StartUpMeasuresAndScans : Prop :=
  (∀ (mv : Nat) (s : State) (cause : StartCause), 6000 ≤ mv →
    ((s.phase = .inReset ∧ cause = .power) ∨
      (s.phase ≠ .inReset ∧ s.interp.restartIssued = true ∧ stepInProgress s = none ∧ cause = .request)) →
    ∃ t u v, exec (.startUp mv) s = .next t ∧
      u = { State.reset with
        phase := .scanning, pins := { senseMv := mv, resetnLow := false }, params := s.params, nvm := s.nvm,
        freeIndex := s.freeIndex, pending := s.pending
        supply := { state := if releaseLevelMv s.params.supplyLevel < mv then .ok else .low, filter := none } } ∧
      v = (if releaseLevelMv s.params.supplyLevel < mv then u else queueRecord (.supply .low) u).withStore
        { scannedStore s.nvm with run := none } ∧
      (scrubUnits s.nvm = [] → t = (queueRecord (.restarted cause (scanResult s.nvm)) v).withPhase .running) ∧
      (scrubUnits s.nvm ≠ [] → t = v.withStore { v.store with
        run := some { job := .scan cause, steps := (scrubUnits s.nvm).map .erase, stepping := supplyOk u } })) ∧
  (∀ bs : List Byte, bs.length = 16 →
    (readSlotBytes bs = .free ↔ ∀ b ∈ bs, b = 0xFF#8) ∧
    ∀ r, readSlotBytes bs = .good r ↔ byteAt bs 15 = 0x00#8 ∧ byteSum (bs.take 15) % 256 = 0x5A ∧
      r.target.toNat = fieldAt bs 0 2 ∧ r.version.toNat = fieldAt bs 2 4 ∧ r.floor.toNat = fieldAt bs 6 4 ∧
      r.count = fieldAt bs 10 2) ∧
  ∀ m : Memory, m.wf erasedByte = true →
    let t := scannedStore m
    let valid (p : PageId) : Prop := m.read erasedByte ((NvmUnit.page p).base + 4) = 0x3C#8
    let sequence (p : PageId) : Nat := beValue (m.readAll erasedByte (NvmUnit.page p).base 4)
    let slot (p : PageId) (n : Nat) : SlotReading :=
      readSlotBytes (m.readAll erasedByte ((NvmUnit.page p).base + 16 + 16 * n) 16)
    let erased (u : NvmUnit) : Prop := ∀ b, b < u.size → m.read erasedByte (u.base + b) = 0xFF#8
    let marked : Prop := m.read erasedByte (NvmUnit.key.base + 32) = 0x00#8
    (t.activePage = none ↔ ∀ p, ¬ valid p) ∧
    (∀ p, valid p → (valid p.other → sequence p.other < sequence p) → t.activePage = some p) ∧
    (t.activePage = none → t.activeSeq = none ∧ t.governing = [] ∧ t.appendPos = 0) ∧
    (∀ p, t.activePage = some p → valid p ∧ t.activeSeq.map BitVec.toNat = some (sequence p) ∧
      (∀ g, g ∈ t.governing ↔ g.page = p ∧ g.slot < 63 ∧ slot p g.slot = .good g.record ∧
        ∀ n r, g.slot < n → n < 63 → slot p n = .good r → r.target ≠ g.record.target) ∧
      t.governing.Pairwise (fun g h => g.record.target.toNat < h.record.target.toNat) ∧
      t.appendPos ≤ 63 ∧ (∀ n, t.appendPos ≤ n → n < 63 → slot p n = .free) ∧
      ∀ n, n + 1 = t.appendPos → slot p n ≠ .free) ∧
    (∀ p, t.erasedFlag p = true ↔ t.activePage ≠ some p ∧ erased (.page p)) ∧
    (marked → t.keyState = .installed) ∧ (¬ marked → t.keyState = .erased) ∧ t.ops = [] ∧ t.run = none ∧
    (∀ p, .page p ∈ scrubUnits m ↔ t.activePage ≠ some p ∧ ¬ erased (.page p)) ∧
    (.key ∈ scrubUnits m ↔ ¬ marked ∧ ¬ erased .key) ∧
    (scrubUnits m).Sublist [.page .a, .page .b, .key] ∧
    (t.activePage = none → scanResult m = .empty) ∧
    ∀ p, t.activePage = some p →
      ((∃ n, n < 63 ∧ slot p n = .torn) → scanResult m = .recovered) ∧
      ((∀ n, n < 63 → slot p n ≠ .torn) → scanResult m = .clean)

/-! ## Trunk lanes -/

/-- During start-up, on a disabled lane, and under any identifier but SEG_ID and CTL_ID a frame changes nothing; otherwise its identifier decides
its path. A control frame on a lane outside CONTROL_LANES is counted CONTROL_FOREIGN, one that finds four frames queued
CONTROL_OVERRUN; any other joins its lane's queue at the tail, and the interpreter then searches (R48, R49, R51, R52, R151). -/
def Obligations.FramesTakeThePathOfTheirIdentifier : Prop :=
  ((∀ (l : Lane) (d : Ident) (f : Frame) (s : State), ¬ Receiving l s →
     exec (.segmentFrame l f) s = .next s ∧ exec (.controlFrame l f) s = .next s ∧
       exec (.otherTrunkFrame l d f) s = .next s) ∧
   ∀ (l : Lane) (d : Ident) (f : Frame) (s : State), Receiving l s →
     (d = s.params.segId → exec (.otherTrunkFrame l d f) s = exec (.segmentFrame l f) s) ∧
       (d = s.params.ctlId → exec (.otherTrunkFrame l d f) s = exec (.controlFrame l f) s) ∧
       (d ≠ s.params.segId → d ≠ s.params.ctlId → exec (.otherTrunkFrame l d f) s = .next s)) ∧
  (∀ (l : Lane) (f : Frame) (s : State), Receiving l s → s.params.segId ≠ s.params.ctlId →
     (s.params.controlLanes.getLsbD l = false →
       exec (.controlFrame l f) s = .next (countLane l .controlForeign s)) ∧
     (s.params.controlLanes.getLsbD l = true → 4 ≤ s.lanes[l].queue.length →
       exec (.controlFrame l f) s = .next (countLane l .controlOverrun s)) ∧
     (s.params.controlLanes.getLsbD l = true → s.lanes[l].queue.length < 4 →
       exec (.controlFrame l f) s =
         .next (serveLane (s.setLane l { s.lanes[l] with queue := s.lanes[l].queue ++ [f] }))))

/-- A BLOCKED lane counts a segment frame and nothing else. In OPEN a lane fault raises c, and blocks the lane when c reaches FAULT_THRESHOLD; in
GUARDED any lane fault blocks it; blocking starts the quarantine timer. A good segment, counted whatever the assembler then does
with it, clears c in OPEN; in GUARDED it raises g, and at GUARD_COUNT the lane is OPEN with c cleared. The quarantine timer's
expiry puts the lane in GUARDED with g = 0. Every change queues a LANE record (R53 to R60, R62). -/
def Obligations.TheLaneIntegrityMachine : Prop :=
  (∀ (l : Lane) (f : Frame) (s : State), Receiving l s →
     (s.lanes[l].integrity = .blocked →
       exec (.segmentFrame l f) s = .next (countLane l .blocked (countLane l .frames s))) ∧
     ∀ k, SegmentFault l f k →
       let u := countLane l k (countLane l .frames s)
       let blocked (c : Nat) : State := queueRecord (.lane l .blocked)
         (u.setLane l { s.lanes[l] with
           integrity := .blocked, faults := c, quarantine := some (s.params.quarantine * 10) })
       (s.lanes[l].integrity = .opened → s.lanes[l].faults + 1 < s.params.faultThreshold →
         exec (.segmentFrame l f) s = .next (u.setLane l { s.lanes[l] with faults := s.lanes[l].faults + 1 })) ∧
       (s.lanes[l].integrity = .opened → s.params.faultThreshold ≤ s.lanes[l].faults + 1 →
         exec (.segmentFrame l f) s = .next (blocked (s.lanes[l].faults + 1))) ∧
       (s.lanes[l].integrity = .guarded → exec (.segmentFrame l f) s = .next (blocked s.lanes[l].faults))) ∧
  (∀ (l : Lane) (s : State),
     let u := countLane l .good (countLane l .frames s)
     (s.lanes[l].integrity = .opened → goodTaken l s = u.setLane l { s.lanes[l] with faults := 0 }) ∧
     (s.lanes[l].integrity = .guarded → s.lanes[l].good + 1 < s.params.guardCount →
       goodTaken l s = u.setLane l { s.lanes[l] with good := s.lanes[l].good + 1 }) ∧
     (s.lanes[l].integrity = .guarded → s.params.guardCount ≤ s.lanes[l].good + 1 →
       goodTaken l s = queueRecord (.lane l .opened)
         (u.setLane l { s.lanes[l] with integrity := .opened, good := s.lanes[l].good + 1, faults := 0 }))) ∧
  (∀ (l : Lane) (s : State), s.lanes[l].quarantine.isSome = true →
     exec (.quarantineExpiry l) s = .next (queueRecord (.lane l .guarded)
       (s.setLane l { s.lanes[l] with integrity := .guarded, good := 0, quarantine := none })))

/-- Raising a counter adds 1 to it, up to 4,294,967,295 where it stays, and changes nothing else. A good segment that the assembler refuses
raises one counter, of the lane or of the stream, by the first of the steps that holds; only AHEAD queues a record, the stream's
WINDOW record (R63, R69 to R74, R87, R103, R125, R176). -/
def Obligations.RefusedSegmentsAreCounted : Prop :=
  (∀ (l : Lane) (k : LaneCounter) (s : State),
    let t := countLane l k s
    (laneCount t l k = if laneCount s l k < 4294967295 then laneCount s l k + 1 else laneCount s l k) ∧
    (∀ (m : Lane) (j : LaneCounter), m ≠ l ∨ j ≠ k → laneCount t m j = laneCount s m j) ∧
    (∀ (i : StreamNo) (j : StreamCounter), streamCount t i j = streamCount s i j) ∧
    t.counters.recordsLost = s.counters.recordsLost ∧ Touches [.counters] s t) ∧
  (∀ (i : StreamNo) (k : StreamCounter) (s : State),
    let t := countStream i k s
    (streamCount t i k = if streamCount s i k < 4294967295 then streamCount s i k + 1 else streamCount s i k) ∧
    (∀ (j : StreamNo) (q : StreamCounter), j ≠ i ∨ q ≠ k → streamCount t j q = streamCount s j q) ∧
    (∀ (l : Lane) (q : LaneCounter), laneCount t l q = laneCount s l q) ∧
    t.counters.recordsLost = s.counters.recordsLost ∧ Touches [.counters] s t) ∧
  ∀ (l : Lane) (f : Frame) (i : StreamNo) (n : Nat) (s : State), TakesSegment l f i n s →
    let x := s.streams[i]
    let u := goodTaken l s
    (x.state ≠ .active → exec (.segmentFrame l f) s = .next (countLane l .inactive u)) ∧
    ∀ m, x.state = .active → x.manifest = some m →
      let b := n / m.perBlock
      let fits := n < m.segmentCount ∧ (byteAt f 3).toNat = m.segmentLength n
      (x.members[l] = none → exec (.segmentFrame l f) s = .next (countLane l .foreign u)) ∧
      (x.members[l].isSome = true →
        (m.segmentCount ≤ n → exec (.segmentFrame l f) s = .next (countStream i .beyond u)) ∧
        (n < m.segmentCount → (byteAt f 3).toNat ≠ m.segmentLength n →
          exec (.segmentFrame l f) s = .next (countStream i .length u)) ∧
        (fits → b < x.lowEdge → exec (.segmentFrame l f) s = .next (countStream i .stale u)) ∧
        (fits → x.lowEdge ≤ b → x.lowEdge + x.window ≤ b →
          exec (.segmentFrame l f) s = .next (queueWindow i x.lowEdge x.window (countStream i .ahead u))) ∧
        (fits → x.lowEdge ≤ b → b < x.lowEdge + x.window → ∀ q, slotOf s i b = some q →
          (s.slots[q].state.reachedComplete = true ∨ s.slots[q].filled.getLsbD (n % m.perBlock) = true) →
          exec (.segmentFrame l f) s = .next (countStream i .duplicate u)))

/-- A segment in the window is placed: into the FILLING slot that holds its block, or into the lowest FREE slot, allocated for it.
Its bytes go to their place in the data region, the position is filled, the stall count clears, the stall timer and the arrival
member's quiet timer restart, and a QUIET member becomes ACTIVE with a MEMBER record (R34, R35, R67, R74, R76, R77). Where a slot's
region lies in the staging store is the model's choice (DESIGN CHOICE, notes/assumptions/6). -/
def Obligations.SegmentsArePlaced : Prop :=
  ∀ (l : Lane) (f : Frame) (i : StreamNo) (n : Nat) (s : State) (m : Accepted) (q : SlotNo) (x : Slot),
    TakesSegment l f i n s → MemoriesCanonical s → InWindow s l i m n (byteAt f 3).toNat →
    PlacementSlot s i m (n / m.perBlock) (n % m.perBlock) q x →
    (x.fill (n % m.perBlock) (byteAt f 3).toNat).isFull = false →
    ∃ t, exec (.segmentFrame l f) s = .next t ∧
      t.slots[q] = { x with
        filled := x.filled ||| 1#64 <<< (n % m.perBlock), byteCount := x.byteCount + (byteAt f 3).toNat } ∧
      OtherSlotsSame q s t ∧
      (∀ a, t.staging.read 0 a =
        let start := q.val * 3584 + n % m.perBlock * m.segmentUnit
        if start ≤ a ∧ a < start + (byteAt f 3).toNat then byteAt f (8 + (a - start)) else s.staging.read 0 a) ∧
      t.streams[i] = placedStream s l i ∧ OtherStreamsSame i s t ∧
      Reports (memberRecords s l i) (countStream i .placed (goodTaken l s)) t ∧
      t.lanes = (goodTaken l s).lanes ∧
      Touches ([.lanes, .staging, .slots, .streams] ++ reportParts) s t

/-- The placement that fills a block's last position also completes its slot: the slot is COMPLETE, one block job joins the digest
FIFO, whose head is judged, and the quiet timers of all members stop if their condition has gone (R33, R78, R90). Where a slot's region
lies is the model's choice (DESIGN CHOICE, notes/assumptions/6). -/
def Obligations.FullBlocksQueueADigestJob : Prop :=
  (∀ (i : StreamNo) (s : State),
    (QuietTimersRun s i → stopQuietIfDone i s = s) ∧
    (¬ QuietTimersRun s i → ∃ members, stopQuietIfDone i s = s.setStream i { s.streams[i] with members := members } ∧
      ∀ l : Lane, members[l] = s.streams[i].members[l].map fun r => { r with timer := none })) ∧
  ∀ (l : Lane) (f : Frame) (i : StreamNo) (n : Nat) (s : State) (m : Accepted) (q : SlotNo) (x : Slot),
    TakesSegment l f i n s → MemoriesCanonical s → InWindow s l i m n (byteAt f 3).toNat →
    PlacementSlot s i m (n / m.perBlock) (n % m.perBlock) q x →
    (x.fill (n % m.perBlock) (byteAt f 3).toNat).isFull = true →
    ∃ t u, exec (.segmentFrame l f) s = .next t ∧ t = stopQuietIfDone i (appendJob (.block q) u) ∧
      u.slots[q] = { x with
        state := .complete, filled := x.filled ||| 1#64 <<< (n % m.perBlock)
        byteCount := x.byteCount + (byteAt f 3).toNat } ∧
      OtherSlotsSame q s u ∧
      (∀ a, u.staging.read 0 a =
        let start := q.val * 3584 + n % m.perBlock * m.segmentUnit
        if start ≤ a ∧ a < start + (byteAt f 3).toNat then byteAt f (8 + (a - start)) else s.staging.read 0 a) ∧
      u.streams[i] = placedStream s l i ∧ OtherStreamsSame i s u ∧
      Reports (memberRecords s l i) (countStream i .placed (goodTaken l s)) u ∧
      u.lanes = (goodTaken l s).lanes ∧
      Touches ([.lanes, .staging, .slots, .streams] ++ reportParts) s u


/-! ## Answers, and the frames the part sends on the trunk -/

/-- A finished request's response is placed in its lane's response slot, and handed over at once under the RSP_ID standing when the lane transmits
nothing; the interpreter is then idle and searches again. The search serves the first lane after the last one served whose
control queue holds a frame and whose response slot is empty, and takes that queue's oldest frame; while a request is judged,
while a restart is pending, or with no such lane, nothing changes (R151, R153, R154, R159). -/
def Obligations.AnswersArePlacedAndTheSearchGoesOn : Prop :=
  (∀ (l : Lane) (frame : Frame) (s : State),
     (s.trunk[l].sending = none →
       respond l frame s = serveLane ((s.setTrunk l { s.trunk[l] with
         response := some frame, sending := some ⟨.response, s.params.rspId⟩ }).withInterp
           { s.interp with judging := none })) ∧
     (s.trunk[l].sending.isSome = true →
       respond l frame s = serveLane ((s.setTrunk l { s.trunk[l] with response := some frame }).withInterp
         { s.interp with judging := none }))) ∧
  (∀ s : State,
     (s.interp.judging.isSome = true ∨ s.interp.restartPending = true → serveLane s = s) ∧
     ((∀ l : Lane, s.lanes[l].queue = [] ∨ s.trunk[l].response.isSome = true) → serveLane s = s) ∧
     ∀ (d l : Lane) (f : Frame) (rest : List Frame), s.interp.judging = none → s.interp.restartPending = false →
       l = s.interp.lastServed + 1 + d → s.lanes[l].queue = f :: rest → s.trunk[l].response = none →
       (∀ e : Lane, e < d → ∀ m, m = s.interp.lastServed + 1 + e →
         s.lanes[m].queue = [] ∨ s.trunk[m].response.isSome = true) →
       serveLane s = (s.setLane l { s.lanes[l] with queue := rest }).withInterp
         { s.interp with lastServed := l, judging := some ⟨l, f⟩ })

/-- The end of a trunk transmission, sent or abandoned alike, empties the slot; the lane then hands over a waiting response, else a
waiting report frame, the interpreter searches, and a due report frame is formed. The end of the OK response to a RESTART
issues the restart to the version store (R151, R154, R164, R171). -/
def Obligations.TransmissionEndsEmptyTheSlot : Prop :=
  (∀ (l : Lane) (o : TxOutcome) (s : State) (x : TrunkSending), s.trunk[l].sending = some x →
    ∃ u, exec (.trunkTxEnd l o) s = .next (emit (serveLane (handOver l u))) ∧
      (x.slot = .response → u.trunk[l] = { response := none, report := s.trunk[l].report, sending := none }) ∧
      (x.slot = .report → u.trunk[l] = { response := s.trunk[l].response, report := none, sending := none }) ∧
      (∀ m, m ≠ l → u.trunk[m] = s.trunk[m]) ∧
      (RestartAnswered s l x → u.interp = { s.interp with restartIssued := true }) ∧
      (¬ RestartAnswered s l x → u.interp = s.interp) ∧ Touches [.trunk, .interp] s u) ∧
  ∀ (l : Lane) (s : State),
    (s.trunk[l].sending.isSome = true → handOver l s = s) ∧
    (s.trunk[l].sending = none →
      (s.trunk[l].response.isSome = true →
        handOver l s = s.setTrunk l { s.trunk[l] with sending := some ⟨.response, s.params.rspId⟩ }) ∧
      (s.trunk[l].response = none → s.trunk[l].report.isSome = true →
        handOver l s = s.setTrunk l { s.trunk[l] with sending := some ⟨.report, s.params.rspId⟩ }) ∧
      (s.trunk[l].response = none → s.trunk[l].report = none → handOver l s = s))

/-! ## Reports -/

/-- A report frame is formed exactly when one is due and the REPORT_LANE's report slot is empty. It carries the lost count and, from
the head of the queue, every record that still fits in 62 bytes; the lost count and frame owed clear, and drain ends when
the queue is empty (R170, R171, R173). -/
def Obligations.ReportFramesAreFormed : Prop :=
  ∀ s : State,
    let l := s.params.reportLane
    (s.trunk[l].report.isSome = true ∨ ¬ ReportDue s.report → emit s = s) ∧
    (s.trunk[l].report = none → ReportDue s.report →
      ∃ taken rest, s.report.queue = taken ++ rest ∧ queuedBytes taken ≤ 62 ∧
        (∀ r q, rest = r :: q → 62 < queuedBytes taken + r.length) ∧
        emit s = handOver l ((s.setTrunk l { s.trunk[l] with
            report := some (padFrame ([0x41#8, byteOf s.report.lost] ++ taken.flatMap Record.bytes)) }).withReport
          { s.report with queue := rest, lost := 0, owed := false, drain := s.report.drain && !rest.isEmpty }))

/-- A record joins the queue's tail when fewer than 64 are queued, and starts the timers, or begins a drain when PACKET_TIMER is 0; at a full queue
it is discarded and counted in the lost count and in records lost; an urgent record begins a drain either way. A WINDOW record
of a stream that has one in the queue replaces that one's low edge and W in place, at a full queue too, and only the packet
timer restarts. The urgent records are SUPPLY, COMMIT, RESTARTED and the STREAM record of FAULTED (R166, R168, R169, R172, R173,
R178). -/
def Obligations.RecordsAreQueuedUpdatedOrLost : Prop :=
  (∀ r : Record, r.urgent = true ↔ (∃ i c, r = .stream i .faulted c) ∨ (∃ e, r = .supply e) ∨ (∃ i t v f, r = .commit i t v f) ∨
     ∃ c e, r = .restarted c e) ∧
  (∀ (r : Record) (s : State),
     let finish (u : State) : State := if r.urgent = true then beginDrain u else u
     let p := s.params
     (s.report.queue.length < 64 →
       let u := s.withReport { s.report with queue := s.report.queue ++ [r] }
       (s.report.drain = true → queueRecord r s = finish (emit u)) ∧
       (s.report.drain = false → p.packetTimer = 0 → queueRecord r s = finish (beginDrain u)) ∧
       (s.report.drain = false → 1 ≤ p.packetTimer → queueRecord r s = finish (emit (u.withReport { u.report with
         packet := some p.packetTimer
         absolute := if s.report.queue = [] ∧ 1 ≤ p.absoluteTimer then some (p.absoluteTimer * 8)
           else s.report.absolute })))) ∧
     (64 ≤ s.report.queue.length → queueRecord r s = finish
       ((s.withReport { s.report with lost := if s.report.lost < 255 then s.report.lost + 1 else s.report.lost }).withCounters
         { s.counters with
           recordsLost := if s.counters.recordsLost < 4294967295 then s.counters.recordsLost + 1
             else s.counters.recordsLost }))) ∧
  (∀ (i : StreamNo) (low w : Nat) (s : State),
     ((∀ r ∈ s.report.queue, ∀ a b, r ≠ .window i a b) → queueWindow i low w s = queueRecord (.window i low w) s) ∧
     ∀ before after a b, s.report.queue = before ++ .window i a b :: after →
       (∀ r ∈ before ++ after, ∀ c d, r ≠ .window i c d) →
       let u := s.withReport { s.report with queue := before ++ .window i low w :: after }
       (s.report.drain = true → queueWindow i low w s = emit u) ∧
       (s.report.drain = false → s.params.packetTimer = 0 → queueWindow i low w s = beginDrain u) ∧
       (s.report.drain = false → 1 ≤ s.params.packetTimer →
         queueWindow i low w s = emit (u.withReport { u.report with packet := some s.params.packetTimer })))

/-- A drain begins by stopping both timers and judging whether a report frame is due; with nothing to send it ends at once. The
expiries of the two timers and FLUSH begin one, FLUSH with a frame owed (R173, R174). -/
def Obligations.DrainsBegin : Prop :=
  (∀ s : State,
    let u (drain : Bool) : State := s.withReport { s.report with packet := none, absolute := none, drain := drain }
    (s.report.queue = [] → s.report.owed = false → beginDrain s = u false) ∧
    (s.report.queue ≠ [] ∨ s.report.owed = true → beginDrain s = emit (u true))) ∧
  (∀ s : State, s.report.packet.isSome = true → exec .packetTimerExpiry s = .next (beginDrain s)) ∧
  (∀ s : State, s.report.absolute.isSome = true → exec .absoluteTimerExpiry s = .next (beginDrain s)) ∧
  ∀ (l : Lane) (f : Frame) (s : State), Judging .flush l f s →
    exec (.flush l f) s = .next (answered l f .ok [byteOf s.report.queue.length, byteOf s.report.lost]
      (beginDrain (s.withReport { s.report with owed := true })))

/-! ## Loading a manifest -/

/-- MANIFEST_BEGIN taken: the lowest free extents are listed in ascending order and cleared, the declared length and block count are
recorded, and the stream is LOADING (R4, R7). -/
def Obligations.ManifestBeginTakesExtents : Prop :=
  ∀ (l : Lane) (f : Frame) (i : StreamNo) (n : Nat) (s : State), Judging .manifestBegin l f s → MemoriesCanonical s →
    (byteAt f 2).toNat = i.val → s.streams[i].state = .vacant →
    (∀ j, j ≠ i → s.streams[j].state ≠ .loading ∧ s.streams[j].state ≠ .authenticating) →
    1 ≤ n → n ≤ 2048 → fieldAt f 3 3 = 64 + 34 * n → (n + 63) / 64 ≤ (freeExtents s).length →
    let es := (freeExtents s).take ((n + 63) / 64)
    ∃ u, exec (.manifestBegin l f) s =
        .next (answered l f .ok [byteOf ((n + 63) / 64), byteOf (freeExtents u).length] u) ∧
      u.manifests[i] = { s.manifests[i] with
        extents := es, declaredLength := some (64 + 34 * n), declaredBlocks := some n, received := 0 } ∧
      u.streams[i] = { s.streams[i] with state := .loading } ∧ OtherStreamsSame i s u ∧
      ExtentsCleared es s u ∧ Touches [.entries, .manifests, .streams] s u

/-- MANIFEST_DATA taken: each byte is stored where its offset says, in the header or in an entry reached through the extent list, the
entry's received count grows by its bytes, and nothing else of the table changes (R8, R9). -/
def Obligations.ManifestDataStoresItsBytes : Prop :=
  ∀ (l : Lane) (f : Frame) (i : StreamNo) (len : Nat) (s : State), Judging .manifestData l f s →
    MemoriesCanonical s → SingleLoadLaw s → ExtentLaw s → s.streams[i].state = .loading →
    let r := s.manifests[i]
    let n := (byteAt f 5).toNat
    1 ≤ n → n ≤ 58 → fieldAt f 2 3 = r.received → r.declaredLength = some len → r.received + n ≤ len →
    ∃ u, exec (.manifestData l f) s = .next (answered l f .ok (byteOf i :: beBytes 3 (r.received + n)) u) ∧
      (∃ h, u.manifests[i] = { r with received := r.received + n, header := h } ∧ ∀ x : Fin 64,
        h[x] = if r.received ≤ x.val ∧ x.val < r.received + n then byteAt f (6 + (x.val - r.received)) else r.header[x]) ∧
      (∀ j b, j < 64 * r.extents.length → b < 34 →
        let e := r.extents.getD (j / 64) 0 * 64 + j % 64
        let x := 64 + 34 * j + b
        entryByte u e b =
            (if r.received ≤ x ∧ x < r.received + n then byteAt f (6 + (x - r.received)) else entryByte s e b) ∧
          u.entryCounts.read 0 e = s.entryCounts.read 0 e + byteOf (arrivingBytes r.received n j)) ∧
      (∀ e b, e / 64 ∉ r.extents → b < 34 →
        entryByte u e b = entryByte s e b ∧ u.entryCounts.read 0 e = s.entryCounts.read 0 e) ∧
      OtherStreamsSame i s u ∧ Touches [.entries, .manifests] s u

/-- MANIFEST_END taken: the expected MAC is stored, the stream is AUTHENTICATING, and one MAC job joins the digest FIFO (R11). -/
def Obligations.ManifestEndQueuesAMacJob : Prop :=
  ∀ (l : Lane) (f : Frame) (i : StreamNo) (s : State), Judging .manifestEnd l f s →
    (byteAt f 2).toNat = i.val → s.streams[i].state = .loading →
    s.manifests[i].declaredLength = some s.manifests[i].received → (∀ j, .mac j ∉ s.engine.fifo) →
    s.store.keyState = .installed →
    exec (.manifestEnd l f) s = .next (answered l f .accepted (byteOf i :: beBytes 3 s.manifests[i].received)
      (appendJob (.mac i) ((s.setManifest i { s.manifests[i] with
        expectedMac := some ((f.drop 3).take 32) }).setStream i { s.streams[i] with state := .authenticating })))

/-- The load requests judge their conditions in the order the rules give, and a refused one changes nothing but its answer (R7, R8, R11).
The data of a RANGE refusal of MANIFEST_DATA and MANIFEST_END is the model's choice (notes/assumptions/12). -/
def Obligations.LoadRequestsAreRefusedInOrder : Prop :=
  (∀ (l : Lane) (f : Frame) (s : State), Judging .manifestBegin l f s →
    let refused (st : Status) : Prop :=
      exec (.manifestBegin l f) s = .next (answered l f st [0#8, byteOf (freeExtents s).length] s)
    (7 < (byteAt f 2).toNat → refused .range) ∧
    ∀ i : StreamNo, (byteAt f 2).toNat = i.val →
      let otherLoads := ∃ j, j ≠ i ∧ (s.streams[j].state = .loading ∨ s.streams[j].state = .authenticating)
      (s.streams[i].state ≠ .vacant → refused .state) ∧
      (s.streams[i].state = .vacant → otherLoads → refused .order) ∧
      (s.streams[i].state = .vacant → ¬ otherLoads →
        ((∀ n, 1 ≤ n → n ≤ 2048 → fieldAt f 3 3 ≠ 64 + 34 * n) → refused .range) ∧
        ∀ n, 1 ≤ n → n ≤ 2048 → fieldAt f 3 3 = 64 + 34 * n → (freeExtents s).length < (n + 63) / 64 →
          refused .noRoom)) ∧
  (∀ (l : Lane) (f : Frame) (s : State), Judging .manifestData l f s →
    let n := (byteAt f 5).toNat
    let refused (st : Status) (data : List Byte) : Prop := exec (.manifestData l f) s = .next (answered l f st data s)
    (n < 1 ∨ 58 < n → ∃ data, refused .range data) ∧
    (1 ≤ n → n ≤ 58 →
      ((∀ i : StreamNo, s.streams[i].state ≠ .loading) → refused .state [0xFF#8, 0#8, 0#8, 0#8]) ∧
      (∀ (i : StreamNo) (len : Nat), SingleLoadLaw s → s.streams[i].state = .loading →
        s.manifests[i].declaredLength = some len →
        (fieldAt f 2 3 ≠ s.manifests[i].received ∨ len < fieldAt f 2 3 + n) →
        refused .order (byteOf i :: beBytes 3 s.manifests[i].received)))) ∧
  ∀ (l : Lane) (f : Frame) (s : State), Judging .manifestEnd l f s →
    let refused (st : Status) (data : List Byte) : Prop := exec (.manifestEnd l f) s = .next (answered l f st data s)
    (7 < (byteAt f 2).toNat → ∃ data, refused .range data) ∧
    ∀ (i : StreamNo) (len : Nat), (byteAt f 2).toNat = i.val →
      let data := byteOf i :: beBytes 3 s.manifests[i].received
      (s.streams[i].state ≠ .loading → refused .state data) ∧
      (s.streams[i].state = .loading → s.manifests[i].declaredLength = some len →
        (s.manifests[i].received ≠ len → refused .order data) ∧
        (s.manifests[i].received = len →
          ((∃ j, .mac j ∈ s.engine.fifo) → refused .order data) ∧
          ((∀ j, .mac j ∉ s.engine.fifo) → s.store.keyState ≠ .installed → refused .noKey data)))

/-! ## Streams -/

/-- STREAM_START taken: the window, limited to 16, is stored and reserved, each lane of the set becomes an ACTIVE member with its quiet timer
started, the stall timer starts, and a STREAM record and then a WINDOW record are queued. STREAM_LANES taken: a lane in both
sets keeps its member record, a new lane gets an ACTIVE one whose quiet timer starts when quiet timers run for the stream, a
lane left out loses its record, and nothing else changes (R29, R30, R32, R33). -/
def Obligations.StreamStartAndLanesSetTheMembers : Prop :=
  (∀ (l : Lane) (f : Frame) (i : StreamNo) (w : Nat) (s : State), Judging .streamStart l f s →
     (byteAt f 2).toNat = i.val → s.streams[i].state = .ready →
     1 ≤ (byteAt f 3).toNat → (byteAt f 3).toNat ≤ 15 → 1 ≤ (byteAt f 4).toNat → w = min (byteAt f 4).toNat 16 →
     reservedTotal s + w ≤ 32 →
     ∃ u, exec (.streamStart l f) s = .next (answered l f (if 16 < (byteAt f 4).toNat then .clamped else .ok)
         [byteAt f 2, StreamState.active.code, byteOf w, byteOf (reservedTotal u)] u) ∧
       u.streams[i] = { s.streams[i] with
         state := .active, window := w, reservationHeld := true, lowEdge := 0, stallCount := 0
         stallTimer := some (s.params.stallTime * 10)
         members := Vector.ofFn fun m : Lane =>
           if (byteAt f 3).getLsbD m = true then some { state := .active, timer := some (s.params.quietTime * 10) }
           else none } ∧
       OtherStreamsSame i s u ∧ Reports [.stream i .active none, .window i 0 w] s u ∧
       Touches (.streams :: reportParts) s u) ∧
  (∀ (l : Lane) (f : Frame) (i : StreamNo) (s : State), Judging .streamLanes l f s →
     (byteAt f 2).toNat = i.val → s.streams[i].state = .active → 1 ≤ (byteAt f 3).toNat → (byteAt f 3).toNat ≤ 15 →
     ∃ u members, exec (.streamLanes l f) s =
         .next (answered l f .ok [byteAt f 2, StreamState.active.code, byteAt f 3] u) ∧
       u = s.setStream i { s.streams[i] with members := members } ∧
       ∀ m : Lane,
         ((byteAt f 3).getLsbD m = false → members[m] = none) ∧
         ((byteAt f 3).getLsbD m = true → s.streams[i].members[m].isSome = true →
           members[m] = s.streams[i].members[m]) ∧
         ((byteAt f 3).getLsbD m = true → s.streams[i].members[m] = none →
           (QuietTimersRun s i → members[m] = some { state := .active, timer := some (s.params.quietTime * 10) }) ∧
           (¬ QuietTimersRun s i → members[m] = some { state := .active, timer := none })))

/-- A stream request is judged on its stream number, then on the stream's state, then on its own conditions in order; a refused one
changes nothing but its answer, whose data begins with the stream number and the state (R28, R29, R32). -/
def Obligations.StreamRequestsAreRefused : Prop :=
  ∀ (l : Lane) (f : Frame) (s : State),
    let refused (c : Instr) (st : Status) (data : List Byte) : Prop := exec c s = .next (answered l f st data s)
    (7 < (byteAt f 2).toNat →
      (Judging .streamStart l f s → ∃ data, refused (.streamStart l f) .range data) ∧
      (Judging .streamLanes l f s → ∃ data, refused (.streamLanes l f) .range data) ∧
      (Judging .streamAbort l f s → ∃ data, refused (.streamAbort l f) .range data) ∧
      (Judging .streamClose l f s → ∃ data, refused (.streamClose l f) .range data)) ∧
    ∀ i : StreamNo, (byteAt f 2).toNat = i.val →
      let x := s.streams[i]
      let bits := (byteAt f 3).toNat
      let w := (byteAt f 4).toNat
      let data (rest : List Byte) : List Byte := [byteAt f 2, x.state.code] ++ rest
      (Judging .streamStart l f s →
        (x.state ≠ .ready → ∃ d, refused (.streamStart l f) .state (data d)) ∧
        (x.state = .ready →
          (bits = 0 ∨ 15 < bits → ∃ d, refused (.streamStart l f) .range (data d)) ∧
          (1 ≤ bits → bits ≤ 15 →
            (w = 0 → ∃ d, refused (.streamStart l f) .range (data d)) ∧
            (1 ≤ w → 32 < reservedTotal s + min w 16 →
              refused (.streamStart l f) .noRoom (data [byteAt f 4, byteOf (32 - reservedTotal s)]))))) ∧
      (Judging .streamLanes l f s →
        (x.state ≠ .active → ∃ d, refused (.streamLanes l f) .state (data d)) ∧
        (x.state = .active → bits = 0 ∨ 15 < bits → ∃ d, refused (.streamLanes l f) .range (data d))) ∧
      (Judging .streamAbort l f s → x.state = .vacant → refused (.streamAbort l f) .state (data [])) ∧
      (Judging .streamClose l f s → x.state ≠ .done → x.state ≠ .faulted → refused (.streamClose l f) .state (data []))

/-- STREAM_ABORT and STREAM_CLOSE: a stream with nothing in flight enters VACANT with status OK; one with work in flight enters ABORTING
with the cause stored and status ACCEPTED; an abort that meets ABORTING changes nothing (R10, R28, R42, R43). -/
def Obligations.AbortAndCloseReleaseTheStream : Prop :=
  ∀ (l : Lane) (f : Frame) (i : StreamNo) (s : State), (byteAt f 2).toNat = i.val →
    let x := s.streams[i]
    let vacated (c : Instr) (cause : Cause) (u : State) : Prop :=
      exec c s = .next (answered l f .ok [byteAt f 2, StreamState.vacant.code] (enterVacant i cause u))
    let aborting (c : Instr) (u : State) : Prop :=
      exec c s = .next (answered l f .accepted [byteAt f 2, StreamState.aborting.code] u)
    let released (c : Instr) (cause : Cause) : Prop :=
      (inFlight (stopStream i s) i = false → vacated c cause (stopStream i s)) ∧
        (inFlight (stopStream i s) i = true → aborting c (enterAborting i cause (stopStream i s)))
    (Judging .streamAbort l f s →
      (x.state = .loading ∨ x.state = .ready → vacated (.streamAbort l f) .aborted s) ∧
      (x.state = .authenticating → aborting (.streamAbort l f) (enterAborting i .aborted s)) ∧
      (x.state = .active ∨ x.state = .committing ∨ x.state = .ending ∨ x.state = .done ∨ x.state = .faulted →
        released (.streamAbort l f) .aborted) ∧
      (x.state = .aborting → aborting (.streamAbort l f) s)) ∧
    (Judging .streamClose l f s → x.state = .done ∨ x.state = .faulted → released (.streamClose l f) .closed)

/-- What a fault, an abort and a close stop: the stall and quiet timers, the acknowledgement timer and the held starts; the release
stage is made absent unless a frame of the stream is in transmission; and every slot of the stream with no work in flight is
freed. Entering FAULTED then stores the cause and queues an urgent STREAM record. In flight is a digest job of a slot of the
stream, its MAC job, a frame of it that occupies a transmit position, and its commit (R39, R40, R41, R42, R85, R105, R124); an END
frame already answered is not (DEDUCED, notes/assumptions/9). -/
def Obligations.StoppedStreamsKeepOnlyWorkInFlight : Prop :=
  (∀ (i : StreamNo) (s : State),
    let sends (f : TxPosition) : Prop := (∃ p : Port, s.ports[p].position = some f) ∧ f.stream = i ∧ f.answered = false
    (frameInFlight s i = true ↔ ∃ f, sends f) ∧
    (∀ b, blockInTransmission s i b = true ↔ ∃ f, sends f ∧ f.block = b) ∧
    (inFlight s i = true ↔ .mac i ∈ s.engine.fifo ∨
      (∃ k h, Job.block k ∈ s.engine.fifo ∧ s.slots[k].holder = some h ∧ h.stream = i) ∨
      (∃ f, sends f) ∨ .commit i ∈ s.store.ops)) ∧
  ∀ (i : StreamNo) (c : Cause) (s : State),
    let u := stopStream i s
    (∃ members, u.streams[i] = { s.streams[i] with
        members := members, stallTimer := none
        stage := if frameInFlight s i = true then s.streams[i].stage else none } ∧
      ∀ m : Lane, members[m] = s.streams[i].members[m].map fun r => { r with timer := none }) ∧
    u.contexts[i] = { s.contexts[i] with ackTimer := none, resendHeld := false, startHeld := false } ∧
    (∀ k : SlotNo,
      let idle := ∃ h, s.slots[k].holder = some h ∧ h.stream = i ∧ Job.block k ∉ s.engine.fifo ∧
        blockInTransmission s h.stream h.block = false
      (idle → u.slots[k] = Slot.free) ∧ (¬ idle → u.slots[k] = s.slots[k])) ∧
    OtherStreamsSame i s u ∧ Touches [.contexts, .streams, .slots] s u ∧
    enterFaulted i c s = queueRecord (.stream i .faulted (some c)) (returnReservation i
      (u.setStream i { u.streams[i] with state := .faulted, cause := some c })) ∧
    enterAborting i c s = returnReservation i (s.setStream i { s.streams[i] with state := .aborting, cause := some c })

/-- A freed slot's record returns to its reset values; its former owner's reservation is returned when it holds no slot and is in neither READY nor
ACTIVE. A stream that enters VACANT returns its extents, whose entries read zero again; its header record, descriptor and
release context return to their reset values, and a STREAM record carries the cause. An ABORTING stream enters VACANT, with its
stored cause, when nothing of it is in flight (R5, R25, R27, R31, R44, R83, R104). -/
def Obligations.FreedSlotsAndVacantStreamsReturnWhatTheyHeld : Prop :=
  ((∀ (k : SlotNo) (h : Holder) (s : State), s.slots[k].holder = some h →
     freeSlot k s = returnReservation h.stream (s.setSlot k
       { state := .free, holder := none, filled := 0, byteCount := 0, failCount := 0, retryCount := 0, busyCount := 0,
         nextFrame := none })) ∧
   ∀ (i : StreamNo) (s : State),
     let due := s.streams[i].reservationHeld = true ∧ s.streams[i].state ≠ .ready ∧ s.streams[i].state ≠ .active ∧
       ∀ (k : SlotNo) (h : Holder), s.slots[k].holder = some h → h.stream ≠ i
     (due → returnReservation i s = s.setStream i { s.streams[i] with reservationHeld := false }) ∧
     (¬ due → returnReservation i s = s)) ∧
  ((∀ (i : StreamNo) (c : Cause) (s : State), MemoriesCanonical s →
     ∃ u, enterVacant i c s = queueRecord (.stream i .vacant (some c)) u ∧
       u.manifests[i] = { extents := [], declaredLength := none, declaredBlocks := none, received := 0,
                          header := Vector.replicate 64 0#8, expectedMac := none } ∧
       u.streams[i] = { state := .vacant, cause := none, manifest := none, floorAtAcceptance := none,
                        members := Vector.replicate 4 none, window := 0, reservationHeld := false, lowEdge := 0,
                        stallCount := 0, stallTimer := none, stage := none } ∧
       u.contexts[i] = { ackTimer := none, resendHeld := false, startHeld := false, endRetry := 0, endBusy := 0 } ∧
       OtherStreamsSame i s u ∧ ExtentsCleared s.manifests[i].extents s u ∧
       Touches [.manifests, .entries, .streams, .contexts] s u) ∧
   ∀ (i : StreamNo) (s : State),
     (∀ c, s.streams[i].state = .aborting → s.streams[i].cause = some c → inFlight s i = false →
       resolveAbort i s = enterVacant i c s) ∧
     (s.streams[i].state ≠ .aborting ∨ inFlight s i = true → resolveAbort i s = s))

/-- The expiry of a stall timer that finds a gap in the window queues a GAP record for the lowest block that has not reached COMPLETE, with its
lowest 16 missing positions and MORE, and then raises the stall count and restarts the timer, or at GAP_LIMIT faults the stream
with STALLED; with no gap only the timer restarts. The expiry of a member's quiet timer makes the member QUIET with its timer
stopped, and queues a MEMBER record (R34, R36, R37). -/
def Obligations.StallAndQuietExpiriesReport : Prop :=
  (∀ (i : StreamNo) (s : State), s.streams[i].state = .active → s.streams[i].stallTimer.isSome = true →
     let x := s.streams[i]
     let inRange (b : Nat) : Prop := x.lowEdge ≤ b ∧ b < x.lowEdge + x.window ∧ b < x.blockCount
     ((∀ b, inRange b → blockReachedComplete s i b = true) → exec (.stallExpiry i) s =
       .next (s.setStream i { x with stallTimer := some (s.params.stallTime * 10) })) ∧
     ∀ (b : Nat) (m : Accepted) (missing : List Nat), inRange b → blockReachedComplete s i b = false →
       (∀ c, x.lowEdge ≤ c → c < b → blockReachedComplete s i c = true) → x.manifest = some m →
       missing = (List.range (m.blockSegments b)).filter (fun p =>
         match slotOf s i b with
         | some k => !s.slots[k].filled.getLsbD p
         | none => true) →
       let u := queueRecord (.gap i b (missing.take 16) (decide (16 < missing.length))) s
       (x.stallCount < s.params.gapLimit → exec (.stallExpiry i) s = .next (u.setStream i { x with
         stallCount := x.stallCount + 1, stallTimer := some (s.params.stallTime * 10) })) ∧
       (s.params.gapLimit ≤ x.stallCount → exec (.stallExpiry i) s = .next (enterFaulted i .stalled u))) ∧
  (∀ (i : StreamNo) (l : Lane) (r : Member) (s : State), s.streams[i].members[l] = some r → r.timer.isSome = true →
     exec (.quietExpiry i l) s = .next (queueRecord (.member i l .quiet) (s.setStream i { s.streams[i] with
       members := s.streams[i].members.set l (some { state := .quiet, timer := none }) })))

/-! ## Keys, counters, parameters, tables, restart -/

/-- KEY_INSTALL in ERASED: the key state becomes PENDING, one key installation joins the tail of the operation queue, and the answer is
ACCEPTED; in any other key state it is refused with STATE and nothing changes; the data is the key state after the request
(R141). -/
def Obligations.KeyInstallIsTakenWhenErased : Prop :=
  ∀ (l : Lane) (f : Frame) (s : State), Judging .keyInstall l f s →
    (s.store.keyState = .erased → exec (.keyInstall l f) s = .next (answered l f .accepted [KeyState.pending.code]
      (runStore (s.withStore { s.store with
        keyState := .pending, ops := s.store.ops ++ [.installKey ((f.drop 2).take 32)] })))) ∧
    (s.store.keyState ≠ .erased →
      exec (.keyInstall l f) s = .next (answered l f .state [s.store.keyState.code] s))

/-- SNAPSHOT copies every live counter into the snapshot set, sets the live counters to 0, raises the snapshot count, saturating, and
answers OK with it (R179). -/
def Obligations.SnapshotCopiesAndZeroes : Prop :=
  ∀ (l : Lane) (f : Frame) (s : State), Judging .snapshot l f s →
    ∃ u count, exec (.snapshot l f) s = .next (answered l f .ok (beBytes 4 count) u) ∧
      count = (if s.snapshot.count < 4294967295 then s.snapshot.count + 1 else s.snapshot.count) ∧
      u.snapshot = { counters := s.counters, count := count } ∧
      (∀ (m : Lane) k, laneCount u m k = 0) ∧ (∀ (i : StreamNo) k, streamCount u i k = 0) ∧
      u.counters.recordsLost = 0 ∧ Touches [.snapshot, .counters] s u

/-- Parameters 6 to 18 are numbers with the ranges of R155. A number out of its range is stored as the nearest value of the range, and the
answer is CLAMPED with the value stored. An identifier, a lane set
and a lane are stored as written when they are in range and do not conflict, with OK. A new REPORT_LANE has its report slot
judged, and a new SUPPLY_LEVEL the supply compared, at the write; that with SUPPLY_FILTER 0 a departure then changes the state in
the same step is the model's choice (DEDUCED, notes/assumptions/14) (R147, R155, R156, R157, R171). -/
def Obligations.ParamWritesAreStored : Prop :=
  (paramKind 6 = some (.number 1 15) ∧ paramKind 7 = some (.number 1 15) ∧ paramKind 8 = some (.number 1 255) ∧
    paramKind 9 = some (.number 1 255) ∧ paramKind 10 = some (.number 1 15) ∧ paramKind 11 = some (.number 1 255) ∧
    paramKind 12 = some (.number 0 255) ∧ paramKind 13 = some (.number 0 255) ∧ paramKind 14 = some (.number 1 15) ∧
    paramKind 15 = some (.number 0 255) ∧ paramKind 16 = some (.number 0 255) ∧ paramKind 17 = some (.number 0 3) ∧
    paramKind 18 = some (.number 0 255)) ∧
  (∀ (l : Lane) (f : Frame) (lowest highest v : Nat) (s : State), Judging .paramWrite l f s →
     paramKind (byteAt f 2).toNat = some (.number lowest highest) →
     v = (if fieldAt f 3 2 < lowest then lowest else if highest < fieldAt f 3 2 then highest else fieldAt f 3 2) →
     exec (.paramWrite l f) s = .next (answered l f (if v = fieldAt f 3 2 then .ok else .clamped)
       (byteAt f 2 :: beBytes 2 v)
       (afterParam (byteAt f 2).toNat (s.withParams (storeParam s.params (byteAt f 2).toNat v))))) ∧
  ((∀ (l : Lane) (f : Frame) (s : State), Judging .paramWrite l f s →
     let v := fieldAt f 3 2
     let stored (p : Params) : Prop := exec (.paramWrite l f) s =
       .next (answered l f .ok (byteAt f 2 :: beBytes 2 v) (s.withParams p))
     (byteAt f 2 = 0#8 → v ≤ 0x7FF → v ≠ s.params.ctlId.toNat → v ≠ s.params.rspId.toNat →
       stored { s.params with segId := BitVec.ofNat 11 v }) ∧
     (byteAt f 2 = 1#8 → v ≤ 0x7FF → v ≠ s.params.segId.toNat → v ≠ s.params.rspId.toNat →
       stored { s.params with ctlId := BitVec.ofNat 11 v }) ∧
     (byteAt f 2 = 2#8 → v ≤ 0x7FF → v ≠ s.params.segId.toNat → v ≠ s.params.ctlId.toNat →
       stored { s.params with rspId := BitVec.ofNat 11 v }) ∧
     (byteAt f 2 = 3#8 → v ≤ 15 → v.testBit s.params.reportLane.val = true →
       stored { s.params with laneEnable := BitVec.ofNat 4 v }) ∧
     (byteAt f 2 = 4#8 → 1 ≤ v → v ≤ 15 → stored { s.params with controlLanes := BitVec.ofNat 4 v }) ∧
     ∀ lane : Lane, byteAt f 2 = 5#8 → v = lane.val → s.params.laneEnable.getLsbD lane = true →
       exec (.paramWrite l f) s = .next (answered l f .ok (byteAt f 2 :: beBytes 2 v)
         (emit (s.withParams { s.params with reportLane := lane })))) ∧
   ∀ (p : Params) (v : Nat),
     storeParam p 6 v = { p with faultThreshold := v } ∧ storeParam p 7 v = { p with guardCount := v } ∧
     storeParam p 8 v = { p with quarantine := v } ∧ storeParam p 9 v = { p with stallTime := v } ∧
     storeParam p 10 v = { p with gapLimit := v } ∧ storeParam p 11 v = { p with quietTime := v } ∧
     storeParam p 12 v = { p with ackShort := v } ∧ storeParam p 13 v = { p with ackLong := v } ∧
     storeParam p 14 v = { p with busyLimit := v } ∧ storeParam p 15 v = { p with packetTimer := v } ∧
     storeParam p 16 v = { p with absoluteTimer := v } ∧ storeParam p 17 v = { p with supplyLevel := v } ∧
     storeParam p 18 v = { p with supplyFilter := v } ∧
     ∀ (n : Nat) (s : State), 6 ≤ n → afterParam n s = if n = 17 then compareSupply s else s)

/-- A PARAM_WRITE is refused, changing no parameter, with RANGE for a number above 18 or a value outside its kind's range, and with
CONFLICT when two identifiers would be equal or the REPORT_LANE would not be enabled (R156, R158). -/
def Obligations.ParamWritesAreRefused : Prop :=
  ∀ (l : Lane) (f : Frame) (s : State), Judging .paramWrite l f s →
    let n := (byteAt f 2).toNat
    let v := fieldAt f 3 2
    let p := s.params
    let refused (st : Status) : Prop := exec (.paramWrite l f) s =
      .next (answered l f st (byteAt f 2 :: beBytes 2 (paramValue p n)) s)
    (18 < n → ∃ data, exec (.paramWrite l f) s = .next (answered l f .range data s)) ∧
    (n ≤ 2 → 0x7FF < v → refused .range) ∧
    (n = 3 ∨ n = 4 → 15 < v → refused .range) ∧
    (n = 4 → v = 0 → refused .range) ∧
    (n = 5 → 3 < v → refused .range) ∧
    (n = 0 → v = p.ctlId.toNat ∨ v = p.rspId.toNat → refused .conflict) ∧
    (n = 1 → v = p.segId.toNat ∨ v = p.rspId.toNat → refused .conflict) ∧
    (n = 2 → v = p.segId.toNat ∨ v = p.ctlId.toNat → refused .conflict) ∧
    (n = 3 → v ≤ 15 → v.testBit p.reportLane.val = false → refused .conflict) ∧
    (n = 5 → ∀ lane : Lane, v = lane.val → p.laneEnable.getLsbD lane = false → refused .conflict)

/-- PARAM_READ answers a number from 0 to 18 with OK and the parameter's present value, and refuses a number above 18 with RANGE, the
number and the value 0; a read changes nothing (R160). -/
def Obligations.ParamReadsGiveTheValue : Prop :=
  ∀ (l : Lane) (f : Frame) (s : State), Judging .paramRead l f s →
    let p := s.params
    let n := (byteAt f 2).toNat
    let reads (v : Nat) : Prop := exec (.paramRead l f) s = .next (answered l f .ok (byteAt f 2 :: beBytes 2 v) s)
    (n = 0 → reads p.segId.toNat) ∧ (n = 1 → reads p.ctlId.toNat) ∧ (n = 2 → reads p.rspId.toNat) ∧
    (n = 3 → reads p.laneEnable.toNat) ∧ (n = 4 → reads p.controlLanes.toNat) ∧ (n = 5 → reads p.reportLane.val) ∧
    (n = 6 → reads p.faultThreshold) ∧ (n = 7 → reads p.guardCount) ∧ (n = 8 → reads p.quarantine) ∧
    (n = 9 → reads p.stallTime) ∧ (n = 10 → reads p.gapLimit) ∧ (n = 11 → reads p.quietTime) ∧
    (n = 12 → reads p.ackShort) ∧ (n = 13 → reads p.ackLong) ∧ (n = 14 → reads p.busyLimit) ∧
    (n = 15 → reads p.packetTimer) ∧ (n = 16 → reads p.absoluteTimer) ∧ (n = 17 → reads p.supplyLevel) ∧
    (n = 18 → reads p.supplyFilter) ∧
    (18 < n → exec (.paramRead l f) s = .next (answered l f .range [byteAt f 2, 0#8, 0#8] s))

/-- TABLE_SELECT takes a table number from 0 to 6, sets the cursor to 0 and gives the table's size; CURSOR_SET takes an index below the
selected table's size; anything else is refused with RANGE and changes nothing (R161). -/
def Obligations.TablesAndCursorsAreSelected : Prop :=
  (∀ (l : Lane) (f : Frame) (s : State), Judging .tableSelect l f s →
    (∀ t : Fin 7, (byteAt f 2).toNat = t.val → exec (.tableSelect l f) s =
      .next (answered l f .ok (byteAt f 2 :: beBytes 2 ([8, 4, 32, 2048, 32, 16, 13].getD t.val 0))
        (s.withInterp { s.interp with table := t, cursor := 0 }))) ∧
    (6 < (byteAt f 2).toNat → ∃ data, exec (.tableSelect l f) s = .next (answered l f .range data s))) ∧
  ∀ (l : Lane) (f : Frame) (s : State), Judging .cursorSet l f s →
    let size := [8, 4, 32, 2048, 32, 16, 13].getD s.interp.table.val 0
    (fieldAt f 2 2 < size → exec (.cursorSet l f) s =
      .next (answered l f .ok (byteOf s.interp.table :: beBytes 2 (fieldAt f 2 2))
        (s.withInterp { s.interp with cursor := fieldAt f 2 2 }))) ∧
    (size ≤ fieldAt f 2 2 → exec (.cursorSet l f) s =
      .next (answered l f .range (byteOf s.interp.table :: beBytes 2 s.interp.cursor) s))

/-- TABLE_READ by its five modes: the row each reads, the cursor afterwards, and what each refuses with RANGE, the cursor unchanged; a mode
byte that names no mode is refused with RANGE by whichever of the five rows judges it (R162; notes/assumptions/11). -/
def Obligations.TableReadsFollowTheirMode : Prop :=
  ∀ (l : Lane) (f : Frame) (s : State), Judging .tableRead l f s →
    let c := s.interp.cursor
    let size := tableSize s.interp.table
    let taken (i : Instr) (row cursor : Nat) : Prop := exec i s =
      .next (answered l f .ok (byteOf s.interp.table :: beBytes 2 row ++ tableRow s s.interp.table row)
        (s.withInterp { s.interp with cursor := cursor }))
    let refused (i : Instr) : Prop := exec i s =
      .next (answered l f .range (byteOf s.interp.table :: beBytes 2 c) s)
    (byteAt f 2 = 0#8 → (fieldAt f 3 2 < size → taken (.direct l f) (fieldAt f 3 2) c) ∧
      (size ≤ fieldAt f 3 2 → refused (.direct l f))) ∧
    (byteAt f 2 = 1#8 → (c ≠ size → taken (.atCursor l f) c c) ∧ (c = size → refused (.atCursor l f))) ∧
    (byteAt f 2 = 2#8 → (c ≠ size → taken (.postInc l f) c (c + 1)) ∧ (c = size → refused (.postInc l f))) ∧
    (byteAt f 2 = 3#8 → (c + 1 < size → taken (.preInc l f) (c + 1) (c + 1)) ∧
      (size ≤ c + 1 → refused (.preInc l f))) ∧
    (byteAt f 2 = 4#8 →
      (∀ row : Nat, (row : Int) = c + (byteAt f 3).toInt → row < size → taken (.offset l f) row c) ∧
      ((c : Int) + (byteAt f 3).toInt < 0 ∨ (size : Int) ≤ c + (byteAt f 3).toInt → refused (.offset l f))) ∧
    (4 < (byteAt f 2).toNat → ∀ i ∈ [Instr.direct l f, .atCursor l f, .postInc l f, .preInc l f, .offset l f],
      refused i)

/-- RESTART is always taken: restart pending becomes yes and the OK response, with no data, is placed. No request is taken from then on,
because the search is made only while restart pending is no (R164). -/
def Obligations.RestartIsAlwaysTaken : Prop :=
  ∀ (l : Lane) (f : Frame) (s : State), Judging .restart l f s →
    exec (.restart l f) s =
      .next (answered l f .ok [] (s.withInterp { s.interp with restartPending := true })) ∧
    (answered l f .ok [] (s.withInterp { s.interp with restartPending := true })).interp =
      { s.interp with restartPending := true, judging := none }

/-- A request frame without a code or a tag, or below its request's minimum length, is answered MALFORMED, and a code that names no request
UNKNOWN, with no data and no other change (R152). That a TABLE_READ frame too short for a mode byte is judged so by any of the five rows
is the model's choice (DEDUCED, notes/assumptions/11). -/
def Obligations.MalformedAndUnknownFramesAreAnswered : Prop :=
  ∀ (l : Lane) (f : Frame) (s : State), s.interp.judging = some ⟨l, f⟩ →
    let malformed (c : Instr) : Prop := exec c s = .next (answered l f .malformed [] s)
    (f.length < 2 → malformed (.noCodeFrame l f)) ∧
    (2 ≤ f.length → byteAt f 0 ∉ ([0x01#8, 0x02#8, 0x03#8, 0x10#8, 0x11#8, 0x12#8, 0x13#8, 0x20#8, 0x30#8, 0x31#8, 0x50#8,
        0x51#8, 0x52#8, 0x53#8, 0x54#8, 0x5F#8] : List Byte) →
      exec (.unknownCode l f) s = .next (answered l f .unknown [] s)) ∧
    (2 ≤ f.length →
      (byteAt f 0 = 0x01#8 → f.length < 6 → malformed (.manifestBegin l f)) ∧
      (byteAt f 0 = 0x02#8 → f.length < 6 → malformed (.manifestData l f)) ∧
      (byteAt f 0 = 0x02#8 → 6 ≤ f.length → (byteAt f 5).toNat ≤ 58 → f.length < 6 + (byteAt f 5).toNat →
        malformed (.manifestData l f)) ∧
      (byteAt f 0 = 0x03#8 → f.length < 35 → malformed (.manifestEnd l f)) ∧
      (byteAt f 0 = 0x10#8 → f.length < 5 → malformed (.streamStart l f)) ∧
      (byteAt f 0 = 0x11#8 → f.length < 4 → malformed (.streamLanes l f)) ∧
      (byteAt f 0 = 0x12#8 → f.length < 3 → malformed (.streamAbort l f)) ∧
      (byteAt f 0 = 0x13#8 → f.length < 3 → malformed (.streamClose l f)) ∧
      (byteAt f 0 = 0x20#8 → f.length < 34 → malformed (.keyInstall l f)) ∧
      (byteAt f 0 = 0x50#8 → f.length < 5 → malformed (.paramWrite l f)) ∧
      (byteAt f 0 = 0x51#8 → f.length < 3 → malformed (.paramRead l f)) ∧
      (byteAt f 0 = 0x52#8 → f.length < 3 → malformed (.tableSelect l f)) ∧
      (byteAt f 0 = 0x53#8 → f.length < 4 → malformed (.cursorSet l f)) ∧
      (byteAt f 0 = 0x54#8 → f.length < 3 → ∀ c ∈ [Instr.direct l f, .atCursor l f, .postInc l f, .preInc l f, .offset l f],
        malformed c) ∧
      (byteAt f 0 = 0x54#8 → byteAt f 2 = 0#8 → 3 ≤ f.length → f.length < 5 → malformed (.direct l f)) ∧
      (byteAt f 0 = 0x54#8 → byteAt f 2 = 4#8 → f.length = 3 → malformed (.offset l f)))

/-! ## The digest engine and acceptance -/

/-- The idle engine judges the head of the FIFO: a job of an ABORTING stream is discarded, which frees its slot and may let the stream
resolve, and the next head is judged; any other job starts, a block job's slot going to HASHING. A job joins the FIFO at its
tail (R90, R91). -/
def Obligations.TheIdleEngineJudgesTheHead : Prop :=
  (∀ (j : Job) (s : State), appendJob j s = judgeHead (s.withEngine { s.engine with fifo := s.engine.fifo ++ [j] })) ∧
  ∀ s : State,
    (s.engine.busy = true ∨ s.engine.fifo = [] → judgeHead s = s) ∧
    ∀ rest : List Job, s.engine.busy = false →
      let started := s.withEngine { s.engine with busy := true }
      let left := s.withEngine { s.engine with fifo := rest }
      (∀ k h, s.engine.fifo = .block k :: rest → s.slots[k].holder = some h →
        (s.streams[h.stream].state ≠ .aborting →
          judgeHead s = started.setSlot k { s.slots[k] with state := .hashing }) ∧
        (s.streams[h.stream].state = .aborting →
          judgeHead s = judgeHead (resolveAbort h.stream (freeSlot k left)))) ∧
      ∀ i, s.engine.fifo = .mac i :: rest →
        (s.streams[i].state ≠ .aborting → judgeHead s = started) ∧
        (s.streams[i].state = .aborting → judgeHead s = judgeHead (resolveAbort i left))

/-- A block's bytes are the first bytes of its slot's region, and its manifest digest is the first 32 bytes of its entry, found through
the stream's extent list. The running block job completes for an ACTIVE stream: when the block's bytes hash to its manifest digest the slot is VERIFIED and the
release conditions are judged (R22, R92, R95, R96). For a FAULTED or ABORTING stream the outcome is discarded and the slot freed. Where a
slot's region lies is the model's choice (DESIGN CHOICE, notes/assumptions/6). -/
def Obligations.BlockJobsVerifyTheirBlock : Prop :=
  (∀ (k : SlotNo) (n : Nat) (s : State), slotBytes s k n = (List.range n).map fun a => s.staging.read 0 (k.val * 3584 + a)) ∧
  (∀ (i : StreamNo) (b e : Nat) (s : State), s.manifests[i].extents[b / 64]? = some e →
    digestOf s i b = (List.range 32).map fun a => entryByte s (64 * e + b % 64) a) ∧
  ∀ (k : SlotNo) (h : Holder) (m : Accepted) (rest : List Job) (s : State), s.engine.busy = true →
    s.engine.fifo = .block k :: rest → s.slots[k].holder = some h →
    let u := s.withEngine { fifo := rest, busy := false }
    (s.streams[h.stream].state = .active → s.streams[h.stream].manifest = some m →
      sha256 (slotBytes s k (m.blockBytes h.block)) = digestOf s h.stream h.block →
      exec .blockJobDone s =
        .next (judgeHead (tryRelease h.stream (u.setSlot k { s.slots[k] with state := .verified })))) ∧
    (s.streams[h.stream].state = .faulted ∨ s.streams[h.stream].state = .aborting →
      exec .blockJobDone s = .next (judgeHead (resolveAbort h.stream (freeSlot k u))))

/-- A digest mismatch of an ACTIVE stream raises its digest failures counter. Within the block retry limit the slot is cleared for a
refetch with the new fail count and a REFETCH record, and quiet timers that did not run start for every ACTIVE member;
beyond the limit the stream faults with DIGEST (R33, R81, R97, R98, R99, R103). -/
def Obligations.DigestMismatchesClearOrFault : Prop :=
  ∀ (k : SlotNo) (h : Holder) (m : Accepted) (rest : List Job) (s : State), s.engine.busy = true →
    s.engine.fifo = .block k :: rest → s.slots[k].holder = some h →
    s.streams[h.stream].state = .active → s.streams[h.stream].manifest = some m →
    sha256 (slotBytes s k (m.blockBytes h.block)) ≠ digestOf s h.stream h.block →
    let n := s.slots[k].failCount + 1
    let u := countStream h.stream .digestFailures (s.withEngine { fifo := rest, busy := false })
    (m.blockRetryLimit < n → exec .blockJobDone s = .next (judgeHead (enterFaulted h.stream .digest u))) ∧
    (n ≤ m.blockRetryLimit → ∃ members,
      exec .blockJobDone s = .next (judgeHead (queueRecord (.refetch h.stream h.block n)
        ((u.setSlot k { s.slots[k] with state := .filling, filled := 0, byteCount := 0, failCount := n }).setStream
          h.stream { s.streams[h.stream] with members := members }))) ∧
      (QuietTimersRun s h.stream → members = s.streams[h.stream].members) ∧
      (¬ QuietTimersRun s h.stream → ∀ l : Lane, members[l] = s.streams[h.stream].members[l].map fun r =>
        if r.state = .active then { r with timer := some (s.params.quietTime * 10) } else r))

/-- The running MAC job completes. AUTHENTICATING: a mismatch takes the stream to VACANT with AUTH_FAIL; a match runs the acceptance checks,
whose first failure takes it to VACANT with that check's cause, and with none the manifest is accepted and the stream READY.
ABORTING: the outcome is discarded and the stream may resolve. The fields are read from the header bytes by section 11.4, and a
consistent header's quantities are those of R20, in their ranges. The MAC is computed over the 64 header bytes and then the 34 bytes of
each entry from 0 to N′ − 1, with the key of the key area's first 32 bytes, which lie where the model puts them (DESIGN CHOICE,
notes/assumptions/6) (R1, R12, R13, R14, R19, R20, R21, R93, R100, R140). -/
def Obligations.MacJobsAuthenticate : Prop :=
  (∀ (bs : List Byte) (n : Nat), bs.length = 64 →
    let h := readHeader bs
    (h.format = (byteAt bs 0).toNat ∧ h.target = fieldAt bs 1 2 ∧ h.port = (byteAt bs 3).toNat ∧ h.releaseId = fieldAt bs 4 2 ∧
      h.ackId = fieldAt bs 6 2 ∧ h.version = fieldAt bs 8 4 ∧ h.newFloor = fieldAt bs 12 4 ∧ h.imageLength = fieldAt bs 16 4 ∧
      h.segmentUnit = (byteAt bs 20).toNat ∧ h.perBlock = (byteAt bs 21).toNat ∧ h.blockCount = fieldAt bs 22 2 ∧
      h.releaseRetryLimit = (byteAt bs 24).toNat ∧ h.blockRetryLimit = (byteAt bs 25).toNat ∧ h.flags = byteAt bs 26 ∧
      h.imageTag = (bs.drop 27).take 16 ∧ h.reserved = bs.drop 43) ∧
    (1 ≤ n → n ≤ 2048 → HeaderConsistent h n →
      let m := h.accepted
      m.format.toNat = h.format ∧ m.target.toNat = h.target ∧ m.port.val = h.port ∧ m.releaseId.toNat = h.releaseId ∧ m.ackId.toNat = h.ackId ∧
        m.version.toNat = h.version ∧ m.newFloor.toNat = h.newFloor ∧ m.imageLength = h.imageLength ∧
        m.segmentUnit = h.segmentUnit ∧ m.perBlock = h.perBlock ∧ m.blockCount = h.blockCount ∧
        m.releaseRetryLimit = h.releaseRetryLimit ∧ m.blockRetryLimit = h.blockRetryLimit ∧
        m.newTarget = h.flags.getLsbD 0 ∧ m.imageTag = h.imageTag ∧ m.reserved = h.reserved ∧
        (m.blockCount = n ∧ 1 ≤ m.segmentCount ∧ m.segmentCount ≤ 65536 ∧ m.blockCount = (m.segmentCount + m.perBlock - 1) / m.perBlock ∧
          m.segmentCount = (m.imageLength + m.segmentUnit - 1) / m.segmentUnit) ∧
        (m.blockLength = m.perBlock * m.segmentUnit ∧ 8 ≤ m.blockLength ∧ m.blockLength ≤ 3584) ∧
        ((m.segmentCount - 1) * m.segmentUnit + m.lastSegmentLength = m.imageLength ∧
          1 ≤ m.lastSegmentLength ∧ m.lastSegmentLength ≤ m.segmentUnit) ∧
        ((m.blockCount - 1) * m.perBlock + m.lastBlockSegments = m.segmentCount ∧
          1 ≤ m.lastBlockSegments ∧ m.lastBlockSegments ≤ m.perBlock) ∧
        ((m.blockCount - 1) * m.blockLength + m.lastBlockBytes = m.imageLength ∧
          1 ≤ m.lastBlockBytes ∧ m.lastBlockBytes ≤ m.blockLength))) ∧
  (∀ (m : Accepted) (b k : Nat),
    (b + 1 < m.blockCount → m.blockBytes b = m.blockLength ∧ m.blockSegments b = m.perBlock) ∧
    (b + 1 = m.blockCount → m.blockBytes b = m.lastBlockBytes ∧ m.blockSegments b = m.lastBlockSegments) ∧
    (k + 1 < m.segmentCount → m.segmentLength k = m.segmentUnit) ∧
    (k + 1 = m.segmentCount → m.segmentLength k = m.lastSegmentLength)) ∧
  (∀ m : Memory, deviceKey m = (List.range 32).map fun b => m.read erasedByte (2048 + b)) ∧
  (∀ (i : StreamNo) (n : Nat) (s : State), s.manifests[i].declaredBlocks = some n →
    let bytes := manifestBytes s i
    bytes.length = 64 + 34 * n ∧ (∀ b : Fin 64, byteAt bytes b = s.manifests[i].header[b]) ∧
    ∀ j b e, j < n → b < 34 → s.manifests[i].extents[j / 64]? = some e →
      byteAt bytes (64 + 34 * j + b) = entryByte s (64 * e + j % 64) b) ∧
  ∀ (i : StreamNo) (rest : List Job) (s : State), s.engine.busy = true → s.engine.fifo = .mac i :: rest →
    let u := s.withEngine { fifo := rest, busy := false }
    let h := readHeader s.manifests[i].header.toList
    let matching := s.manifests[i].expectedMac = some (hmacSha256 (deviceKey s.nvm) (manifestBytes s i))
    (s.streams[i].state = .authenticating →
      (¬ matching → exec .macJobDone s = .next (judgeHead (enterVacant i .authFail u))) ∧
      (matching →
        (∀ c, acceptanceFailure s i h = some c → exec .macJobDone s = .next (judgeHead (enterVacant i c u))) ∧
        (acceptanceFailure s i h = none → exec .macJobDone s = .next (judgeHead (queueRecord (.stream i .ready none)
          (u.setStream i { s.streams[i] with
            state := .ready, manifest := some h.accepted
            floorAtAcceptance := some (floorOf s.store.governing h.accepted.target) })))))) ∧
    (s.streams[i].state = .aborting → exec .macJobDone s = .next (judgeHead (resolveAbort i u)))

/-- The acceptance checks run in their order and the first that fails gives the cause: the manifest's own fields, identifiers on the branch
port, another stream for the target, a target that is known or may be new, room for a new target, and the target's floor
(R14 to R19). -/
def Obligations.AcceptanceChecksRunInOrder : Prop :=
  ∀ (i : StreamNo) (n : Nat) (ts : List Word16) (s : State), s.manifests[i].declaredBlocks = some n → NewTargets s i ts →
    let h := readHeader s.manifests[i].header.toList
    let m := h.accepted
    let clash := ∃ a, ComparedWith s i a ∧ Clash a m
    let busy := ∃ a, ComparedWith s i a ∧ a.target = m.target
    let known := ∃ g ∈ s.store.governing, g.record.target = m.target
    (¬ ManifestConsistent s i h n → acceptanceFailure s i h = some .inconsistent) ∧
    (ManifestConsistent s i h n →
      (clash → acceptanceFailure s i h = some .identConflict) ∧
      (¬ clash → busy → acceptanceFailure s i h = some .targetBusy) ∧
      (¬ clash → ¬ busy →
        (¬ known → m.newTarget = false → acceptanceFailure s i h = some .unknownTarget) ∧
        (¬ known → m.newTarget = true → 16 ≤ s.store.governing.length + ts.length →
          acceptanceFailure s i h = some .noTargetRoom) ∧
        (known ∨ (m.newTarget = true ∧ s.store.governing.length + ts.length < 16) →
          (m.version.toNat < (floorOf s.store.governing m.target).toNat →
            acceptanceFailure s i h = some .belowFloor) ∧
          ((floorOf s.store.governing m.target).toNat ≤ m.version.toNat → acceptanceFailure s i h = none))))

/-! ## Release -/

/-- A release of the low-edge block starts when the stream is ACTIVE with no stage, the block is VERIFIED and the supply is OK: the slot goes to
SENDING from frame 0, and the branch port's arbiter is judged. An empty branch port serves the first stream after the pointer
that has a frame ready. A block's frame carries its 60 bytes, or the rest with LAST, under the release identifier; the last one
takes slot and stage to AWAITING; an END frame carries the image tag, version and block count (R106 to R110, R122). Where a
slot's region lies is the model's choice (DESIGN CHOICE, notes/assumptions/6). -/
def Obligations.ReleasesStartAndFramesAreHandedOver : Prop :=
  (∀ (p : Port) (s : State),
     (s.ports[p].position.isSome = true ∨ (∀ i, ¬ FrameReady s p i) → servePort p s = s) ∧
     ∀ (d i : StreamNo) (m : Accepted) (b : Nat), s.ports[p].position = none → i = s.ports[p].pointer + 1 + d →
       FrameReady s p i → (∀ e, e < d → ¬ FrameReady s p (s.ports[p].pointer + 1 + e)) →
       s.streams[i].manifest = some m → s.streams[i].stage = some ⟨.sending, b⟩ →
       let sent (block number : Nat) (last : Bool) (data : Frame) : BranchPort :=
         { position := some { stream := i, block := block, number := number, isLast := last, ident := m.releaseId,
                              data := padFrame data, answered := false }
           pointer := i }
       let awaiting (block : Nat) : Stream := { s.streams[i] with stage := some ⟨.awaiting, block⟩ }
       (s.streams[i].state = .ending → servePort p s = (s.setPort p (sent m.blockCount 0 true
         (beBytes 2 m.blockCount ++ [0x03#8, 0x00#8] ++ m.imageTag ++ beBytes 4 m.version.toNat ++
           beBytes 2 m.blockCount))).setStream i (awaiting m.blockCount)) ∧
       (s.streams[i].state = .active → ∀ (k : SlotNo) (j : Nat), slotOf s i b = some k → s.slots[k].nextFrame = some j →
         let len := m.blockBytes b
         let bytes := (List.range (min 60 (len - 60 * j))).map fun x => s.staging.read 0 (k.val * 3584 + 60 * j + x)
         (j + 1 ≠ (len + 59) / 60 → servePort p s =
           (s.setPort p (sent b j false (beBytes 2 b ++ [0x00#8, byteOf j] ++ bytes))).setSlot k
             { s.slots[k] with nextFrame := some (j + 1) }) ∧
         (j + 1 = (len + 59) / 60 → servePort p s =
           ((s.setPort p (sent b j true (beBytes 2 b ++ [0x01#8, byteOf j] ++ bytes))).setSlot k
             { s.slots[k] with state := .awaiting, nextFrame := none }).setStream i (awaiting b)))) ∧
  (∀ (i : StreamNo) (m : Accepted) (s : State), s.streams[i].manifest = some m →
     (∀ k, ReleaseDue s i k → tryRelease i s =
       servePort m.port ((s.setSlot k { s.slots[k] with state := .sending, nextFrame := some 0 }).setStream i
         { s.streams[i] with stage := some ⟨.sending, s.streams[i].lowEdge⟩ })) ∧
     ((∀ k, ¬ ReleaseDue s i k) → tryRelease i s = servePort m.port s))

/-- LONG is bit 0 of an entry's flags byte. The end of a branch transmission, sent or abandoned alike, empties the position, and the arbiter
is judged again. The last frame of the awaited item starts the acknowledgement timer, LONG for the END frame, for an entry with
LONG, and when a BUSY had started it; a stopped stream's slot is freed, its stage made absent, and it may resolve (R22, R111, R117). A frame answered before its end is
no longer its stream's work (notes/assumptions/9). -/
def Obligations.BranchTransmissionEndsAreJudged : Prop :=
  (∀ (i : StreamNo) (b e : Nat) (s : State), s.manifests[i].extents[b / 64]? = some e →
    longOf s i b = (entryByte s (64 * e + b % 64) 32).getLsbD 0) ∧
  ∀ (p : Port) (o : TxOutcome) (f : TxPosition) (s : State), s.ports[p].position = some f →
    let i := f.stream
    let x := s.streams[i]
    let c := s.contexts[i]
    let u := s.setPort p { s.ports[p] with position := none }
    let stopped := x.state = .faulted ∨ x.state = .aborting
    let awaited := f.isLast = true ∧ (x.state = .active ∨ x.state = .ending) ∧ x.stage = some ⟨.awaiting, f.block⟩ ∧
      c.resendHeld = false ∧ c.startHeld = false
    (f.answered = true → exec (.branchTxEnd p o) s = .next (servePort p u)) ∧
    (f.answered = false →
      (stopped → ∀ v,
        ((∃ k, slotOf s i f.block = some k ∧ (s.slots[k].state = .sending ∨ s.slots[k].state = .awaiting) ∧
            v = freeSlot k u) ∨
          ((∀ k, slotOf s i f.block = some k → s.slots[k].state ≠ .sending ∧ s.slots[k].state ≠ .awaiting) ∧ v = u)) →
        exec (.branchTxEnd p o) s =
          .next (servePort p (resolveAbort i (v.setStream i { v.streams[i] with stage := none })))) ∧
      (awaited →
        let long := c.ackTimer.isSome = true ∨ x.state = .ending ∨ longOf s i f.block = true
        (long → exec (.branchTxEnd p o) s = .next (servePort p (u.setCtx i { c with
          ackTimer := some { kind := .long, ms := (s.params.ackLong + 1) * 16 } }))) ∧
        (¬ long → exec (.branchTxEnd p o) s = .next (servePort p (u.setCtx i { c with
          ackTimer := some { kind := .short, ms := s.params.ackShort + 1 } })))) ∧
      (¬ stopped → ¬ awaited → exec (.branchTxEnd p o) s = .next (servePort p u)))

/-- A WRITTEN for the outstanding block stops the timer and a held resend, frees the block's slot, raises the low edge by 1, makes the stage
absent and queues a WINDOW record; then the next block's release is judged, or, all N blocks being written, the stream enters
COMMITTING: its timers stop, its reservation is returned and its commit joins the operation queue (R38, R84, R114). -/
def Obligations.WrittenFreesTheBlock : Prop :=
  ∀ (p : Port) (ident : Ident) (b : Word16) (i : StreamNo) (k : SlotNo) (m : Accepted) (s : State),
    AcknowledgesFor s p ident i m → Outstanding s i b.toNat k m →
    let low := s.streams[i].lowEdge + 1
    let u := ((s.setCtx i { s.contexts[i] with ackTimer := none, resendHeld := false }).setSlot k Slot.free).setStream i
      { s.streams[i] with lowEdge := low, stage := none }
    let v := queueWindow i low s.streams[i].window u
    (low ≠ m.blockCount → exec (.written p ident b) s = .next (tryRelease i v)) ∧
    (low = m.blockCount → ∃ members,
      exec (.written p ident b) s = .next (runStore (
        let w := returnReservation i (v.setStream i { s.streams[i] with
          lowEdge := low, state := .committing, stage := none, stallTimer := none, members := members })
        w.withStore { w.store with ops := w.store.ops ++ [.commit i] })) ∧
      ∀ l : Lane, members[l] = s.streams[i].members[l].map fun r => { r with timer := none })

/-- A BUSY for the outstanding block or the awaited END frame raises the BUSY counter. While a start is held that is all; below BUSY_LIMIT the
item's busy count rises and the timer restarts with the LONG interval; at the limit it is a timeout (R115, R123). -/
def Obligations.BusyStretchesTheWait : Prop :=
  ∀ (p : Port) (ident : Ident) (b : Word16) (i : StreamNo) (m : Accepted) (s : State), AcknowledgesFor s p ident i m →
    let u := countStream i .busy s
    let c := s.contexts[i]
    let long : AckTimer := { kind := .long, ms := (s.params.ackLong + 1) * 16 }
    (∀ k, Outstanding s i b.toNat k m →
      (c.resendHeld = true → exec (.busy p ident b) s = .next u) ∧
      (c.resendHeld = false → s.slots[k].busyCount < s.params.busyLimit → exec (.busy p ident b) s =
        .next ((u.setSlot k { s.slots[k] with busyCount := s.slots[k].busyCount + 1 }).setCtx i
          { c with ackTimer := some long })) ∧
      (c.resendHeld = false → s.params.busyLimit ≤ s.slots[k].busyCount → exec (.busy p ident b) s =
        .next (blockTimeout i b.toNat k m.releaseRetryLimit u))) ∧
    (EndAwaited s i m → b.toNat = m.blockCount →
      (c.startHeld = true → exec (.busy p ident b) s = .next u) ∧
      (c.startHeld = false → c.endBusy < s.params.busyLimit → exec (.busy p ident b) s =
        .next (u.setCtx i { c with endBusy := c.endBusy + 1, ackTimer := some long })) ∧
      (c.startHeld = false → s.params.busyLimit ≤ c.endBusy → exec (.busy p ident b) s =
        .next (endTimeout i m.releaseRetryLimit u)))

/-- A timeout of the outstanding block or of the END frame consumes a retry: the retry count and the release retries counter rise, the busy
count returns to 0 and the timer stops; the resend starts at once and is served by the port's arbiter, or is held while the supply is
LOW. At the release retry limit the stream faults with TARGET_SILENT. The timer's expiry is such a timeout (R118, R119, R123). A WRITTEN,
BUSY or REJECTED that is taken after the timeout it came together with finds the block in SENDING and is UNTIMELY, and the arbiter then
serves the resend; or finds it AWAITING with the resend held, and is judged so; or finds the stream FAULTED and is UNTIMELY (R120).
That it came together with the timeout when it is the next command in the queue, and that the arbiter's search then follows it, is the
model's reading (DEDUCED, notes/assumptions/24). -/
def Obligations.TimeoutsResendOrFault : Prop :=
  (∀ (i : StreamNo) (b limit : Nat) (k : SlotNo) (m : Accepted) (s : State), Outstanding s i b k m →
    let c := s.contexts[i]
    let x := s.slots[k]
    let u := countStream i .releaseRetries s
    (limit ≤ x.retryCount → blockTimeout i b k limit s = enterFaulted i .targetSilent s) ∧
    (x.retryCount < limit →
      (s.supply.state = .ok →
        let v := ((u.setSlot k { x with
            retryCount := x.retryCount + 1, busyCount := 0, state := .sending, nextFrame := some 0 }).setCtx i
          { c with ackTimer := none }).setStream i { s.streams[i] with stage := some ⟨.sending, b⟩ }
        (¬ AnswerNext s m.port m.ackId b → blockTimeout i b k limit s = servePort m.port v) ∧
        (AcknowledgesFor s m.port m.ackId i m → AnswerNext s m.port m.ackId b → blockTimeout i b k limit s = v)) ∧
      (s.supply.state = .low → blockTimeout i b k limit s =
        (u.setSlot k { x with retryCount := x.retryCount + 1, busyCount := 0 }).setCtx i
          { c with ackTimer := none, resendHeld := true }))) ∧
  (∀ (i : StreamNo) (limit : Nat) (m : Accepted) (s : State), EndAwaited s i m →
    let c := s.contexts[i]
    let u := countStream i .releaseRetries s
    (limit ≤ c.endRetry → endTimeout i limit s = enterFaulted i .targetSilent s) ∧
    (c.endRetry < limit →
      (s.supply.state = .ok → endTimeout i limit s = servePort m.port
        ((u.setCtx i { c with endRetry := c.endRetry + 1, endBusy := 0, ackTimer := none }).setStream i
          { s.streams[i] with stage := some ⟨.sending, m.blockCount⟩ })) ∧
      (s.supply.state = .low → endTimeout i limit s =
        u.setCtx i { c with endRetry := c.endRetry + 1, endBusy := 0, ackTimer := none, startHeld := true }))) ∧
  (∀ (i : StreamNo) (m : Accepted) (s : State), s.contexts[i].ackTimer.isSome = true →
    (∀ b k, Outstanding s i b k m →
      exec (.ackTimeout i) s = .next (blockTimeout i b k m.releaseRetryLimit s)) ∧
    (EndAwaited s i m → exec (.ackTimeout i) s = .next (endTimeout i m.releaseRetryLimit s))) ∧
  ∀ (i : StreamNo) (b : Nat) (k : SlotNo) (m : Accepted) (c : Instr) (cs : List Instr) (s : State), Outstanding s i b k m →
    s.contexts[i].ackTimer.isSome = true → s.pending = .ackTimeout i :: c :: cs → Answers c m.port m.ackId b →
    AcknowledgesFor s m.port m.ackId i m → (∀ d, cs.head? = some d → ¬ Answers d m.port m.ackId b) →
    ∃ t, step s = .next t ∧ t.pending = c :: cs ∧
      let late := countStream i .untimely (t.withPending cs)
      (s.slots[k].retryCount < m.releaseRetryLimit →
        (s.supply.state = .ok → t.streams[i].stage = some ⟨.sending, b⟩ ∧ t.slots[k].state = .sending ∧
          step t = .next (servePort m.port late)) ∧
        (s.supply.state = .low → Outstanding t i b k m ∧ AcknowledgesFor t m.port m.ackId i m ∧
          t.contexts[i].resendHeld = true)) ∧
      (m.releaseRetryLimit ≤ s.slots[k].retryCount → t.streams[i].state = .faulted ∧ step t = .next late)

/-- A REJECTED for the outstanding block or the awaited END frame faults the stream with TARGET_REJECT; an ACTIVATED for the END frame stops the timer
and a held start, makes the stage absent, and takes the stream to DONE with a STREAM record (an END frame still in transmission
then counts as answered, notes/assumptions/9). An acknowledgement that no stream matches is ignored; one for anything else, or
with a result not listed for it, or malformed, is ignored and counted UNTIMELY. A block in SENDING goes on after it: its port's arbiter
is judged, unless the next command is a further answer for the block, which is taken first (R109, R120; DEDUCED,
notes/assumptions/24). A branch frame with a result code is the acknowledgement of that result (R112, R113, R116, R123). -/
def Obligations.OtherResultsFaultEndOrAreUntimely : Prop :=
  (∀ (p : Port) (ident : Ident) (b : Word16) (i : StreamNo) (m : Accepted) (s : State), AcknowledgesFor s p ident i m →
     (∀ k, Outstanding s i b.toNat k m → exec (.rejected p ident b) s = .next (enterFaulted i .targetReject s)) ∧
     (EndAwaited s i m → b.toNat = m.blockCount →
       exec (.rejected p ident b) s = .next (enterFaulted i .targetReject s) ∧
       exec (.activated p ident b) s = .next (queueRecord (.stream i .done none)
         (((s.setCtx i { s.contexts[i] with ackTimer := none, startHeld := false }).setStream i
           { s.streams[i] with state := .done, stage := none }).setPort p { s.ports[p] with
             position := s.ports[p].position.map fun f => if f.stream = i then { f with answered := true } else f })))) ∧
  (∀ (p : Port) (ident : Ident) (b : Word16) (data : Frame) (s : State),
     (AcknowledgesNone s p ident →
       (∀ c ∈ [Instr.written p ident b, .busy p ident b, .rejected p ident b, .activated p ident b,
         .branchFrame p ident data], exec c s = .next s)) ∧
     (∀ (i : StreamNo) (m : Accepted), AcknowledgesFor s p ident i m →
       let u := countStream i .untimely s
       let ofBlock := ∃ k, Outstanding s i b.toNat k m
       let ofEnd := EndAwaited s i m ∧ b.toNat = m.blockCount
       let ofResend := s.streams[i].state = .active ∧ s.streams[i].stage = some ⟨.sending, b.toNat⟩
       (¬ ofBlock → ¬ ofResend → exec (.written p ident b) s = .next u) ∧
       (¬ ofEnd → exec (.activated p ident b) s = .next u) ∧
       (¬ ofBlock → ¬ ofEnd → ¬ ofResend → exec (.busy p ident b) s = .next u ∧ exec (.rejected p ident b) s = .next u) ∧
       (ofResend → ∀ c ∈ [Instr.written p ident b, .busy p ident b, .rejected p ident b],
         (¬ AnswerNext s p ident b.toNat → exec c s = .next (servePort p u)) ∧
         (AnswerNext s p ident b.toNat → exec c s = .next u)) ∧
       (data.length < 3 ∨ byteAt data 2 = 0#8 ∨ 4 < (byteAt data 2).toNat →
         exec (.branchFrame p ident data) s = .next u)) ∧
     (3 ≤ data.length → b = BitVec.ofNat 16 (fieldAt data 0 2) →
       (byteAt data 2 = 1#8 → exec (.branchFrame p ident data) s = exec (.written p ident b) s) ∧
       (byteAt data 2 = 2#8 → exec (.branchFrame p ident data) s = exec (.busy p ident b) s) ∧
       (byteAt data 2 = 3#8 → exec (.branchFrame p ident data) s = exec (.rejected p ident b) s) ∧
       (byteAt data 2 = 4#8 → exec (.branchFrame p ident data) s = exec (.activated p ident b) s)))

/-! ## The version store -/

/-- An NVM step that ends changes its byte or its unit to what the readback shows, and no other byte of the non-volatile memory (R126). A scrub
that does not read back erased leaves its unit as it reads (R131). A commit's erase that does not read back erased makes no page valid: a
page that was not valid, or is being formed, is left with no complete marker, and a page given up that still shows its marker has the
sequence it had (R128, R138); nor would an erase of the key area outside a scan, which no operation makes, give it a marker. A step's end
keeps the key state, the governing table and the queue for the operation to change, and turns only the erased flag of the page that an
erase step cleared, to whether it read back erased (R131, R136, R138). That a failed step of a commit or of a key installation otherwise
leaves what it reads, and what its erase leaves of the markers, is the model's reading (DEDUCED, notes/assumptions/13 and 25). -/
def Obligations.NvmStepsChangeOnlyTheirUnit : Prop :=
  (∀ (rb : Readback) (s : State), s.nvm.wf erasedByte = true →
    (∀ a v w, stepInProgress s = some (.program a v) → (rb = .asMeant ∧ w = v) ∨ rb = .reads [w] →
      ∃ t, exec (.nvmStepDone rb) s = .next t ∧
        ∀ x, t.nvm.read erasedByte x = if x = a then w else s.nvm.read erasedByte x) ∧
    ∀ r u bs, s.store.run = some r → stepInProgress s = some (.erase u) → bs.length = u.size →
      (rb = .asMeant ∧ bs = List.replicate u.size 0xFF#8) ∨ rb = .reads bs →
      ∃ t, exec (.nvmStepDone rb) s = .next t ∧
        let after (b : Nat) : Byte := t.nvm.read erasedByte (u.base + b)
        let before (b : Nat) : Byte := s.nvm.read erasedByte (u.base + b)
        (∀ x, x < u.base ∨ u.base + u.size ≤ x → t.nvm.read erasedByte x = s.nvm.read erasedByte x) ∧
        (∀ c, r.job = .scan c → ∀ b, b < u.size → after b = byteAt bs b) ∧
        ((∀ c, r.job ≠ .scan c) →
          (u = .key → ∀ b, b < 64 →
            after b = if b = 32 ∧ byteAt bs 32 = 0x00#8 ∧ before 32 ≠ 0x00#8 then 0xFF#8 else byteAt bs b) ∧
          ∀ p, u = .page p →
            let forming := (∃ i v q, r.job = .compact i v p q) ∨ p = .a ∧ ∃ i v, r.job = .newPage i v
            (byteAt bs 4 ≠ 0x3C#8 → ∀ b, b < 1024 → after b = byteAt bs b) ∧
            (byteAt bs 4 = 0x3C#8 → before 4 = 0x3C#8 → ¬ forming →
              ∀ b, b < 1024 → after b = if b < 4 then before b else byteAt bs b) ∧
            (byteAt bs 4 = 0x3C#8 → before 4 ≠ 0x3C#8 ∨ forming →
              ∀ b, b < 1024 → after b = if b = 4 then 0xFF#8 else byteAt bs b))) ∧
  ∀ (t : Store) (ok : Bool),
    t.stepEnded (.erase (.page .a)) ok = { t with erasedA := ok } ∧ t.stepEnded (.erase (.page .b)) ok = { t with erasedB := ok } ∧
    t.stepEnded (.erase .key) ok = t ∧ ∀ a v, t.stepEnded (.program a v) ok = t

/-- The head operation begins when none runs. A commit forms its record from the manifest and the governing table, and proceeds as an append, a
compaction or a new page, each with the steps its rule lists; a compaction at sequence 0xFFFFFFFE is refused without a step. A
key installation programs the key and then its marker. A step starts only while the supply is OK and no RESTART has been issued
(R133 to R138, R142, R164). The addresses of the pages and the key area are the model's choice (DESIGN CHOICE,
notes/assumptions/6), and so is that a page's erased flag turns to no as a program step into it starts (DEDUCED,
notes/assumptions/13). -/
def Obligations.OperationsBeginAtTheHead : Prop :=
  (∀ s : State,
    (s.store.run.isSome = true ∨ s.interp.restartIssued = true ∨ s.store.ops = [] → runStore s = startStep s) ∧
    (s.store.run = none → startStep s = s) ∧
    (∀ a v, let x := s.store
      (a < 1024 → x.stepStarted (.program a v) = { x with erasedA := false }) ∧
      (1024 ≤ a → a < 2048 → x.stepStarted (.program a v) = { x with erasedB := false }) ∧
      (2048 ≤ a → x.stepStarted (.program a v) = x)) ∧
    (∀ u, s.store.stepStarted (.erase u) = s.store) ∧
    ∀ r st rest, s.store.run = some r → r.steps = st :: rest →
      let due := r.stepping = false ∧ s.supply.state = .ok ∧ s.interp.restartIssued = false
      (due → startStep s = s.withStore { s.store.stepStarted st with run := some { r with stepping := true } }) ∧
      (¬ due → startStep s = s)) ∧
  (∀ (a n : Nat) (bs : List Byte), (programSteps a bs)[n]? = bs[n]?.map fun b => .program (a + n) b) ∧
  (∀ (key : List Byte) (tail : List NvmOp) (s : State), s.store.run = none → s.interp.restartIssued = false →
    s.store.ops = .installKey key :: tail → runStore s = startStep (s.withStore { s.store with
      run := some { job := .installKey, stepping := false
                    steps := programSteps 2048 key ++ [.program (2048 + 32) 0x00#8] } })) ∧
  ∀ (i : StreamNo) (m : Accepted) (tail : List NvmOp) (r : VersionRecord) (s : State), s.store.run = none →
    s.interp.restartIssued = false → s.store.ops = .commit i :: tail → s.streams[i].manifest = some m →
    r.target = m.target → r.version = m.version → r.floor.toNat = max (floorOf s.store.governing m.target).toNat m.newFloor.toNat →
    (∀ g, rowOf s.store.governing m.target = some g →
      r.count = if g.record.count < 65535 then g.record.count + 1 else g.record.count) →
    (rowOf s.store.governing m.target = none → r.count = 1) →
    let x := s.store
    let begun (job : NvmJob) (steps : List NvmStep) : State :=
      startStep (s.withStore { x with run := some { job := job, steps := steps, stepping := false } })
    (x.activePage = none → runStore s = begun (.newPage i r)
      ((if x.erasedA = true then [] else [.erase (.page .a)]) ++ programSteps 16 (recordBytes r) ++
        programSteps 0 [0#8, 0#8, 0#8, 1#8] ++ [.program 4 0x3C#8])) ∧
    ∀ (p : PageId) (seq : Word32), x.activePage = some p → x.activeSeq = some seq →
      let base := (NvmUnit.page p.other).base
      (x.appendPos < 63 → runStore s =
        begun (.append i r p x.appendPos) (programSteps (recordAddress p x.appendPos) (recordBytes r))) ∧
      (63 ≤ x.appendPos → seq ≠ 0xFFFFFFFE#32 → runStore s = begun (.compact i r p.other (seq + 1))
        ((if x.erasedFlag p.other = true then [] else [.erase (.page p.other)]) ++
          ((x.governing.map GovRow.record ++ [r]).mapIdx fun n y =>
            programSteps (base + 16 + 16 * n) (recordBytes y)).flatten ++
          programSteps base (beBytes 4 (seq + 1).toNat) ++ [.program (base + 4) 0x3C#8, .erase (.page p)])) ∧
      (63 ≤ x.appendPos → seq = 0xFFFFFFFE#32 →
        let u := s.withStore { x with ops := tail, run := none }
        (s.streams[i].state = .committing → runStore s = runStore (enterFaulted i .storeFail u)) ∧
        (s.streams[i].state = .aborting → runStore s =
          runStore (resolveAbort i (u.setStream i { s.streams[i] with cause := some .storeFail }))))

/-- A step that succeeds: the next one follows; at a compaction's complete marker the new page takes over with every governing record; with an
operation's last step the operation leaves the queue. A commit's record then governs its target, a COMMIT record is queued, and
a COMMITTING stream enters ENDING, an ABORTING one may resolve; a key is INSTALLED; a scan ends start-up (R131, R132, R135,
R136, R137, R142). A compaction's last erase ends the commit whether or not it reads back. The statement on an NVM step's end says what
`stepLeaves` and `stepEnded` leave of the memory and of the erased flags. -/
def Obligations.GoodStepsCompleteTheOperation : Prop :=
  (∀ (row : GovRow) (rows : List GovRow) (t : Word16),
    rowOf (putRow row rows) t = if t = row.record.target then some row else rowOf rows t) ∧
  (∀ (i : StreamNo) (m : Accepted) (s : State), s.streams[i].manifest = some m →
    let c := { s.contexts[i] with endRetry := 0, endBusy := 0 }
    (s.supply.state = .ok → enterEnding i s = servePort m.port ((s.setCtx i c).setStream i
      { s.streams[i] with state := .ending, stage := some ⟨.sending, m.blockCount⟩ })) ∧
    (s.supply.state = .low → enterEnding i s =
      (s.setStream i { s.streams[i] with state := .ending }).setCtx i { c with startHeld := true })) ∧
  ∀ (r : NvmRun) (st : NvmStep) (rest : List NvmStep) (rb : Readback) (mem : Memory) (ok : Bool) (s : State),
    s.store.run = some r → r.stepping = true → r.steps = st :: rest → stepResult s.nvm st rb = some (mem, ok) →
    let x := s.store.stepEnded st ok
    let u (y : Store) : State := (s.withNvm (stepLeaves s.nvm r.job st mem ok)).withStore y
    let goesOn (y : Store) : Prop := exec (.nvmStepDone rb) s =
      .next (runStore (u { y with run := some { r with steps := rest, stepping := false } }))
    let committed (i : StreamNo) (v : VersionRecord) (y : Store) : Prop :=
      let t := queueRecord (.commit i v.target v.version v.floor) (u { y with ops := s.store.ops.tail, run := none })
      (s.streams[i].state = .committing → exec (.nvmStepDone rb) s = .next (runStore (enterEnding i t))) ∧
      (s.streams[i].state ≠ .committing → exec (.nvmStepDone rb) s = .next (runStore (resolveAbort i t)))
    let moved (p : PageId) (v : VersionRecord) : List GovRow :=
      putRow { record := v, page := p, slot := x.governing.length }
        (x.governing.mapIdx fun n g => { record := g.record, page := p, slot := n })
    (ok = true → rest ≠ [] →
      (∀ i v p q, r.job = .compact i v p q → st ≠ .program (completeMarkerAddress p) 0x3C#8) → goesOn x) ∧
    (∀ i v p q, r.job = .compact i v p q →
      (ok = true → rest ≠ [] → st = .program (completeMarkerAddress p) 0x3C#8 → goesOn { x with
        governing := moved p v, activePage := some p, activeSeq := some q, appendPos := x.governing.length + 1 }) ∧
      (rest = [] → committed i v x)) ∧
    (ok = true → rest = [] →
      (∀ i v p n, r.job = .append i v p n → committed i v { x with
        governing := putRow { record := v, page := p, slot := n } x.governing, appendPos := x.appendPos + 1 }) ∧
      (∀ i v, r.job = .newPage i v → committed i v { x with
        governing := moved .a v, activePage := some .a, activeSeq := some 1#32, appendPos := x.governing.length + 1 }) ∧
      (r.job = .installKey → exec (.nvmStepDone rb) s =
        .next (runStore (u { x with ops := s.store.ops.tail, run := none, keyState := .installed }))) ∧
      (∀ c, r.job = .scan c → exec (.nvmStepDone rb) s = .next (runStore
        ((queueRecord (.restarted c .recovered) (u { x with run := none })).withPhase .running))))

/-- A step that does not read back ends a commit in STORE_FAIL: the operation leaves the queue with the governing table as it was, a failed
append's slot counts as used, a failed page is not known to be erased; a COMMITTING stream faults, an ABORTING one takes the
cause and may resolve. It ends a key installation in FAILED. A scan goes on, and a key area it could not erase is FAILED (R131,
R132, R138, R142). The statement on an NVM step's end says what `stepLeaves` and `stepEnded` leave of the memory and of the erased
flags. -/
def Obligations.FailedStepsEndTheOperation : Prop :=
  ∀ (r : NvmRun) (st : NvmStep) (rest : List NvmStep) (rb : Readback) (mem : Memory) (s : State),
    s.store.run = some r → r.stepping = true → r.steps = st :: rest → stepResult s.nvm st rb = some (mem, false) →
    let x := s.store.stepEnded st false
    let u (y : Store) : State := (s.withNvm (stepLeaves s.nvm r.job st mem false)).withStore y
    let failed (i : StreamNo) (y : Store) : Prop :=
      let t := u { y with ops := s.store.ops.tail, run := none }
      (s.streams[i].state = .committing → exec (.nvmStepDone rb) s = .next (runStore (enterFaulted i .storeFail t))) ∧
      (s.streams[i].state = .aborting → exec (.nvmStepDone rb) s =
        .next (runStore (resolveAbort i (t.setStream i { s.streams[i] with cause := some .storeFail }))))
    (∀ i v p n, r.job = .append i v p n → failed i { x with appendPos := x.appendPos + 1 }) ∧
    (∀ i v q, r.job = .compact i v .a q → rest ≠ [] → failed i { x with erasedA := false }) ∧
    (∀ i v q, r.job = .compact i v .b q → rest ≠ [] → failed i { x with erasedB := false }) ∧
    (∀ i v, r.job = .newPage i v → failed i { x with erasedA := false }) ∧
    (r.job = .installKey → exec (.nvmStepDone rb) s =
      .next (runStore (u { x with ops := s.store.ops.tail, run := none, keyState := .failed }))) ∧
    ∀ c, r.job = .scan c →
      let key := if st = .erase .key then .failed else x.keyState
      (rest ≠ [] → exec (.nvmStepDone rb) s = .next (runStore
        (u { x with keyState := key, run := some { r with steps := rest, stepping := false } }))) ∧
      (rest = [] → exec (.nvmStepDone rb) s = .next (runStore
        ((queueRecord (.restarted c .recovered) (u { x with keyState := key, run := none })).withPhase .running)))

/-! ## The supply watch -/

/-- A movement of the supply is judged against the levels in force: a departure starts the stopped filter timer, or with SUPPLY_FILTER 0
changes the state at once; its end stops the timer; the timer's expiry changes the state. A write of SUPPLY_LEVEL is judged in the
same way. A change queues a SUPPLY record, and to OK it then starts the held resends, END frames and releases, and the waiting NVM
step. Below 6.0 V the part is reset (R121, R133, R145, R146, R147, R148, R149). The model's choices here: the levels in whole
millivolts (DESIGN CHOICE) and that a departure command below 6.0 V is the power-on reset, that one while the timer runs only moves
the input, and that one whose voltage does not fit its name is judged by the voltage (DEDUCED), all notes/assumptions/19; and that
with SUPPLY_FILTER 0 a write of SUPPLY_LEVEL changes the state at once (DEDUCED, notes/assumptions/14). -/
def Obligations.TheSupplyWatchFiltersDepartures : Prop :=
  (∀ (mv : Nat) (s : State), mv < 6000 →
    exec (.departureBegin mv) s = exec (.powerOnReset mv s.pins.resetnLow) s ∧
      exec (.departureEnd mv) s = exec (.powerOnReset mv s.pins.resetnLow) s) ∧
  (∀ (mv : Nat) (s : State), s.phase ≠ .inReset → 6000 ≤ mv →
    exec (.departureBegin mv) s = .next (compareSupply (s.withPins { s.pins with senseMv := mv })) ∧
      exec (.departureEnd mv) s = .next (compareSupply (s.withPins { s.pins with senseMv := mv }))) ∧
  (∀ s : State,
    let mv := s.pins.senseMv
    let threshold := 9000 + 600 * s.params.supplyLevel
    let departing := (s.supply.state = .ok ∧ mv < threshold) ∨ (s.supply.state = .low ∧ threshold + 500 < mv)
    (departing →
      (s.supply.filter.isSome = true → compareSupply s = s) ∧
      (s.supply.filter = none → 1 ≤ s.params.supplyFilter →
        compareSupply s = s.withSupply { s.supply with filter := some s.params.supplyFilter }) ∧
      (s.supply.filter = none → s.params.supplyFilter = 0 → compareSupply s = changeSupply s)) ∧
    (¬ departing → compareSupply s = s.withSupply { s.supply with filter := none })) ∧
  (∀ s : State, s.supply.filter.isSome = true → exec .filterExpiry s = .next (changeSupply s)) ∧
  (∀ s : State,
    (s.supply.state = .ok →
      changeSupply s = queueRecord (.supply .low) (s.withSupply { state := .low, filter := none })) ∧
    (s.supply.state = .low → changeSupply s =
      startStep (startAllHeld (queueRecord (.supply .ok) (s.withSupply { state := .ok, filter := none })))) ∧
    startAllHeld s = servePort 3 (servePort 2 (servePort 1 (servePort 0 (startHeldWork 7 (startHeldWork 6 (startHeldWork 5
      (startHeldWork 4 (startHeldWork 3 (startHeldWork 2 (startHeldWork 1 (startHeldWork 0 s)))))))))))) ∧
  ∀ (i : StreamNo) (s : State),
    let c := s.contexts[i]
    let x := s.streams[i]
    (c.resendHeld = true → ∀ b k, x.stage = some ⟨.awaiting, b⟩ → slotOf s i b = some k →
      startHeldWork i s = ((s.setCtx i { c with resendHeld := false }).setSlot k
        { s.slots[k] with state := .sending, nextFrame := some 0 }).setStream i { x with stage := some ⟨.sending, b⟩ }) ∧
    (c.resendHeld = false → c.startHeld = true → ∀ m, x.manifest = some m →
      startHeldWork i s = (s.setCtx i { c with startHeld := false }).setStream i
        { x with stage := some ⟨.sending, m.blockCount⟩ }) ∧
    (c.resendHeld = false → c.startHeld = false →
      (∀ k, ReleaseDue s i k → startHeldWork i s =
        (s.setSlot k { s.slots[k] with state := .sending, nextFrame := some 0 }).setStream i
          { x with stage := some ⟨.sending, x.lowEdge⟩ }) ∧
      ((∀ k, ¬ ReleaseDue s i k) → startHeldWork i s = s))

/-! ## Layouts -/

/-- Multi-byte fields are big-endian; frames are padded with 0xCC to the next valid length; a response frame is 0x40, the request's tag and
code, the status and the data, so padded; states, causes and results have their codes;
report records begin with their kind and their length and then hold the fields of their kind; a version record's 16 bytes read
back as the good record they were made from; and every row of the seven tables holds, at the bytes of section 11.5, what it is to show
of a stream, a lane, a slot, a manifest entry, an extent, a governing record and the store, and the snapshot set (R23, R24, R46,
R65, R88, R127, R143, R153, R166, R180, R181; sections 11.1 to 11.6). -/
def Obligations.LayoutsAreAsStated : Prop :=
  ((∀ n v, (beBytes n v).length = n ∧ beValue (beBytes n v) = v % 256 ^ n ∧ (byteOf n).toNat = n % 256) ∧
    ∀ (b : Byte) (bs : List Byte), beValue (b :: bs) = b.toNat * 256 ^ bs.length + beValue bs) ∧
  (∀ bs : List Byte, bs.length ≤ 64 → ∃ n, padFrame bs = bs ++ List.replicate n 0xCC#8 ∧
    bs.length + n ∈ [0, 1, 2, 3, 4, 5, 6, 7, 8, 12, 16, 20, 24, 32, 48, 64] ∧
    ∀ v ∈ [0, 1, 2, 3, 4, 5, 6, 7, 8, 12, 16, 20, 24, 32, 48, 64], bs.length ≤ v → bs.length + n ≤ v) ∧
  (∀ (tag code : Byte) (st : Status) (data : List Byte),
    responseFrame tag code st data = padFrame ([0x40#8, tag, code, st.code] ++ data)) ∧
  (([.ok, .clamped, .accepted, .state, .range, .order, .noRoom, .conflict, .noKey, .malformed, .unknown] : List Status).map
      Status.code = [0x00#8, 0x01#8, 0x02#8, 0x10#8, 0x11#8, 0x12#8, 0x13#8, 0x14#8, 0x15#8, 0x1E#8, 0x1F#8] ∧
    ([.vacant, .loading, .authenticating, .ready, .active, .committing, .ending, .done, .faulted, .aborting] :
      List StreamState).map StreamState.code = [0#8, 1#8, 2#8, 3#8, 4#8, 5#8, 6#8, 7#8, 8#8, 9#8] ∧
    ([none, some .digest, some .stalled, some .targetSilent, some .targetReject, some .storeFail, some .authFail,
      some .inconsistent, some .identConflict, some .targetBusy, some .unknownTarget, some .noTargetRoom, some .belowFloor,
      some .aborted, some .closed] : List (Option Cause)).map causeCode =
        [0x00#8, 0x01#8, 0x02#8, 0x03#8, 0x04#8, 0x05#8, 0x10#8, 0x11#8, 0x12#8, 0x13#8, 0x14#8, 0x15#8, 0x16#8, 0x20#8, 0x21#8] ∧
    ([.free, .filling, .complete, .hashing, .verified, .sending, .awaiting] : List SlotState).map SlotState.code =
      [0#8, 1#8, 2#8, 3#8, 4#8, 5#8, 6#8] ∧
    ([.opened, .blocked, .guarded] : List Integrity).map Integrity.code = [0#8, 1#8, 2#8] ∧
    ([.active, .quiet] : List MemberState).map MemberState.code = [0#8, 1#8] ∧
    ([.ok, .low] : List SupplyState).map SupplyState.code = [0#8, 1#8] ∧
    ([.power, .request] : List StartCause).map StartCause.code = [0#8, 1#8] ∧
    ([.empty, .clean, .recovered] : List StoreResult).map StoreResult.code = [0#8, 1#8, 2#8] ∧
    ([.erased, .pending, .installed, .failed] : List KeyState).map KeyState.code = [0#8, 1#8, 2#8, 3#8]) ∧
  ((∀ r : Record, r.bytes.length = r.length) ∧
    (∀ (i : StreamNo) e c, (Record.stream i e c).bytes = [0x01#8, 5#8, byteOf i, e.code, causeCode c]) ∧
    (∀ (i : StreamNo) low w, (Record.window i low w).bytes = [0x02#8, 6#8, byteOf i] ++ beBytes 2 low ++ [byteOf w]) ∧
    (∀ (i : StreamNo) b n, (Record.refetch i b n).bytes = [0x03#8, 6#8, byteOf i] ++ beBytes 2 b ++ [byteOf n]) ∧
    (∀ (i : StreamNo) b ps more, ps.length ≤ 16 → ∃ count : Byte, count.toNat = ps.length + (if more = true then 128 else 0) ∧
      (Record.gap i b ps more).bytes =
        [0x04#8, byteOf (6 + ps.length), byteOf i] ++ beBytes 2 b ++ [count] ++ ps.map byteOf) ∧
    (∀ (l : Lane) e, (Record.lane l e).bytes = [0x05#8, 4#8, byteOf l, e.code]) ∧
    (∀ (i : StreamNo) (l : Lane) e, (Record.member i l e).bytes = [0x06#8, 5#8, byteOf i, byteOf l, e.code]) ∧
    (∀ e, (Record.supply e).bytes = [0x07#8, 3#8, e.code]) ∧
    (∀ (i : StreamNo) t v f, (Record.commit i t v f).bytes =
      [0x08#8, 13#8, byteOf i] ++ beBytes 2 t.toNat ++ beBytes 4 v.toNat ++ beBytes 4 f.toNat) ∧
    ∀ c e, (Record.restarted c e).bytes = [0x09#8, 4#8, c.code, e.code]) ∧
  (∀ r : VersionRecord, r.count ≤ 65535 → (recordBytes r).length = 16 ∧ byteAt (recordBytes r) 15 = 0x00#8 ∧
    byteSum ((recordBytes r).take 15) % 256 = 0x5A ∧ readSlotBytes (recordBytes r) = .good r) ∧
  (∀ (n : Nat) (s : State),
    (tableRow s 0 n).length = 27 ∧ (tableRow s 1 n).length = 6 ∧ (tableRow s 2 n).length = 19 ∧
    (tableRow s 3 n).length = 39 ∧ (tableRow s 4 n).length = 3 ∧ (tableRow s 5 n).length = 24 ∧
    (n < 12 → (tableRow s 6 n).length = 40) ∧ (tableRow s 6 12).length = 8) ∧
  ((∀ (i : StreamNo) (s : State), s.streams[i] = Stream.vacant → s.contexts[i] = ReleaseCtx.idle →
    (∀ (k : SlotNo) h, s.slots[k].holder = some h → h.stream ≠ i) → tableRow s 0 i.val = List.replicate 27 0#8) ∧
  (∀ (k : SlotNo) (s : State), s.slots[k] = Slot.free → tableRow s 2 k.val = [0#8, 0xFF#8] ++ List.replicate 17 0#8) ∧
  ∀ (e : Nat) (s : State), e < 32 → (∀ i : StreamNo, e ∉ s.manifests[i].extents) → tableRow s 4 e = [0xFF#8, 0#8, 0#8]) ∧
  ((∀ (i : StreamNo) (s : State),
    let row := tableRow s 0 i.val
    let x := s.streams[i]
    byteAt row 0 = x.state.code ∧ byteAt row 1 = causeCode x.cause ∧
    (∀ m, x.manifest = some m → fieldAt row 2 2 = m.target.toNat ∧ byteAt row 4 = byteOf m.port ∧
      fieldAt row 5 2 = m.blockCount % 65536 ∧ fieldAt row 7 4 = m.version.toNat) ∧
    (x.manifest = none → (row.drop 2).take 9 = List.replicate 9 0#8) ∧
    (∀ f, x.floorAtAcceptance = some f → fieldAt row 11 4 = f.toNat) ∧
    (x.floorAtAcceptance = none → fieldAt row 11 4 = 0) ∧
    (∀ l : Lane, ((byteAt row 15).getLsbD l = true ↔ x.members[l].isSome = true) ∧
      ((byteAt row 15).getLsbD (l + 4) = true ↔ x.members[l].map Member.state = some .quiet)) ∧
    byteAt row 16 = byteOf x.window ∧ byteAt row 17 = (if x.reservationHeld = true then 1#8 else 0#8) ∧
    fieldAt row 18 2 = x.lowEdge % 65536 ∧ byteAt row 20 = byteOf x.stallCount ∧
    byteAt row 21 = byteOf ((List.finRange 32).countP fun k => s.slots[k].holder.map Holder.stream = some i) ∧
    (x.stage = none → byteAt row 22 = 0#8 ∧ fieldAt row 23 2 = 0) ∧
    (∀ b, x.stage = some ⟨.sending, b⟩ → byteAt row 22 = 1#8 ∧ fieldAt row 23 2 = b % 65536) ∧
    (∀ b, x.stage = some ⟨.awaiting, b⟩ → byteAt row 22 = 2#8 ∧ fieldAt row 23 2 = b % 65536) ∧
    byteAt row 25 = byteOf s.contexts[i].endRetry ∧ byteAt row 26 = byteOf s.contexts[i].endBusy) ∧
  (∀ (l : Lane) (s : State),
    let row := tableRow s 1 l.val
    let x := s.lanes[l]
    ((byteAt row 0).getLsbD 0 = s.params.laneEnable.getLsbD l ∧ (byteAt row 0).getLsbD 1 = s.params.controlLanes.getLsbD l ∧
      ((byteAt row 0).getLsbD 2 = true ↔ s.params.reportLane = l) ∧ (byteAt row 0).toNat < 8) ∧
    byteAt row 1 = x.integrity.code ∧ byteAt row 2 = byteOf x.faults ∧ byteAt row 3 = byteOf x.good ∧
    byteAt row 4 = (if x.quarantine.isSome = true then 1#8 else 0#8) ∧ byteAt row 5 = byteOf x.queue.length) ∧
  ∀ (k : SlotNo) (s : State),
    let row := tableRow s 2 k.val
    let x := s.slots[k]
    byteAt row 0 = x.state.code ∧
    (∀ h, x.holder = some h → byteAt row 1 = byteOf h.stream ∧ fieldAt row 2 2 = h.block % 65536 ∧
      byteAt row 4 = byteOf h.expected) ∧
    (x.holder = none → byteAt row 1 = 0xFF#8 ∧ fieldAt row 2 2 = 0 ∧ byteAt row 4 = 0#8) ∧
    fieldAt row 5 8 = x.filled.toNat ∧ fieldAt row 13 2 = x.byteCount % 65536 ∧ byteAt row 15 = byteOf x.failCount ∧
    byteAt row 16 = byteOf x.retryCount ∧ byteAt row 17 = byteOf x.busyCount ∧
    (∀ j, x.nextFrame = some j → byteAt row 18 = byteOf j) ∧ (x.nextFrame = none → byteAt row 18 = 0#8)) ∧
  ((∀ (e : Nat) (s : State), e < 2048 → ExtentLaw s →
    let row := tableRow s 3 e
    byteAt row 4 = s.entryCounts.read 0 e ∧ (∀ b, b < 34 → byteAt row (5 + b) = entryByte s e b) ∧
    ((∀ i : StreamNo, e / 64 ∉ s.manifests[i].extents) →
      byteAt row 0 = 0#8 ∧ byteAt row 1 = 0xFF#8 ∧ fieldAt row 2 2 = 0) ∧
    ∀ (i : StreamNo) (place n : Nat), s.manifests[i].extents[place]? = some (e / 64) →
      s.manifests[i].declaredBlocks = some n →
      let j := 64 * place + e % 64
      byteAt row 1 = byteOf i ∧
      (n ≤ j → byteAt row 0 = 1#8 ∧ fieldAt row 2 2 = 0) ∧
      (j < n → fieldAt row 2 2 = j % 65536 ∧
        (s.streams[i].manifest.isSome = true → byteAt row 0 = 4#8) ∧
        (s.streams[i].manifest = none → (s.entryCounts.read 0 e).toNat < 34 → byteAt row 0 = 2#8) ∧
        (s.streams[i].manifest = none → 34 ≤ (s.entryCounts.read 0 e).toNat → byteAt row 0 = 3#8))) ∧
  (∀ (e : Nat) (s : State), e < 32 → ExtentLaw s →
    ∀ (i : StreamNo) (place n : Nat), s.manifests[i].extents[place]? = some e → s.manifests[i].declaredBlocks = some n →
      tableRow s 4 e = [byteOf i, byteOf place, byteOf (if 64 ≤ n - 64 * place then 64 else n - 64 * place)]) ∧
  (∀ (n : Nat) (s : State),
    let row := tableRow s 5 n
    let t := s.store
    (∀ g, t.governing[n]? = some g → byteAt row 0 = 1#8 ∧ fieldAt row 1 2 = g.record.target.toNat ∧
      fieldAt row 3 4 = g.record.version.toNat ∧ fieldAt row 7 4 = g.record.floor.toNat ∧
      fieldAt row 11 2 = g.record.count % 65536 ∧ byteAt row 13 = (if g.page = .a then 1#8 else 2#8) ∧
      byteAt row 14 = byteOf g.slot) ∧
    (t.governing[n]? = none → row.take 15 = List.replicate 15 0#8) ∧
    (t.activePage = none → byteAt row 15 = 0#8) ∧ (t.activePage = some .a → byteAt row 15 = 1#8) ∧
    (t.activePage = some .b → byteAt row 15 = 2#8) ∧
    (∀ q, t.activeSeq = some q → fieldAt row 16 4 = q.toNat) ∧ (t.activeSeq = none → fieldAt row 16 4 = 0) ∧
    byteAt row 20 = byteOf t.appendPos ∧
    (byteAt row 21).toNat = (if t.erasedA = true then 1 else 0) + (if t.erasedB = true then 2 else 0) ∧
    byteAt row 22 = t.keyState.code ∧ byteAt row 23 = byteOf t.ops.length) ∧
  ∀ s : State,
    (∀ (l : Lane) (n : Fin 10), fieldAt (tableRow s 6 l.val) (4 * n) 4 = s.snapshot.counters.lanes[l][n] % 4294967296) ∧
    (∀ (i : StreamNo) (n : Fin 10),
      fieldAt (tableRow s 6 (4 + i.val)) (4 * n) 4 = s.snapshot.counters.streams[i][n] % 4294967296) ∧
    fieldAt (tableRow s 6 12) 0 4 = s.snapshot.counters.recordsLost % 4294967296 ∧
    fieldAt (tableRow s 6 12) 4 4 = s.snapshot.count % 4294967296 ∧
    ([.frames, .good, .short, .header, .payload, .blocked, .foreign, .inactive, .controlForeign, .controlOverrun] :
      List LaneCounter).map LaneCounter.index = [0, 1, 2, 3, 4, 5, 6, 7, 8, 9] ∧
    ([.placed, .duplicate, .stale, .ahead, .beyond, .length, .digestFailures, .releaseRetries, .busy, .untimely] :
      List StreamCounter).map StreamCounter.index = [0, 1, 2, 3, 4, 5, 6, 7, 8, 9])

/-! ## Laws that hold at all times -/

/-- Every law below holds at reset. -/
def Obligations.LawsHoldAtReset : Prop :=
  MemoriesCanonical State.reset ∧ ReportLaw State.reset ∧ CountersBounded State.reset ∧ ControlQueueLaw State.reset ∧
    ParamsLegal State.reset.params ∧ EngineLaw State.reset ∧ HeldLaw State.reset ∧ FilterLaw State.reset ∧
    SingleLoadLaw State.reset ∧ ExtentLaw State.reset ∧ ReservationLaw State.reset ∧ ReleaseLaws State.reset ∧
    State.reset.store.KeepsFloor ∧ StoreLaw State.reset

/-- Every step keeps the memories canonical, the report queue within 64 records with one WINDOW record per stream, the counters within 32 bits
and the control queues within four frames (R47, R167, R168, R176). -/
def Obligations.StepsKeepMemoriesReportsAndCounters : Prop :=
  ∀ s t : State, step s = .next t → MemoriesCanonical s ∧ ReportLaw s ∧ CountersBounded s ∧ ControlQueueLaw s →
    MemoriesCanonical t ∧ ReportLaw t ∧ CountersBounded t ∧ ControlQueueLaw t

/-- Every step keeps each parameter in its range, the three identifiers different and the REPORT_LANE enabled; the engine idle only with an
empty FIFO; everything volatile at reset while the part is held in reset; and the filter timer running exactly while the voltage
departs (R91, R145, R146, R148, R155, R158). The last one rests at a write of SUPPLY_LEVEL with SUPPLY_FILTER 0 on the model's reading
that the state then changes at the write itself, against the letter of R147 (DEDUCED, notes/assumptions/14). -/
def Obligations.StepsKeepParametersEngineAndSupply : Prop :=
  ∀ s t : State, step s = .next t → ParamsLegal s.params ∧ EngineLaw s ∧ HeldLaw s ∧ FilterLaw s →
    ParamsLegal t.params ∧ EngineLaw t ∧ HeldLaw t ∧ FilterLaw t

/-- Every step keeps one load at a time, each extent in at most one list, the reservations within 32 slots, and each slot held for one pair
that no other slot holds (R4, R6, R31, R68). -/
def Obligations.StepsKeepLoadsExtentsAndSlots : Prop :=
  ∀ s t : State, step s = .next t → SingleLoadLaw s ∧ ExtentLaw s ∧ ReservationLaw s ∧ SlotLaw s →
    SingleLoadLaw t ∧ ExtentLaw t ∧ ReservationLaw t ∧ SlotLaw t

/-- Every step keeps the laws of slots, windows, jobs and releases. So after it each stream holds no more slots than its window W and no low edge
exceeds N (R26, R31); the low edge of a stream that exists before and after has not decreased (R26); and the digest FIFO holds at most one MAC
job, at most one job per slot and at most 33 jobs (R90). -/
def Obligations.StepsKeepWindowsJobsAndReleases : Prop :=
  ∀ s t : State, step s = .next t → ReleaseLaws s → ReleaseLaws t ∧
    (∀ i : StreamNo, slotsHeld t i ≤ t.streams[i].window ∧ t.streams[i].lowEdge ≤ t.streams[i].blockCount ∧
      (s.streams[i].state ≠ .vacant → t.streams[i].state ≠ .vacant → s.streams[i].lowEdge ≤ t.streams[i].lowEdge)) ∧
    t.engine.fifo.countP Job.isMac ≤ 1 ∧ (∀ k : SlotNo, t.engine.fifo.count (.block k) ≤ 1) ∧ t.engine.fifo.length ≤ 33

/-- The floor law. No command but a power-on reset or a start-up lowers any target's floor in the governing table, a failed commit and a
compaction included (R134, R136, R138). No step whatever, a reset that cuts a step short and the start-up after it included, lowers the floor
that a scan of the non-volatile memory would find (R126, R130, R139), provided only that a failed scrub, whose unit is left as it reads (R131),
does not read back as a valid page that was not there, or with another sequence: the rule's own proviso that programmed bytes keep their
values. For that every step keeps the law of the version store: the memory in canonical form, the queue and the running operation those of
their streams, room for at most 16 targets, and, unless the part is held in reset, the store holding what a scan would find while every step
still to come, however it ends, leaves that or the new record (R129 to R138). And while the part runs its governing table is the one that a
scan would find. What a cut step, or a failed step of a commit, may leave of a page, within what R139 lets a scan find, and when a page is
no longer known to be erased are the model's reading (DEDUCED, notes/assumptions/2, 13 and 25). -/
def Obligations.FloorsNeverFall : Prop :=
  (∀ (c : Instr) (s t : State), isReset c = false → exec c s = .next t → s.store.KeepsFloor →
    t.store.KeepsFloor ∧ ∀ target : Word16,
      (floorOf s.store.governing target).toNat ≤ (floorOf t.store.governing target).toNat) ∧
  (∀ s t : State, step s = .next t → (∀ c, s.pending.head? = some c → ScrubReadsSound c s) →
    HeldLaw s ∧ StoreLaw s ∧ s.store.KeepsFloor → StoreLaw t ∧ t.store.KeepsFloor ∧ ∀ target : Word16,
      (floorOf (scannedStore s.nvm).governing target).toNat ≤ (floorOf (scannedStore t.nvm).governing target).toNat) ∧
  ∀ s : State, StoreLaw s → s.phase ≠ .inReset → s.store.governing = (scannedStore s.nvm).governing

/-- The first half of the release law: a slot becomes VERIFIED only at the completion of its own block job, for an ACTIVE stream, with the
block's bytes hashing to its manifest digest (R96, R106). -/
def Obligations.OnlyAMatchVerifiesABlock : Prop :=
  ∀ (c : Instr) (s t : State) (k : SlotNo), exec c s = .next t → t.slots[k].state = .verified →
    s.slots[k].state ≠ .verified → ∃ h m, c = .blockJobDone ∧ s.engine.fifo.head? = some (.block k) ∧
      s.slots[k].holder = some h ∧ s.streams[h.stream].state = .active ∧ s.streams[h.stream].manifest = some m ∧
      sha256 (slotBytes s k (m.blockBytes h.block)) = digestOf s h.stream h.block

/-- A stream comes to hold an accepted manifest only at the completion of its MAC job while AUTHENTICATING, with the MAC of the received bytes
under the device key equal to the expected one, and then holds the received header's fields, whose version is not below the
target's floor (R12, R14, R19). -/
def Obligations.OnlyAuthenticatedManifestsAreAccepted : Prop :=
  ∀ (c : Instr) (s t : State) (i : StreamNo) (m : Accepted), exec c s = .next t → t.streams[i].manifest = some m →
    s.streams[i].manifest ≠ some m → c = .macJobDone ∧ s.engine.fifo.head? = some (.mac i) ∧
      s.streams[i].state = .authenticating ∧
      s.manifests[i].expectedMac = some (hmacSha256 (deviceKey s.nvm) (manifestBytes s i)) ∧
      m = (readHeader s.manifests[i].header.toList).accepted ∧
      (floorOf s.store.governing m.target).toNat ≤ m.version.toNat
end

