-- ==== Sys2Proof/Laws/Memory.lean ====
section
/-! SUPPORT. What the memory operations read back as, and that each keeps the canonical form. -/

namespace Sys2Proof.Machine

/-! ## The canonical form -/

/-- Every cell of a canonical memory's tail lies above its head. -/
theorem Memory.wf_cons {d : Byte} {k : Nat} {v : Byte} {m : Memory} :
    Memory.wf d ((k, v) :: m) = true ↔ v ≠ d ∧ (∀ c ∈ m, k < c.1) ∧ Memory.wf d m = true := by
  simp [Memory.wf, and_assoc]

/-- Writing a byte adds no address but its own. -/
theorem Memory.mem_write {d : Byte} {m : Memory} {a : Nat} {v : Byte} {c : Host.Cell} (h : c ∈ m.write d a v) :
    c ∈ m ∨ c.1 = a := by
  induction m with
  | nil => simp only [Memory.write] at h; split at h <;> simp_all
  | cons x m ih =>
    obtain ⟨k, w⟩ := x
    simp only [Memory.write] at h
    repeat' split at h
    all_goals simp only [List.mem_cons] at h ⊢
    · exact .inl h
    · rcases h with h | h
      · exact .inr (by simp [h])
      · exact .inl h
    · exact .inl (.inr h)
    · rcases h with h | h
      · exact .inr (by simp [h])
      · exact .inl (.inr h)
    · rcases h with h | h
      · exact .inl (.inl h)
      · rcases ih h with h | h
        · exact .inl (.inr h)
        · exact .inr h

/-- Writing a byte keeps the canonical form. -/
theorem Memory.wf_write {d : Byte} {m : Memory} (h : m.wf d = true) (a : Nat) (v : Byte) : (m.write d a v).wf d = true := by
  induction m with
  | nil => simp only [Memory.write]; split <;> simp_all [Memory.wf]
  | cons x m ih =>
    obtain ⟨k, w⟩ := x
    obtain ⟨h1, h2, h3⟩ := Memory.wf_cons.mp h
    simp only [Memory.write]
    repeat' split
    · exact h
    · rename_i hk hv
      refine Memory.wf_cons.mpr ⟨hv, ?_, h⟩
      intro c hc; rcases List.mem_cons.mp hc with hc | hc
      · simp [hc, hk]
      · exact Nat.lt_trans hk (h2 c hc)
    · exact h3
    · rename_i hk hv; subst hk
      exact Memory.wf_cons.mpr ⟨by assumption, h2, h3⟩
    · refine Memory.wf_cons.mpr ⟨h1, ?_, ih h3⟩
      intro c hc; rcases Memory.mem_write hc with hc | hc
      · exact h2 c hc
      · omega

/-- Writing several bytes keeps the canonical form. -/
theorem Memory.wf_writeAll {d : Byte} {m : Memory} (h : m.wf d = true) (a : Nat) (vs : List Byte) :
    (m.writeAll d a vs).wf d = true := by
  induction vs generalizing m a with
  | nil => exact h
  | cons v vs ih => exact ih (Memory.wf_write h a v) (a + 1)

/-- Dropping cells keeps the canonical form. -/
theorem Memory.wf_filter {d : Byte} {m : Memory} (h : m.wf d = true) (p : Host.Cell → Bool) :
    Memory.wf d (m.filter p) = true := by
  induction m with
  | nil => rfl
  | cons x m ih =>
    obtain ⟨k, w⟩ := x
    obtain ⟨h1, h2, h3⟩ := Memory.wf_cons.mp h
    simp only [List.filter]
    split
    · exact Memory.wf_cons.mpr ⟨h1, fun c hc => h2 c (List.mem_filter.mp hc).1, ih h3⟩
    · exact ih h3

/-- Clearing a range keeps the canonical form. -/
theorem Memory.wf_clear {d : Byte} {m : Memory} (h : m.wf d = true) (a n : Nat) : (m.clear a n).wf d = true :=
  Memory.wf_filter h _

/-! ## Reading back -/

/-- Below every cell a memory reads its default. -/
theorem Memory.read_below {d : Byte} {m : Memory} {a : Nat} (h : ∀ c ∈ m, a < c.1) : m.read d a = d := by
  induction m with
  | nil => rfl
  | cons x m ih =>
    obtain ⟨k, w⟩ := x
    have := h (k, w) (by simp)
    simp only [Memory.read]
    rw [if_neg (by omega)]
    exact ih fun c hc => h c (by simp [hc])

/-- What a canonical memory reads after a byte is written. -/
theorem Memory.read_write {d : Byte} {m : Memory} (h : m.wf d = true) (a b : Nat) (v : Byte) :
    (m.write d a v).read d b = if b = a then v else m.read d b := by
  induction m with
  | nil => simp only [Memory.write]; split <;> simp_all [Memory.read]
  | cons x m ih =>
    obtain ⟨k, w⟩ := x
    obtain ⟨h1, h2, h3⟩ := Memory.wf_cons.mp h
    simp only [Memory.write]
    repeat' split
    · rename_i hk hv hb; subst hv; subst hb
      exact Memory.read_below fun c hc => by
        rcases List.mem_cons.mp hc with hc | hc
        · simp [hc, hk]
        · exact Nat.lt_trans hk (h2 c hc)
    · rfl
    · simp_all [Memory.read]
    · simp_all [Memory.read]
    · rename_i hk hv hb; subst hb; subst hv; subst hk
      exact Memory.read_below h2
    · rename_i hk hv hb; subst hk; simp [Memory.read, hb]
    · simp_all [Memory.read]
    · simp_all [Memory.read]
    · rename_i hk hb
      simp only [Memory.read, ih h3]
      rw [if_neg (by omega)]; simp [hb]
    · rename_i hk hb
      simp only [Memory.read, ih h3, if_neg hb]

/-- What a canonical memory reads after several bytes are written. -/
theorem Memory.read_writeAll {d : Byte} {m : Memory} (h : m.wf d = true) (a b : Nat) (vs : List Byte) :
    (m.writeAll d a vs).read d b = if h : a ≤ b ∧ b < a + vs.length then vs[b - a]'(by omega) else m.read d b := by
  induction vs generalizing m a with
  | nil => simp [Memory.writeAll]
  | cons v vs ih =>
    simp only [Memory.writeAll, ih (Memory.wf_write h a v), Memory.read_write h, List.length_cons]
    by_cases h1 : b = a
    · subst h1; simp
    · by_cases h2 : a + 1 ≤ b ∧ b < a + 1 + vs.length
      · have h3 : a ≤ b ∧ b < a + (vs.length + 1) := by omega
        rw [dif_pos h2, dif_pos h3]
        obtain ⟨n, hn⟩ : ∃ n, b - a = n + 1 := ⟨b - a - 1, by omega⟩
        simp [hn, show b - (a + 1) = n by omega]
      · rw [dif_neg h2, dif_neg (by omega), if_neg h1]

/-- What a canonical memory reads after a range is cleared. -/
theorem Memory.read_clear {d : Byte} {m : Memory} (h : m.wf d = true) (a n b : Nat) :
    (m.clear a n).read d b = if a ≤ b ∧ b < a + n then d else m.read d b := by
  induction m with
  | nil => simp [Memory.clear, Memory.read]
  | cons x m ih =>
    obtain ⟨k, w⟩ := x
    obtain ⟨h1, h2, h3⟩ := Memory.wf_cons.mp h
    have ih := ih h3
    by_cases hk : a ≤ k ∧ k < a + n
    · have e : Memory.clear ((k, w) :: m) a n = Memory.clear m a n := by
        simp [Memory.clear, List.filter, hk]
      rw [e, ih]
      split
      · rfl
      · simp only [Memory.read]; rw [if_neg (by omega)]
    · have e : Memory.clear ((k, w) :: m) a n = (k, w) :: Memory.clear m a n := by
        have : ¬ (a ≤ k ∧ k < a + n) := hk
        simp only [Memory.clear, List.filter]
        split
        · rfl
        · rename_i hx; simp at hx; omega
      rw [e]; simp only [Memory.read, ih]
      by_cases hb : b = k
      · subst hb; simp [hk]
      · simp [hb]

/-- What a listed address of a canonical memory reads. -/
theorem Memory.read_mem {d : Byte} {m : Memory} (h : m.wf d = true) {k : Nat} {v : Byte} (hk : (k, v) ∈ m) : m.read d k = v := by
  induction m with
  | nil => cases hk
  | cons x m ih =>
    obtain ⟨j, w⟩ := x
    obtain ⟨_, h2, h3⟩ := Memory.wf_cons.mp h
    simp only [Memory.read]
    rcases List.mem_cons.mp hk with e | hk
    · injection e with e1 e2; rw [if_pos e1, e2]
    · rw [if_neg (Nat.ne_of_gt (h2 _ hk)), ih h3 hk]

/-- An address that is not listed reads the default. -/
theorem Memory.read_unlisted {d : Byte} {m : Memory} {a : Nat} (h : ∀ c ∈ m, c.1 ≠ a) : m.read d a = d := by
  induction m with
  | nil => rfl
  | cons x m ih =>
    simp only [Memory.read]
    rw [if_neg (Ne.symm (h x (by simp)))]; exact ih fun c hc => h c (by simp [hc])

/-- A range of a canonical memory is clear when every byte of it reads the default. -/
theorem Memory.isClear_iff {d : Byte} {m : Memory} (h : m.wf d = true) (a n : Nat) :
    m.isClear d a n = true ↔ ∀ b, b < n → m.read d (a + b) = d := by
  unfold Memory.isClear; rw [List.all_eq_true]
  constructor
  · intro hc b hb
    by_cases hl : ∃ c ∈ m, c.1 = a + b
    · obtain ⟨⟨k, v⟩, hm, rfl⟩ := hl
      have := hc _ hm
      rw [Memory.read_mem h hm]
      simp [show b < n from hb] at this; exact this
    · exact Memory.read_unlisted fun c hm e => hl ⟨c, hm, e⟩
  · rintro hr ⟨k, v⟩ hm
    by_cases hk : a ≤ k ∧ k < a + n
    · have := hr (k - a) (by omega)
      rw [Nat.add_sub_cancel' hk.1, Memory.read_mem h hm] at this
      simp [this]
    · simp only [Bool.or_eq_true, Bool.not_eq_true', Bool.and_eq_false_iff, decide_eq_false_iff_not, beq_iff_eq]
      left; omega

/-- Two memories that read the same over a range give the same bytes of it. -/
theorem Memory.readAll_congr {d : Byte} {m m' : Memory} {a n : Nat} (h : ∀ b, b < n → m'.read d (a + b) = m.read d (a + b)) :
    m'.readAll d a n = m.readAll d a n :=
  List.map_congr_left fun b hb => h b (List.mem_range.mp hb)

/-- An empty memory is canonical. -/
@[simp] theorem Memory.wf_nil (d : Byte) : Memory.wf d [] = true := rfl

end Sys2Proof.Machine
end

