-- ==== Sys2Proof/Laws/State.lean ====
section
/-! SUPPORT. One lemma per field per update of the state: what the update writes, and that every other field is kept. -/

namespace Sys2Proof.Machine

variable (s : State)

@[simp] theorem State.withPhase_phase (x : Phase) : (s.withPhase x).phase = x := rfl
@[simp] theorem State.withPhase_pins (x : Phase) : (s.withPhase x).pins = s.pins := rfl
@[simp] theorem State.withPhase_supply (x : Phase) : (s.withPhase x).supply = s.supply := rfl
@[simp] theorem State.withPhase_params (x : Phase) : (s.withPhase x).params = s.params := rfl
@[simp] theorem State.withPhase_interp (x : Phase) : (s.withPhase x).interp = s.interp := rfl
@[simp] theorem State.withPhase_lanes (x : Phase) : (s.withPhase x).lanes = s.lanes := rfl
@[simp] theorem State.withPhase_trunk (x : Phase) : (s.withPhase x).trunk = s.trunk := rfl
@[simp] theorem State.withPhase_streams (x : Phase) : (s.withPhase x).streams = s.streams := rfl
@[simp] theorem State.withPhase_manifests (x : Phase) : (s.withPhase x).manifests = s.manifests := rfl
@[simp] theorem State.withPhase_entryBytes (x : Phase) : (s.withPhase x).entryBytes = s.entryBytes := rfl
@[simp] theorem State.withPhase_entryCounts (x : Phase) : (s.withPhase x).entryCounts = s.entryCounts := rfl
@[simp] theorem State.withPhase_slots (x : Phase) : (s.withPhase x).slots = s.slots := rfl
@[simp] theorem State.withPhase_staging (x : Phase) : (s.withPhase x).staging = s.staging := rfl
@[simp] theorem State.withPhase_engine (x : Phase) : (s.withPhase x).engine = s.engine := rfl
@[simp] theorem State.withPhase_contexts (x : Phase) : (s.withPhase x).contexts = s.contexts := rfl
@[simp] theorem State.withPhase_ports (x : Phase) : (s.withPhase x).ports = s.ports := rfl
@[simp] theorem State.withPhase_store (x : Phase) : (s.withPhase x).store = s.store := rfl
@[simp] theorem State.withPhase_nvm (x : Phase) : (s.withPhase x).nvm = s.nvm := rfl
@[simp] theorem State.withPhase_report (x : Phase) : (s.withPhase x).report = s.report := rfl
@[simp] theorem State.withPhase_counters (x : Phase) : (s.withPhase x).counters = s.counters := rfl
@[simp] theorem State.withPhase_snapshot (x : Phase) : (s.withPhase x).snapshot = s.snapshot := rfl
@[simp] theorem State.withPhase_freeIndex (x : Phase) : (s.withPhase x).freeIndex = s.freeIndex := rfl
@[simp] theorem State.withPhase_pending (x : Phase) : (s.withPhase x).pending = s.pending := rfl

@[simp] theorem State.withPins_phase (x : Pins) : (s.withPins x).phase = s.phase := rfl
@[simp] theorem State.withPins_pins (x : Pins) : (s.withPins x).pins = x := rfl
@[simp] theorem State.withPins_supply (x : Pins) : (s.withPins x).supply = s.supply := rfl
@[simp] theorem State.withPins_params (x : Pins) : (s.withPins x).params = s.params := rfl
@[simp] theorem State.withPins_interp (x : Pins) : (s.withPins x).interp = s.interp := rfl
@[simp] theorem State.withPins_lanes (x : Pins) : (s.withPins x).lanes = s.lanes := rfl
@[simp] theorem State.withPins_trunk (x : Pins) : (s.withPins x).trunk = s.trunk := rfl
@[simp] theorem State.withPins_streams (x : Pins) : (s.withPins x).streams = s.streams := rfl
@[simp] theorem State.withPins_manifests (x : Pins) : (s.withPins x).manifests = s.manifests := rfl
@[simp] theorem State.withPins_entryBytes (x : Pins) : (s.withPins x).entryBytes = s.entryBytes := rfl
@[simp] theorem State.withPins_entryCounts (x : Pins) : (s.withPins x).entryCounts = s.entryCounts := rfl
@[simp] theorem State.withPins_slots (x : Pins) : (s.withPins x).slots = s.slots := rfl
@[simp] theorem State.withPins_staging (x : Pins) : (s.withPins x).staging = s.staging := rfl
@[simp] theorem State.withPins_engine (x : Pins) : (s.withPins x).engine = s.engine := rfl
@[simp] theorem State.withPins_contexts (x : Pins) : (s.withPins x).contexts = s.contexts := rfl
@[simp] theorem State.withPins_ports (x : Pins) : (s.withPins x).ports = s.ports := rfl
@[simp] theorem State.withPins_store (x : Pins) : (s.withPins x).store = s.store := rfl
@[simp] theorem State.withPins_nvm (x : Pins) : (s.withPins x).nvm = s.nvm := rfl
@[simp] theorem State.withPins_report (x : Pins) : (s.withPins x).report = s.report := rfl
@[simp] theorem State.withPins_counters (x : Pins) : (s.withPins x).counters = s.counters := rfl
@[simp] theorem State.withPins_snapshot (x : Pins) : (s.withPins x).snapshot = s.snapshot := rfl
@[simp] theorem State.withPins_freeIndex (x : Pins) : (s.withPins x).freeIndex = s.freeIndex := rfl
@[simp] theorem State.withPins_pending (x : Pins) : (s.withPins x).pending = s.pending := rfl

@[simp] theorem State.withSupply_phase (x : Supply) : (s.withSupply x).phase = s.phase := rfl
@[simp] theorem State.withSupply_pins (x : Supply) : (s.withSupply x).pins = s.pins := rfl
@[simp] theorem State.withSupply_supply (x : Supply) : (s.withSupply x).supply = x := rfl
@[simp] theorem State.withSupply_params (x : Supply) : (s.withSupply x).params = s.params := rfl
@[simp] theorem State.withSupply_interp (x : Supply) : (s.withSupply x).interp = s.interp := rfl
@[simp] theorem State.withSupply_lanes (x : Supply) : (s.withSupply x).lanes = s.lanes := rfl
@[simp] theorem State.withSupply_trunk (x : Supply) : (s.withSupply x).trunk = s.trunk := rfl
@[simp] theorem State.withSupply_streams (x : Supply) : (s.withSupply x).streams = s.streams := rfl
@[simp] theorem State.withSupply_manifests (x : Supply) : (s.withSupply x).manifests = s.manifests := rfl
@[simp] theorem State.withSupply_entryBytes (x : Supply) : (s.withSupply x).entryBytes = s.entryBytes := rfl
@[simp] theorem State.withSupply_entryCounts (x : Supply) : (s.withSupply x).entryCounts = s.entryCounts := rfl
@[simp] theorem State.withSupply_slots (x : Supply) : (s.withSupply x).slots = s.slots := rfl
@[simp] theorem State.withSupply_staging (x : Supply) : (s.withSupply x).staging = s.staging := rfl
@[simp] theorem State.withSupply_engine (x : Supply) : (s.withSupply x).engine = s.engine := rfl
@[simp] theorem State.withSupply_contexts (x : Supply) : (s.withSupply x).contexts = s.contexts := rfl
@[simp] theorem State.withSupply_ports (x : Supply) : (s.withSupply x).ports = s.ports := rfl
@[simp] theorem State.withSupply_store (x : Supply) : (s.withSupply x).store = s.store := rfl
@[simp] theorem State.withSupply_nvm (x : Supply) : (s.withSupply x).nvm = s.nvm := rfl
@[simp] theorem State.withSupply_report (x : Supply) : (s.withSupply x).report = s.report := rfl
@[simp] theorem State.withSupply_counters (x : Supply) : (s.withSupply x).counters = s.counters := rfl
@[simp] theorem State.withSupply_snapshot (x : Supply) : (s.withSupply x).snapshot = s.snapshot := rfl
@[simp] theorem State.withSupply_freeIndex (x : Supply) : (s.withSupply x).freeIndex = s.freeIndex := rfl
@[simp] theorem State.withSupply_pending (x : Supply) : (s.withSupply x).pending = s.pending := rfl

@[simp] theorem State.withParams_phase (x : Params) : (s.withParams x).phase = s.phase := rfl
@[simp] theorem State.withParams_pins (x : Params) : (s.withParams x).pins = s.pins := rfl
@[simp] theorem State.withParams_supply (x : Params) : (s.withParams x).supply = s.supply := rfl
@[simp] theorem State.withParams_params (x : Params) : (s.withParams x).params = x := rfl
@[simp] theorem State.withParams_interp (x : Params) : (s.withParams x).interp = s.interp := rfl
@[simp] theorem State.withParams_lanes (x : Params) : (s.withParams x).lanes = s.lanes := rfl
@[simp] theorem State.withParams_trunk (x : Params) : (s.withParams x).trunk = s.trunk := rfl
@[simp] theorem State.withParams_streams (x : Params) : (s.withParams x).streams = s.streams := rfl
@[simp] theorem State.withParams_manifests (x : Params) : (s.withParams x).manifests = s.manifests := rfl
@[simp] theorem State.withParams_entryBytes (x : Params) : (s.withParams x).entryBytes = s.entryBytes := rfl
@[simp] theorem State.withParams_entryCounts (x : Params) : (s.withParams x).entryCounts = s.entryCounts := rfl
@[simp] theorem State.withParams_slots (x : Params) : (s.withParams x).slots = s.slots := rfl
@[simp] theorem State.withParams_staging (x : Params) : (s.withParams x).staging = s.staging := rfl
@[simp] theorem State.withParams_engine (x : Params) : (s.withParams x).engine = s.engine := rfl
@[simp] theorem State.withParams_contexts (x : Params) : (s.withParams x).contexts = s.contexts := rfl
@[simp] theorem State.withParams_ports (x : Params) : (s.withParams x).ports = s.ports := rfl
@[simp] theorem State.withParams_store (x : Params) : (s.withParams x).store = s.store := rfl
@[simp] theorem State.withParams_nvm (x : Params) : (s.withParams x).nvm = s.nvm := rfl
@[simp] theorem State.withParams_report (x : Params) : (s.withParams x).report = s.report := rfl
@[simp] theorem State.withParams_counters (x : Params) : (s.withParams x).counters = s.counters := rfl
@[simp] theorem State.withParams_snapshot (x : Params) : (s.withParams x).snapshot = s.snapshot := rfl
@[simp] theorem State.withParams_freeIndex (x : Params) : (s.withParams x).freeIndex = s.freeIndex := rfl
@[simp] theorem State.withParams_pending (x : Params) : (s.withParams x).pending = s.pending := rfl

@[simp] theorem State.withInterp_phase (x : Interp) : (s.withInterp x).phase = s.phase := rfl
@[simp] theorem State.withInterp_pins (x : Interp) : (s.withInterp x).pins = s.pins := rfl
@[simp] theorem State.withInterp_supply (x : Interp) : (s.withInterp x).supply = s.supply := rfl
@[simp] theorem State.withInterp_params (x : Interp) : (s.withInterp x).params = s.params := rfl
@[simp] theorem State.withInterp_interp (x : Interp) : (s.withInterp x).interp = x := rfl
@[simp] theorem State.withInterp_lanes (x : Interp) : (s.withInterp x).lanes = s.lanes := rfl
@[simp] theorem State.withInterp_trunk (x : Interp) : (s.withInterp x).trunk = s.trunk := rfl
@[simp] theorem State.withInterp_streams (x : Interp) : (s.withInterp x).streams = s.streams := rfl
@[simp] theorem State.withInterp_manifests (x : Interp) : (s.withInterp x).manifests = s.manifests := rfl
@[simp] theorem State.withInterp_entryBytes (x : Interp) : (s.withInterp x).entryBytes = s.entryBytes := rfl
@[simp] theorem State.withInterp_entryCounts (x : Interp) : (s.withInterp x).entryCounts = s.entryCounts := rfl
@[simp] theorem State.withInterp_slots (x : Interp) : (s.withInterp x).slots = s.slots := rfl
@[simp] theorem State.withInterp_staging (x : Interp) : (s.withInterp x).staging = s.staging := rfl
@[simp] theorem State.withInterp_engine (x : Interp) : (s.withInterp x).engine = s.engine := rfl
@[simp] theorem State.withInterp_contexts (x : Interp) : (s.withInterp x).contexts = s.contexts := rfl
@[simp] theorem State.withInterp_ports (x : Interp) : (s.withInterp x).ports = s.ports := rfl
@[simp] theorem State.withInterp_store (x : Interp) : (s.withInterp x).store = s.store := rfl
@[simp] theorem State.withInterp_nvm (x : Interp) : (s.withInterp x).nvm = s.nvm := rfl
@[simp] theorem State.withInterp_report (x : Interp) : (s.withInterp x).report = s.report := rfl
@[simp] theorem State.withInterp_counters (x : Interp) : (s.withInterp x).counters = s.counters := rfl
@[simp] theorem State.withInterp_snapshot (x : Interp) : (s.withInterp x).snapshot = s.snapshot := rfl
@[simp] theorem State.withInterp_freeIndex (x : Interp) : (s.withInterp x).freeIndex = s.freeIndex := rfl
@[simp] theorem State.withInterp_pending (x : Interp) : (s.withInterp x).pending = s.pending := rfl

@[simp] theorem State.setLane_phase (l : Lane) (x : LaneRx) : (s.setLane l x).phase = s.phase := rfl
@[simp] theorem State.setLane_pins (l : Lane) (x : LaneRx) : (s.setLane l x).pins = s.pins := rfl
@[simp] theorem State.setLane_supply (l : Lane) (x : LaneRx) : (s.setLane l x).supply = s.supply := rfl
@[simp] theorem State.setLane_params (l : Lane) (x : LaneRx) : (s.setLane l x).params = s.params := rfl
@[simp] theorem State.setLane_interp (l : Lane) (x : LaneRx) : (s.setLane l x).interp = s.interp := rfl
@[simp] theorem State.setLane_lanes (l : Lane) (x : LaneRx) : (s.setLane l x).lanes = s.lanes.set l x := rfl
@[simp] theorem State.setLane_trunk (l : Lane) (x : LaneRx) : (s.setLane l x).trunk = s.trunk := rfl
@[simp] theorem State.setLane_streams (l : Lane) (x : LaneRx) : (s.setLane l x).streams = s.streams := rfl
@[simp] theorem State.setLane_manifests (l : Lane) (x : LaneRx) : (s.setLane l x).manifests = s.manifests := rfl
@[simp] theorem State.setLane_entryBytes (l : Lane) (x : LaneRx) : (s.setLane l x).entryBytes = s.entryBytes := rfl
@[simp] theorem State.setLane_entryCounts (l : Lane) (x : LaneRx) : (s.setLane l x).entryCounts = s.entryCounts := rfl
@[simp] theorem State.setLane_slots (l : Lane) (x : LaneRx) : (s.setLane l x).slots = s.slots := rfl
@[simp] theorem State.setLane_staging (l : Lane) (x : LaneRx) : (s.setLane l x).staging = s.staging := rfl
@[simp] theorem State.setLane_engine (l : Lane) (x : LaneRx) : (s.setLane l x).engine = s.engine := rfl
@[simp] theorem State.setLane_contexts (l : Lane) (x : LaneRx) : (s.setLane l x).contexts = s.contexts := rfl
@[simp] theorem State.setLane_ports (l : Lane) (x : LaneRx) : (s.setLane l x).ports = s.ports := rfl
@[simp] theorem State.setLane_store (l : Lane) (x : LaneRx) : (s.setLane l x).store = s.store := rfl
@[simp] theorem State.setLane_nvm (l : Lane) (x : LaneRx) : (s.setLane l x).nvm = s.nvm := rfl
@[simp] theorem State.setLane_report (l : Lane) (x : LaneRx) : (s.setLane l x).report = s.report := rfl
@[simp] theorem State.setLane_counters (l : Lane) (x : LaneRx) : (s.setLane l x).counters = s.counters := rfl
@[simp] theorem State.setLane_snapshot (l : Lane) (x : LaneRx) : (s.setLane l x).snapshot = s.snapshot := rfl
@[simp] theorem State.setLane_freeIndex (l : Lane) (x : LaneRx) : (s.setLane l x).freeIndex = s.freeIndex := rfl
@[simp] theorem State.setLane_pending (l : Lane) (x : LaneRx) : (s.setLane l x).pending = s.pending := rfl

@[simp] theorem State.setTrunk_phase (l : Lane) (x : TrunkTx) : (s.setTrunk l x).phase = s.phase := rfl
@[simp] theorem State.setTrunk_pins (l : Lane) (x : TrunkTx) : (s.setTrunk l x).pins = s.pins := rfl
@[simp] theorem State.setTrunk_supply (l : Lane) (x : TrunkTx) : (s.setTrunk l x).supply = s.supply := rfl
@[simp] theorem State.setTrunk_params (l : Lane) (x : TrunkTx) : (s.setTrunk l x).params = s.params := rfl
@[simp] theorem State.setTrunk_interp (l : Lane) (x : TrunkTx) : (s.setTrunk l x).interp = s.interp := rfl
@[simp] theorem State.setTrunk_lanes (l : Lane) (x : TrunkTx) : (s.setTrunk l x).lanes = s.lanes := rfl
@[simp] theorem State.setTrunk_trunk (l : Lane) (x : TrunkTx) : (s.setTrunk l x).trunk = s.trunk.set l x := rfl
@[simp] theorem State.setTrunk_streams (l : Lane) (x : TrunkTx) : (s.setTrunk l x).streams = s.streams := rfl
@[simp] theorem State.setTrunk_manifests (l : Lane) (x : TrunkTx) : (s.setTrunk l x).manifests = s.manifests := rfl
@[simp] theorem State.setTrunk_entryBytes (l : Lane) (x : TrunkTx) : (s.setTrunk l x).entryBytes = s.entryBytes := rfl
@[simp] theorem State.setTrunk_entryCounts (l : Lane) (x : TrunkTx) : (s.setTrunk l x).entryCounts = s.entryCounts := rfl
@[simp] theorem State.setTrunk_slots (l : Lane) (x : TrunkTx) : (s.setTrunk l x).slots = s.slots := rfl
@[simp] theorem State.setTrunk_staging (l : Lane) (x : TrunkTx) : (s.setTrunk l x).staging = s.staging := rfl
@[simp] theorem State.setTrunk_engine (l : Lane) (x : TrunkTx) : (s.setTrunk l x).engine = s.engine := rfl
@[simp] theorem State.setTrunk_contexts (l : Lane) (x : TrunkTx) : (s.setTrunk l x).contexts = s.contexts := rfl
@[simp] theorem State.setTrunk_ports (l : Lane) (x : TrunkTx) : (s.setTrunk l x).ports = s.ports := rfl
@[simp] theorem State.setTrunk_store (l : Lane) (x : TrunkTx) : (s.setTrunk l x).store = s.store := rfl
@[simp] theorem State.setTrunk_nvm (l : Lane) (x : TrunkTx) : (s.setTrunk l x).nvm = s.nvm := rfl
@[simp] theorem State.setTrunk_report (l : Lane) (x : TrunkTx) : (s.setTrunk l x).report = s.report := rfl
@[simp] theorem State.setTrunk_counters (l : Lane) (x : TrunkTx) : (s.setTrunk l x).counters = s.counters := rfl
@[simp] theorem State.setTrunk_snapshot (l : Lane) (x : TrunkTx) : (s.setTrunk l x).snapshot = s.snapshot := rfl
@[simp] theorem State.setTrunk_freeIndex (l : Lane) (x : TrunkTx) : (s.setTrunk l x).freeIndex = s.freeIndex := rfl
@[simp] theorem State.setTrunk_pending (l : Lane) (x : TrunkTx) : (s.setTrunk l x).pending = s.pending := rfl

@[simp] theorem State.setStream_phase (i : StreamNo) (x : Stream) : (s.setStream i x).phase = s.phase := rfl
@[simp] theorem State.setStream_pins (i : StreamNo) (x : Stream) : (s.setStream i x).pins = s.pins := rfl
@[simp] theorem State.setStream_supply (i : StreamNo) (x : Stream) : (s.setStream i x).supply = s.supply := rfl
@[simp] theorem State.setStream_params (i : StreamNo) (x : Stream) : (s.setStream i x).params = s.params := rfl
@[simp] theorem State.setStream_interp (i : StreamNo) (x : Stream) : (s.setStream i x).interp = s.interp := rfl
@[simp] theorem State.setStream_lanes (i : StreamNo) (x : Stream) : (s.setStream i x).lanes = s.lanes := rfl
@[simp] theorem State.setStream_trunk (i : StreamNo) (x : Stream) : (s.setStream i x).trunk = s.trunk := rfl
@[simp] theorem State.setStream_streams (i : StreamNo) (x : Stream) : (s.setStream i x).streams = s.streams.set i x := rfl
@[simp] theorem State.setStream_manifests (i : StreamNo) (x : Stream) : (s.setStream i x).manifests = s.manifests := rfl
@[simp] theorem State.setStream_entryBytes (i : StreamNo) (x : Stream) : (s.setStream i x).entryBytes = s.entryBytes := rfl
@[simp] theorem State.setStream_entryCounts (i : StreamNo) (x : Stream) : (s.setStream i x).entryCounts = s.entryCounts := rfl
@[simp] theorem State.setStream_slots (i : StreamNo) (x : Stream) : (s.setStream i x).slots = s.slots := rfl
@[simp] theorem State.setStream_staging (i : StreamNo) (x : Stream) : (s.setStream i x).staging = s.staging := rfl
@[simp] theorem State.setStream_engine (i : StreamNo) (x : Stream) : (s.setStream i x).engine = s.engine := rfl
@[simp] theorem State.setStream_contexts (i : StreamNo) (x : Stream) : (s.setStream i x).contexts = s.contexts := rfl
@[simp] theorem State.setStream_ports (i : StreamNo) (x : Stream) : (s.setStream i x).ports = s.ports := rfl
@[simp] theorem State.setStream_store (i : StreamNo) (x : Stream) : (s.setStream i x).store = s.store := rfl
@[simp] theorem State.setStream_nvm (i : StreamNo) (x : Stream) : (s.setStream i x).nvm = s.nvm := rfl
@[simp] theorem State.setStream_report (i : StreamNo) (x : Stream) : (s.setStream i x).report = s.report := rfl
@[simp] theorem State.setStream_counters (i : StreamNo) (x : Stream) : (s.setStream i x).counters = s.counters := rfl
@[simp] theorem State.setStream_snapshot (i : StreamNo) (x : Stream) : (s.setStream i x).snapshot = s.snapshot := rfl
@[simp] theorem State.setStream_freeIndex (i : StreamNo) (x : Stream) : (s.setStream i x).freeIndex = s.freeIndex := rfl
@[simp] theorem State.setStream_pending (i : StreamNo) (x : Stream) : (s.setStream i x).pending = s.pending := rfl

@[simp] theorem State.setManifest_phase (i : StreamNo) (x : ManifestRec) : (s.setManifest i x).phase = s.phase := rfl
@[simp] theorem State.setManifest_pins (i : StreamNo) (x : ManifestRec) : (s.setManifest i x).pins = s.pins := rfl
@[simp] theorem State.setManifest_supply (i : StreamNo) (x : ManifestRec) : (s.setManifest i x).supply = s.supply := rfl
@[simp] theorem State.setManifest_params (i : StreamNo) (x : ManifestRec) : (s.setManifest i x).params = s.params := rfl
@[simp] theorem State.setManifest_interp (i : StreamNo) (x : ManifestRec) : (s.setManifest i x).interp = s.interp := rfl
@[simp] theorem State.setManifest_lanes (i : StreamNo) (x : ManifestRec) : (s.setManifest i x).lanes = s.lanes := rfl
@[simp] theorem State.setManifest_trunk (i : StreamNo) (x : ManifestRec) : (s.setManifest i x).trunk = s.trunk := rfl
@[simp] theorem State.setManifest_streams (i : StreamNo) (x : ManifestRec) : (s.setManifest i x).streams = s.streams := rfl
@[simp] theorem State.setManifest_manifests (i : StreamNo) (x : ManifestRec) : (s.setManifest i x).manifests = s.manifests.set i x := rfl
@[simp] theorem State.setManifest_entryBytes (i : StreamNo) (x : ManifestRec) : (s.setManifest i x).entryBytes = s.entryBytes := rfl
@[simp] theorem State.setManifest_entryCounts (i : StreamNo) (x : ManifestRec) : (s.setManifest i x).entryCounts = s.entryCounts := rfl
@[simp] theorem State.setManifest_slots (i : StreamNo) (x : ManifestRec) : (s.setManifest i x).slots = s.slots := rfl
@[simp] theorem State.setManifest_staging (i : StreamNo) (x : ManifestRec) : (s.setManifest i x).staging = s.staging := rfl
@[simp] theorem State.setManifest_engine (i : StreamNo) (x : ManifestRec) : (s.setManifest i x).engine = s.engine := rfl
@[simp] theorem State.setManifest_contexts (i : StreamNo) (x : ManifestRec) : (s.setManifest i x).contexts = s.contexts := rfl
@[simp] theorem State.setManifest_ports (i : StreamNo) (x : ManifestRec) : (s.setManifest i x).ports = s.ports := rfl
@[simp] theorem State.setManifest_store (i : StreamNo) (x : ManifestRec) : (s.setManifest i x).store = s.store := rfl
@[simp] theorem State.setManifest_nvm (i : StreamNo) (x : ManifestRec) : (s.setManifest i x).nvm = s.nvm := rfl
@[simp] theorem State.setManifest_report (i : StreamNo) (x : ManifestRec) : (s.setManifest i x).report = s.report := rfl
@[simp] theorem State.setManifest_counters (i : StreamNo) (x : ManifestRec) : (s.setManifest i x).counters = s.counters := rfl
@[simp] theorem State.setManifest_snapshot (i : StreamNo) (x : ManifestRec) : (s.setManifest i x).snapshot = s.snapshot := rfl
@[simp] theorem State.setManifest_freeIndex (i : StreamNo) (x : ManifestRec) : (s.setManifest i x).freeIndex = s.freeIndex := rfl
@[simp] theorem State.setManifest_pending (i : StreamNo) (x : ManifestRec) : (s.setManifest i x).pending = s.pending := rfl

@[simp] theorem State.withEntries_phase (b c : Memory) : (s.withEntries b c).phase = s.phase := rfl
@[simp] theorem State.withEntries_pins (b c : Memory) : (s.withEntries b c).pins = s.pins := rfl
@[simp] theorem State.withEntries_supply (b c : Memory) : (s.withEntries b c).supply = s.supply := rfl
@[simp] theorem State.withEntries_params (b c : Memory) : (s.withEntries b c).params = s.params := rfl
@[simp] theorem State.withEntries_interp (b c : Memory) : (s.withEntries b c).interp = s.interp := rfl
@[simp] theorem State.withEntries_lanes (b c : Memory) : (s.withEntries b c).lanes = s.lanes := rfl
@[simp] theorem State.withEntries_trunk (b c : Memory) : (s.withEntries b c).trunk = s.trunk := rfl
@[simp] theorem State.withEntries_streams (b c : Memory) : (s.withEntries b c).streams = s.streams := rfl
@[simp] theorem State.withEntries_manifests (b c : Memory) : (s.withEntries b c).manifests = s.manifests := rfl
@[simp] theorem State.withEntries_entryBytes (b c : Memory) : (s.withEntries b c).entryBytes = b := rfl
@[simp] theorem State.withEntries_entryCounts (b c : Memory) : (s.withEntries b c).entryCounts = c := rfl
@[simp] theorem State.withEntries_slots (b c : Memory) : (s.withEntries b c).slots = s.slots := rfl
@[simp] theorem State.withEntries_staging (b c : Memory) : (s.withEntries b c).staging = s.staging := rfl
@[simp] theorem State.withEntries_engine (b c : Memory) : (s.withEntries b c).engine = s.engine := rfl
@[simp] theorem State.withEntries_contexts (b c : Memory) : (s.withEntries b c).contexts = s.contexts := rfl
@[simp] theorem State.withEntries_ports (b c : Memory) : (s.withEntries b c).ports = s.ports := rfl
@[simp] theorem State.withEntries_store (b c : Memory) : (s.withEntries b c).store = s.store := rfl
@[simp] theorem State.withEntries_nvm (b c : Memory) : (s.withEntries b c).nvm = s.nvm := rfl
@[simp] theorem State.withEntries_report (b c : Memory) : (s.withEntries b c).report = s.report := rfl
@[simp] theorem State.withEntries_counters (b c : Memory) : (s.withEntries b c).counters = s.counters := rfl
@[simp] theorem State.withEntries_snapshot (b c : Memory) : (s.withEntries b c).snapshot = s.snapshot := rfl
@[simp] theorem State.withEntries_freeIndex (b c : Memory) : (s.withEntries b c).freeIndex = s.freeIndex := rfl
@[simp] theorem State.withEntries_pending (b c : Memory) : (s.withEntries b c).pending = s.pending := rfl

@[simp] theorem State.setSlot_phase (k : SlotNo) (x : Slot) : (s.setSlot k x).phase = s.phase := rfl
@[simp] theorem State.setSlot_pins (k : SlotNo) (x : Slot) : (s.setSlot k x).pins = s.pins := rfl
@[simp] theorem State.setSlot_supply (k : SlotNo) (x : Slot) : (s.setSlot k x).supply = s.supply := rfl
@[simp] theorem State.setSlot_params (k : SlotNo) (x : Slot) : (s.setSlot k x).params = s.params := rfl
@[simp] theorem State.setSlot_interp (k : SlotNo) (x : Slot) : (s.setSlot k x).interp = s.interp := rfl
@[simp] theorem State.setSlot_lanes (k : SlotNo) (x : Slot) : (s.setSlot k x).lanes = s.lanes := rfl
@[simp] theorem State.setSlot_trunk (k : SlotNo) (x : Slot) : (s.setSlot k x).trunk = s.trunk := rfl
@[simp] theorem State.setSlot_streams (k : SlotNo) (x : Slot) : (s.setSlot k x).streams = s.streams := rfl
@[simp] theorem State.setSlot_manifests (k : SlotNo) (x : Slot) : (s.setSlot k x).manifests = s.manifests := rfl
@[simp] theorem State.setSlot_entryBytes (k : SlotNo) (x : Slot) : (s.setSlot k x).entryBytes = s.entryBytes := rfl
@[simp] theorem State.setSlot_entryCounts (k : SlotNo) (x : Slot) : (s.setSlot k x).entryCounts = s.entryCounts := rfl
@[simp] theorem State.setSlot_slots (k : SlotNo) (x : Slot) : (s.setSlot k x).slots = s.slots.set k x := rfl
@[simp] theorem State.setSlot_staging (k : SlotNo) (x : Slot) : (s.setSlot k x).staging = s.staging := rfl
@[simp] theorem State.setSlot_engine (k : SlotNo) (x : Slot) : (s.setSlot k x).engine = s.engine := rfl
@[simp] theorem State.setSlot_contexts (k : SlotNo) (x : Slot) : (s.setSlot k x).contexts = s.contexts := rfl
@[simp] theorem State.setSlot_ports (k : SlotNo) (x : Slot) : (s.setSlot k x).ports = s.ports := rfl
@[simp] theorem State.setSlot_store (k : SlotNo) (x : Slot) : (s.setSlot k x).store = s.store := rfl
@[simp] theorem State.setSlot_nvm (k : SlotNo) (x : Slot) : (s.setSlot k x).nvm = s.nvm := rfl
@[simp] theorem State.setSlot_report (k : SlotNo) (x : Slot) : (s.setSlot k x).report = s.report := rfl
@[simp] theorem State.setSlot_counters (k : SlotNo) (x : Slot) : (s.setSlot k x).counters = s.counters := rfl
@[simp] theorem State.setSlot_snapshot (k : SlotNo) (x : Slot) : (s.setSlot k x).snapshot = s.snapshot := rfl
@[simp] theorem State.setSlot_freeIndex (k : SlotNo) (x : Slot) : (s.setSlot k x).freeIndex = s.freeIndex := rfl
@[simp] theorem State.setSlot_pending (k : SlotNo) (x : Slot) : (s.setSlot k x).pending = s.pending := rfl

@[simp] theorem State.withSlots_phase (x : Vector Slot 32) : (s.withSlots x).phase = s.phase := rfl
@[simp] theorem State.withSlots_pins (x : Vector Slot 32) : (s.withSlots x).pins = s.pins := rfl
@[simp] theorem State.withSlots_supply (x : Vector Slot 32) : (s.withSlots x).supply = s.supply := rfl
@[simp] theorem State.withSlots_params (x : Vector Slot 32) : (s.withSlots x).params = s.params := rfl
@[simp] theorem State.withSlots_interp (x : Vector Slot 32) : (s.withSlots x).interp = s.interp := rfl
@[simp] theorem State.withSlots_lanes (x : Vector Slot 32) : (s.withSlots x).lanes = s.lanes := rfl
@[simp] theorem State.withSlots_trunk (x : Vector Slot 32) : (s.withSlots x).trunk = s.trunk := rfl
@[simp] theorem State.withSlots_streams (x : Vector Slot 32) : (s.withSlots x).streams = s.streams := rfl
@[simp] theorem State.withSlots_manifests (x : Vector Slot 32) : (s.withSlots x).manifests = s.manifests := rfl
@[simp] theorem State.withSlots_entryBytes (x : Vector Slot 32) : (s.withSlots x).entryBytes = s.entryBytes := rfl
@[simp] theorem State.withSlots_entryCounts (x : Vector Slot 32) : (s.withSlots x).entryCounts = s.entryCounts := rfl
@[simp] theorem State.withSlots_slots (x : Vector Slot 32) : (s.withSlots x).slots = x := rfl
@[simp] theorem State.withSlots_staging (x : Vector Slot 32) : (s.withSlots x).staging = s.staging := rfl
@[simp] theorem State.withSlots_engine (x : Vector Slot 32) : (s.withSlots x).engine = s.engine := rfl
@[simp] theorem State.withSlots_contexts (x : Vector Slot 32) : (s.withSlots x).contexts = s.contexts := rfl
@[simp] theorem State.withSlots_ports (x : Vector Slot 32) : (s.withSlots x).ports = s.ports := rfl
@[simp] theorem State.withSlots_store (x : Vector Slot 32) : (s.withSlots x).store = s.store := rfl
@[simp] theorem State.withSlots_nvm (x : Vector Slot 32) : (s.withSlots x).nvm = s.nvm := rfl
@[simp] theorem State.withSlots_report (x : Vector Slot 32) : (s.withSlots x).report = s.report := rfl
@[simp] theorem State.withSlots_counters (x : Vector Slot 32) : (s.withSlots x).counters = s.counters := rfl
@[simp] theorem State.withSlots_snapshot (x : Vector Slot 32) : (s.withSlots x).snapshot = s.snapshot := rfl
@[simp] theorem State.withSlots_freeIndex (x : Vector Slot 32) : (s.withSlots x).freeIndex = s.freeIndex := rfl
@[simp] theorem State.withSlots_pending (x : Vector Slot 32) : (s.withSlots x).pending = s.pending := rfl

@[simp] theorem State.withStaging_phase (x : Memory) : (s.withStaging x).phase = s.phase := rfl
@[simp] theorem State.withStaging_pins (x : Memory) : (s.withStaging x).pins = s.pins := rfl
@[simp] theorem State.withStaging_supply (x : Memory) : (s.withStaging x).supply = s.supply := rfl
@[simp] theorem State.withStaging_params (x : Memory) : (s.withStaging x).params = s.params := rfl
@[simp] theorem State.withStaging_interp (x : Memory) : (s.withStaging x).interp = s.interp := rfl
@[simp] theorem State.withStaging_lanes (x : Memory) : (s.withStaging x).lanes = s.lanes := rfl
@[simp] theorem State.withStaging_trunk (x : Memory) : (s.withStaging x).trunk = s.trunk := rfl
@[simp] theorem State.withStaging_streams (x : Memory) : (s.withStaging x).streams = s.streams := rfl
@[simp] theorem State.withStaging_manifests (x : Memory) : (s.withStaging x).manifests = s.manifests := rfl
@[simp] theorem State.withStaging_entryBytes (x : Memory) : (s.withStaging x).entryBytes = s.entryBytes := rfl
@[simp] theorem State.withStaging_entryCounts (x : Memory) : (s.withStaging x).entryCounts = s.entryCounts := rfl
@[simp] theorem State.withStaging_slots (x : Memory) : (s.withStaging x).slots = s.slots := rfl
@[simp] theorem State.withStaging_staging (x : Memory) : (s.withStaging x).staging = x := rfl
@[simp] theorem State.withStaging_engine (x : Memory) : (s.withStaging x).engine = s.engine := rfl
@[simp] theorem State.withStaging_contexts (x : Memory) : (s.withStaging x).contexts = s.contexts := rfl
@[simp] theorem State.withStaging_ports (x : Memory) : (s.withStaging x).ports = s.ports := rfl
@[simp] theorem State.withStaging_store (x : Memory) : (s.withStaging x).store = s.store := rfl
@[simp] theorem State.withStaging_nvm (x : Memory) : (s.withStaging x).nvm = s.nvm := rfl
@[simp] theorem State.withStaging_report (x : Memory) : (s.withStaging x).report = s.report := rfl
@[simp] theorem State.withStaging_counters (x : Memory) : (s.withStaging x).counters = s.counters := rfl
@[simp] theorem State.withStaging_snapshot (x : Memory) : (s.withStaging x).snapshot = s.snapshot := rfl
@[simp] theorem State.withStaging_freeIndex (x : Memory) : (s.withStaging x).freeIndex = s.freeIndex := rfl
@[simp] theorem State.withStaging_pending (x : Memory) : (s.withStaging x).pending = s.pending := rfl

@[simp] theorem State.withEngine_phase (x : Engine) : (s.withEngine x).phase = s.phase := rfl
@[simp] theorem State.withEngine_pins (x : Engine) : (s.withEngine x).pins = s.pins := rfl
@[simp] theorem State.withEngine_supply (x : Engine) : (s.withEngine x).supply = s.supply := rfl
@[simp] theorem State.withEngine_params (x : Engine) : (s.withEngine x).params = s.params := rfl
@[simp] theorem State.withEngine_interp (x : Engine) : (s.withEngine x).interp = s.interp := rfl
@[simp] theorem State.withEngine_lanes (x : Engine) : (s.withEngine x).lanes = s.lanes := rfl
@[simp] theorem State.withEngine_trunk (x : Engine) : (s.withEngine x).trunk = s.trunk := rfl
@[simp] theorem State.withEngine_streams (x : Engine) : (s.withEngine x).streams = s.streams := rfl
@[simp] theorem State.withEngine_manifests (x : Engine) : (s.withEngine x).manifests = s.manifests := rfl
@[simp] theorem State.withEngine_entryBytes (x : Engine) : (s.withEngine x).entryBytes = s.entryBytes := rfl
@[simp] theorem State.withEngine_entryCounts (x : Engine) : (s.withEngine x).entryCounts = s.entryCounts := rfl
@[simp] theorem State.withEngine_slots (x : Engine) : (s.withEngine x).slots = s.slots := rfl
@[simp] theorem State.withEngine_staging (x : Engine) : (s.withEngine x).staging = s.staging := rfl
@[simp] theorem State.withEngine_engine (x : Engine) : (s.withEngine x).engine = x := rfl
@[simp] theorem State.withEngine_contexts (x : Engine) : (s.withEngine x).contexts = s.contexts := rfl
@[simp] theorem State.withEngine_ports (x : Engine) : (s.withEngine x).ports = s.ports := rfl
@[simp] theorem State.withEngine_store (x : Engine) : (s.withEngine x).store = s.store := rfl
@[simp] theorem State.withEngine_nvm (x : Engine) : (s.withEngine x).nvm = s.nvm := rfl
@[simp] theorem State.withEngine_report (x : Engine) : (s.withEngine x).report = s.report := rfl
@[simp] theorem State.withEngine_counters (x : Engine) : (s.withEngine x).counters = s.counters := rfl
@[simp] theorem State.withEngine_snapshot (x : Engine) : (s.withEngine x).snapshot = s.snapshot := rfl
@[simp] theorem State.withEngine_freeIndex (x : Engine) : (s.withEngine x).freeIndex = s.freeIndex := rfl
@[simp] theorem State.withEngine_pending (x : Engine) : (s.withEngine x).pending = s.pending := rfl

@[simp] theorem State.setCtx_phase (i : StreamNo) (x : ReleaseCtx) : (s.setCtx i x).phase = s.phase := rfl
@[simp] theorem State.setCtx_pins (i : StreamNo) (x : ReleaseCtx) : (s.setCtx i x).pins = s.pins := rfl
@[simp] theorem State.setCtx_supply (i : StreamNo) (x : ReleaseCtx) : (s.setCtx i x).supply = s.supply := rfl
@[simp] theorem State.setCtx_params (i : StreamNo) (x : ReleaseCtx) : (s.setCtx i x).params = s.params := rfl
@[simp] theorem State.setCtx_interp (i : StreamNo) (x : ReleaseCtx) : (s.setCtx i x).interp = s.interp := rfl
@[simp] theorem State.setCtx_lanes (i : StreamNo) (x : ReleaseCtx) : (s.setCtx i x).lanes = s.lanes := rfl
@[simp] theorem State.setCtx_trunk (i : StreamNo) (x : ReleaseCtx) : (s.setCtx i x).trunk = s.trunk := rfl
@[simp] theorem State.setCtx_streams (i : StreamNo) (x : ReleaseCtx) : (s.setCtx i x).streams = s.streams := rfl
@[simp] theorem State.setCtx_manifests (i : StreamNo) (x : ReleaseCtx) : (s.setCtx i x).manifests = s.manifests := rfl
@[simp] theorem State.setCtx_entryBytes (i : StreamNo) (x : ReleaseCtx) : (s.setCtx i x).entryBytes = s.entryBytes := rfl
@[simp] theorem State.setCtx_entryCounts (i : StreamNo) (x : ReleaseCtx) : (s.setCtx i x).entryCounts = s.entryCounts := rfl
@[simp] theorem State.setCtx_slots (i : StreamNo) (x : ReleaseCtx) : (s.setCtx i x).slots = s.slots := rfl
@[simp] theorem State.setCtx_staging (i : StreamNo) (x : ReleaseCtx) : (s.setCtx i x).staging = s.staging := rfl
@[simp] theorem State.setCtx_engine (i : StreamNo) (x : ReleaseCtx) : (s.setCtx i x).engine = s.engine := rfl
@[simp] theorem State.setCtx_contexts (i : StreamNo) (x : ReleaseCtx) : (s.setCtx i x).contexts = s.contexts.set i x := rfl
@[simp] theorem State.setCtx_ports (i : StreamNo) (x : ReleaseCtx) : (s.setCtx i x).ports = s.ports := rfl
@[simp] theorem State.setCtx_store (i : StreamNo) (x : ReleaseCtx) : (s.setCtx i x).store = s.store := rfl
@[simp] theorem State.setCtx_nvm (i : StreamNo) (x : ReleaseCtx) : (s.setCtx i x).nvm = s.nvm := rfl
@[simp] theorem State.setCtx_report (i : StreamNo) (x : ReleaseCtx) : (s.setCtx i x).report = s.report := rfl
@[simp] theorem State.setCtx_counters (i : StreamNo) (x : ReleaseCtx) : (s.setCtx i x).counters = s.counters := rfl
@[simp] theorem State.setCtx_snapshot (i : StreamNo) (x : ReleaseCtx) : (s.setCtx i x).snapshot = s.snapshot := rfl
@[simp] theorem State.setCtx_freeIndex (i : StreamNo) (x : ReleaseCtx) : (s.setCtx i x).freeIndex = s.freeIndex := rfl
@[simp] theorem State.setCtx_pending (i : StreamNo) (x : ReleaseCtx) : (s.setCtx i x).pending = s.pending := rfl

@[simp] theorem State.setPort_phase (p : Port) (x : BranchPort) : (s.setPort p x).phase = s.phase := rfl
@[simp] theorem State.setPort_pins (p : Port) (x : BranchPort) : (s.setPort p x).pins = s.pins := rfl
@[simp] theorem State.setPort_supply (p : Port) (x : BranchPort) : (s.setPort p x).supply = s.supply := rfl
@[simp] theorem State.setPort_params (p : Port) (x : BranchPort) : (s.setPort p x).params = s.params := rfl
@[simp] theorem State.setPort_interp (p : Port) (x : BranchPort) : (s.setPort p x).interp = s.interp := rfl
@[simp] theorem State.setPort_lanes (p : Port) (x : BranchPort) : (s.setPort p x).lanes = s.lanes := rfl
@[simp] theorem State.setPort_trunk (p : Port) (x : BranchPort) : (s.setPort p x).trunk = s.trunk := rfl
@[simp] theorem State.setPort_streams (p : Port) (x : BranchPort) : (s.setPort p x).streams = s.streams := rfl
@[simp] theorem State.setPort_manifests (p : Port) (x : BranchPort) : (s.setPort p x).manifests = s.manifests := rfl
@[simp] theorem State.setPort_entryBytes (p : Port) (x : BranchPort) : (s.setPort p x).entryBytes = s.entryBytes := rfl
@[simp] theorem State.setPort_entryCounts (p : Port) (x : BranchPort) : (s.setPort p x).entryCounts = s.entryCounts := rfl
@[simp] theorem State.setPort_slots (p : Port) (x : BranchPort) : (s.setPort p x).slots = s.slots := rfl
@[simp] theorem State.setPort_staging (p : Port) (x : BranchPort) : (s.setPort p x).staging = s.staging := rfl
@[simp] theorem State.setPort_engine (p : Port) (x : BranchPort) : (s.setPort p x).engine = s.engine := rfl
@[simp] theorem State.setPort_contexts (p : Port) (x : BranchPort) : (s.setPort p x).contexts = s.contexts := rfl
@[simp] theorem State.setPort_ports (p : Port) (x : BranchPort) : (s.setPort p x).ports = s.ports.set p x := rfl
@[simp] theorem State.setPort_store (p : Port) (x : BranchPort) : (s.setPort p x).store = s.store := rfl
@[simp] theorem State.setPort_nvm (p : Port) (x : BranchPort) : (s.setPort p x).nvm = s.nvm := rfl
@[simp] theorem State.setPort_report (p : Port) (x : BranchPort) : (s.setPort p x).report = s.report := rfl
@[simp] theorem State.setPort_counters (p : Port) (x : BranchPort) : (s.setPort p x).counters = s.counters := rfl
@[simp] theorem State.setPort_snapshot (p : Port) (x : BranchPort) : (s.setPort p x).snapshot = s.snapshot := rfl
@[simp] theorem State.setPort_freeIndex (p : Port) (x : BranchPort) : (s.setPort p x).freeIndex = s.freeIndex := rfl
@[simp] theorem State.setPort_pending (p : Port) (x : BranchPort) : (s.setPort p x).pending = s.pending := rfl

@[simp] theorem State.withStore_phase (x : Store) : (s.withStore x).phase = s.phase := rfl
@[simp] theorem State.withStore_pins (x : Store) : (s.withStore x).pins = s.pins := rfl
@[simp] theorem State.withStore_supply (x : Store) : (s.withStore x).supply = s.supply := rfl
@[simp] theorem State.withStore_params (x : Store) : (s.withStore x).params = s.params := rfl
@[simp] theorem State.withStore_interp (x : Store) : (s.withStore x).interp = s.interp := rfl
@[simp] theorem State.withStore_lanes (x : Store) : (s.withStore x).lanes = s.lanes := rfl
@[simp] theorem State.withStore_trunk (x : Store) : (s.withStore x).trunk = s.trunk := rfl
@[simp] theorem State.withStore_streams (x : Store) : (s.withStore x).streams = s.streams := rfl
@[simp] theorem State.withStore_manifests (x : Store) : (s.withStore x).manifests = s.manifests := rfl
@[simp] theorem State.withStore_entryBytes (x : Store) : (s.withStore x).entryBytes = s.entryBytes := rfl
@[simp] theorem State.withStore_entryCounts (x : Store) : (s.withStore x).entryCounts = s.entryCounts := rfl
@[simp] theorem State.withStore_slots (x : Store) : (s.withStore x).slots = s.slots := rfl
@[simp] theorem State.withStore_staging (x : Store) : (s.withStore x).staging = s.staging := rfl
@[simp] theorem State.withStore_engine (x : Store) : (s.withStore x).engine = s.engine := rfl
@[simp] theorem State.withStore_contexts (x : Store) : (s.withStore x).contexts = s.contexts := rfl
@[simp] theorem State.withStore_ports (x : Store) : (s.withStore x).ports = s.ports := rfl
@[simp] theorem State.withStore_store (x : Store) : (s.withStore x).store = x := rfl
@[simp] theorem State.withStore_nvm (x : Store) : (s.withStore x).nvm = s.nvm := rfl
@[simp] theorem State.withStore_report (x : Store) : (s.withStore x).report = s.report := rfl
@[simp] theorem State.withStore_counters (x : Store) : (s.withStore x).counters = s.counters := rfl
@[simp] theorem State.withStore_snapshot (x : Store) : (s.withStore x).snapshot = s.snapshot := rfl
@[simp] theorem State.withStore_freeIndex (x : Store) : (s.withStore x).freeIndex = s.freeIndex := rfl
@[simp] theorem State.withStore_pending (x : Store) : (s.withStore x).pending = s.pending := rfl

@[simp] theorem State.withNvm_phase (x : Memory) : (s.withNvm x).phase = s.phase := rfl
@[simp] theorem State.withNvm_pins (x : Memory) : (s.withNvm x).pins = s.pins := rfl
@[simp] theorem State.withNvm_supply (x : Memory) : (s.withNvm x).supply = s.supply := rfl
@[simp] theorem State.withNvm_params (x : Memory) : (s.withNvm x).params = s.params := rfl
@[simp] theorem State.withNvm_interp (x : Memory) : (s.withNvm x).interp = s.interp := rfl
@[simp] theorem State.withNvm_lanes (x : Memory) : (s.withNvm x).lanes = s.lanes := rfl
@[simp] theorem State.withNvm_trunk (x : Memory) : (s.withNvm x).trunk = s.trunk := rfl
@[simp] theorem State.withNvm_streams (x : Memory) : (s.withNvm x).streams = s.streams := rfl
@[simp] theorem State.withNvm_manifests (x : Memory) : (s.withNvm x).manifests = s.manifests := rfl
@[simp] theorem State.withNvm_entryBytes (x : Memory) : (s.withNvm x).entryBytes = s.entryBytes := rfl
@[simp] theorem State.withNvm_entryCounts (x : Memory) : (s.withNvm x).entryCounts = s.entryCounts := rfl
@[simp] theorem State.withNvm_slots (x : Memory) : (s.withNvm x).slots = s.slots := rfl
@[simp] theorem State.withNvm_staging (x : Memory) : (s.withNvm x).staging = s.staging := rfl
@[simp] theorem State.withNvm_engine (x : Memory) : (s.withNvm x).engine = s.engine := rfl
@[simp] theorem State.withNvm_contexts (x : Memory) : (s.withNvm x).contexts = s.contexts := rfl
@[simp] theorem State.withNvm_ports (x : Memory) : (s.withNvm x).ports = s.ports := rfl
@[simp] theorem State.withNvm_store (x : Memory) : (s.withNvm x).store = s.store := rfl
@[simp] theorem State.withNvm_nvm (x : Memory) : (s.withNvm x).nvm = x := rfl
@[simp] theorem State.withNvm_report (x : Memory) : (s.withNvm x).report = s.report := rfl
@[simp] theorem State.withNvm_counters (x : Memory) : (s.withNvm x).counters = s.counters := rfl
@[simp] theorem State.withNvm_snapshot (x : Memory) : (s.withNvm x).snapshot = s.snapshot := rfl
@[simp] theorem State.withNvm_freeIndex (x : Memory) : (s.withNvm x).freeIndex = s.freeIndex := rfl
@[simp] theorem State.withNvm_pending (x : Memory) : (s.withNvm x).pending = s.pending := rfl

@[simp] theorem State.withReport_phase (x : ReportUnit) : (s.withReport x).phase = s.phase := rfl
@[simp] theorem State.withReport_pins (x : ReportUnit) : (s.withReport x).pins = s.pins := rfl
@[simp] theorem State.withReport_supply (x : ReportUnit) : (s.withReport x).supply = s.supply := rfl
@[simp] theorem State.withReport_params (x : ReportUnit) : (s.withReport x).params = s.params := rfl
@[simp] theorem State.withReport_interp (x : ReportUnit) : (s.withReport x).interp = s.interp := rfl
@[simp] theorem State.withReport_lanes (x : ReportUnit) : (s.withReport x).lanes = s.lanes := rfl
@[simp] theorem State.withReport_trunk (x : ReportUnit) : (s.withReport x).trunk = s.trunk := rfl
@[simp] theorem State.withReport_streams (x : ReportUnit) : (s.withReport x).streams = s.streams := rfl
@[simp] theorem State.withReport_manifests (x : ReportUnit) : (s.withReport x).manifests = s.manifests := rfl
@[simp] theorem State.withReport_entryBytes (x : ReportUnit) : (s.withReport x).entryBytes = s.entryBytes := rfl
@[simp] theorem State.withReport_entryCounts (x : ReportUnit) : (s.withReport x).entryCounts = s.entryCounts := rfl
@[simp] theorem State.withReport_slots (x : ReportUnit) : (s.withReport x).slots = s.slots := rfl
@[simp] theorem State.withReport_staging (x : ReportUnit) : (s.withReport x).staging = s.staging := rfl
@[simp] theorem State.withReport_engine (x : ReportUnit) : (s.withReport x).engine = s.engine := rfl
@[simp] theorem State.withReport_contexts (x : ReportUnit) : (s.withReport x).contexts = s.contexts := rfl
@[simp] theorem State.withReport_ports (x : ReportUnit) : (s.withReport x).ports = s.ports := rfl
@[simp] theorem State.withReport_store (x : ReportUnit) : (s.withReport x).store = s.store := rfl
@[simp] theorem State.withReport_nvm (x : ReportUnit) : (s.withReport x).nvm = s.nvm := rfl
@[simp] theorem State.withReport_report (x : ReportUnit) : (s.withReport x).report = x := rfl
@[simp] theorem State.withReport_counters (x : ReportUnit) : (s.withReport x).counters = s.counters := rfl
@[simp] theorem State.withReport_snapshot (x : ReportUnit) : (s.withReport x).snapshot = s.snapshot := rfl
@[simp] theorem State.withReport_freeIndex (x : ReportUnit) : (s.withReport x).freeIndex = s.freeIndex := rfl
@[simp] theorem State.withReport_pending (x : ReportUnit) : (s.withReport x).pending = s.pending := rfl

@[simp] theorem State.withCounters_phase (x : Counters) : (s.withCounters x).phase = s.phase := rfl
@[simp] theorem State.withCounters_pins (x : Counters) : (s.withCounters x).pins = s.pins := rfl
@[simp] theorem State.withCounters_supply (x : Counters) : (s.withCounters x).supply = s.supply := rfl
@[simp] theorem State.withCounters_params (x : Counters) : (s.withCounters x).params = s.params := rfl
@[simp] theorem State.withCounters_interp (x : Counters) : (s.withCounters x).interp = s.interp := rfl
@[simp] theorem State.withCounters_lanes (x : Counters) : (s.withCounters x).lanes = s.lanes := rfl
@[simp] theorem State.withCounters_trunk (x : Counters) : (s.withCounters x).trunk = s.trunk := rfl
@[simp] theorem State.withCounters_streams (x : Counters) : (s.withCounters x).streams = s.streams := rfl
@[simp] theorem State.withCounters_manifests (x : Counters) : (s.withCounters x).manifests = s.manifests := rfl
@[simp] theorem State.withCounters_entryBytes (x : Counters) : (s.withCounters x).entryBytes = s.entryBytes := rfl
@[simp] theorem State.withCounters_entryCounts (x : Counters) : (s.withCounters x).entryCounts = s.entryCounts := rfl
@[simp] theorem State.withCounters_slots (x : Counters) : (s.withCounters x).slots = s.slots := rfl
@[simp] theorem State.withCounters_staging (x : Counters) : (s.withCounters x).staging = s.staging := rfl
@[simp] theorem State.withCounters_engine (x : Counters) : (s.withCounters x).engine = s.engine := rfl
@[simp] theorem State.withCounters_contexts (x : Counters) : (s.withCounters x).contexts = s.contexts := rfl
@[simp] theorem State.withCounters_ports (x : Counters) : (s.withCounters x).ports = s.ports := rfl
@[simp] theorem State.withCounters_store (x : Counters) : (s.withCounters x).store = s.store := rfl
@[simp] theorem State.withCounters_nvm (x : Counters) : (s.withCounters x).nvm = s.nvm := rfl
@[simp] theorem State.withCounters_report (x : Counters) : (s.withCounters x).report = s.report := rfl
@[simp] theorem State.withCounters_counters (x : Counters) : (s.withCounters x).counters = x := rfl
@[simp] theorem State.withCounters_snapshot (x : Counters) : (s.withCounters x).snapshot = s.snapshot := rfl
@[simp] theorem State.withCounters_freeIndex (x : Counters) : (s.withCounters x).freeIndex = s.freeIndex := rfl
@[simp] theorem State.withCounters_pending (x : Counters) : (s.withCounters x).pending = s.pending := rfl

@[simp] theorem State.withSnapshot_phase (x : Snapshot) : (s.withSnapshot x).phase = s.phase := rfl
@[simp] theorem State.withSnapshot_pins (x : Snapshot) : (s.withSnapshot x).pins = s.pins := rfl
@[simp] theorem State.withSnapshot_supply (x : Snapshot) : (s.withSnapshot x).supply = s.supply := rfl
@[simp] theorem State.withSnapshot_params (x : Snapshot) : (s.withSnapshot x).params = s.params := rfl
@[simp] theorem State.withSnapshot_interp (x : Snapshot) : (s.withSnapshot x).interp = s.interp := rfl
@[simp] theorem State.withSnapshot_lanes (x : Snapshot) : (s.withSnapshot x).lanes = s.lanes := rfl
@[simp] theorem State.withSnapshot_trunk (x : Snapshot) : (s.withSnapshot x).trunk = s.trunk := rfl
@[simp] theorem State.withSnapshot_streams (x : Snapshot) : (s.withSnapshot x).streams = s.streams := rfl
@[simp] theorem State.withSnapshot_manifests (x : Snapshot) : (s.withSnapshot x).manifests = s.manifests := rfl
@[simp] theorem State.withSnapshot_entryBytes (x : Snapshot) : (s.withSnapshot x).entryBytes = s.entryBytes := rfl
@[simp] theorem State.withSnapshot_entryCounts (x : Snapshot) : (s.withSnapshot x).entryCounts = s.entryCounts := rfl
@[simp] theorem State.withSnapshot_slots (x : Snapshot) : (s.withSnapshot x).slots = s.slots := rfl
@[simp] theorem State.withSnapshot_staging (x : Snapshot) : (s.withSnapshot x).staging = s.staging := rfl
@[simp] theorem State.withSnapshot_engine (x : Snapshot) : (s.withSnapshot x).engine = s.engine := rfl
@[simp] theorem State.withSnapshot_contexts (x : Snapshot) : (s.withSnapshot x).contexts = s.contexts := rfl
@[simp] theorem State.withSnapshot_ports (x : Snapshot) : (s.withSnapshot x).ports = s.ports := rfl
@[simp] theorem State.withSnapshot_store (x : Snapshot) : (s.withSnapshot x).store = s.store := rfl
@[simp] theorem State.withSnapshot_nvm (x : Snapshot) : (s.withSnapshot x).nvm = s.nvm := rfl
@[simp] theorem State.withSnapshot_report (x : Snapshot) : (s.withSnapshot x).report = s.report := rfl
@[simp] theorem State.withSnapshot_counters (x : Snapshot) : (s.withSnapshot x).counters = s.counters := rfl
@[simp] theorem State.withSnapshot_snapshot (x : Snapshot) : (s.withSnapshot x).snapshot = x := rfl
@[simp] theorem State.withSnapshot_freeIndex (x : Snapshot) : (s.withSnapshot x).freeIndex = s.freeIndex := rfl
@[simp] theorem State.withSnapshot_pending (x : Snapshot) : (s.withSnapshot x).pending = s.pending := rfl

@[simp] theorem State.withFreeIndex_phase (x : Nat) : (s.withFreeIndex x).phase = s.phase := rfl
@[simp] theorem State.withFreeIndex_pins (x : Nat) : (s.withFreeIndex x).pins = s.pins := rfl
@[simp] theorem State.withFreeIndex_supply (x : Nat) : (s.withFreeIndex x).supply = s.supply := rfl
@[simp] theorem State.withFreeIndex_params (x : Nat) : (s.withFreeIndex x).params = s.params := rfl
@[simp] theorem State.withFreeIndex_interp (x : Nat) : (s.withFreeIndex x).interp = s.interp := rfl
@[simp] theorem State.withFreeIndex_lanes (x : Nat) : (s.withFreeIndex x).lanes = s.lanes := rfl
@[simp] theorem State.withFreeIndex_trunk (x : Nat) : (s.withFreeIndex x).trunk = s.trunk := rfl
@[simp] theorem State.withFreeIndex_streams (x : Nat) : (s.withFreeIndex x).streams = s.streams := rfl
@[simp] theorem State.withFreeIndex_manifests (x : Nat) : (s.withFreeIndex x).manifests = s.manifests := rfl
@[simp] theorem State.withFreeIndex_entryBytes (x : Nat) : (s.withFreeIndex x).entryBytes = s.entryBytes := rfl
@[simp] theorem State.withFreeIndex_entryCounts (x : Nat) : (s.withFreeIndex x).entryCounts = s.entryCounts := rfl
@[simp] theorem State.withFreeIndex_slots (x : Nat) : (s.withFreeIndex x).slots = s.slots := rfl
@[simp] theorem State.withFreeIndex_staging (x : Nat) : (s.withFreeIndex x).staging = s.staging := rfl
@[simp] theorem State.withFreeIndex_engine (x : Nat) : (s.withFreeIndex x).engine = s.engine := rfl
@[simp] theorem State.withFreeIndex_contexts (x : Nat) : (s.withFreeIndex x).contexts = s.contexts := rfl
@[simp] theorem State.withFreeIndex_ports (x : Nat) : (s.withFreeIndex x).ports = s.ports := rfl
@[simp] theorem State.withFreeIndex_store (x : Nat) : (s.withFreeIndex x).store = s.store := rfl
@[simp] theorem State.withFreeIndex_nvm (x : Nat) : (s.withFreeIndex x).nvm = s.nvm := rfl
@[simp] theorem State.withFreeIndex_report (x : Nat) : (s.withFreeIndex x).report = s.report := rfl
@[simp] theorem State.withFreeIndex_counters (x : Nat) : (s.withFreeIndex x).counters = s.counters := rfl
@[simp] theorem State.withFreeIndex_snapshot (x : Nat) : (s.withFreeIndex x).snapshot = s.snapshot := rfl
@[simp] theorem State.withFreeIndex_freeIndex (x : Nat) : (s.withFreeIndex x).freeIndex = x := rfl
@[simp] theorem State.withFreeIndex_pending (x : Nat) : (s.withFreeIndex x).pending = s.pending := rfl

@[simp] theorem State.withPending_phase (x : List Instr) : (s.withPending x).phase = s.phase := rfl
@[simp] theorem State.withPending_pins (x : List Instr) : (s.withPending x).pins = s.pins := rfl
@[simp] theorem State.withPending_supply (x : List Instr) : (s.withPending x).supply = s.supply := rfl
@[simp] theorem State.withPending_params (x : List Instr) : (s.withPending x).params = s.params := rfl
@[simp] theorem State.withPending_interp (x : List Instr) : (s.withPending x).interp = s.interp := rfl
@[simp] theorem State.withPending_lanes (x : List Instr) : (s.withPending x).lanes = s.lanes := rfl
@[simp] theorem State.withPending_trunk (x : List Instr) : (s.withPending x).trunk = s.trunk := rfl
@[simp] theorem State.withPending_streams (x : List Instr) : (s.withPending x).streams = s.streams := rfl
@[simp] theorem State.withPending_manifests (x : List Instr) : (s.withPending x).manifests = s.manifests := rfl
@[simp] theorem State.withPending_entryBytes (x : List Instr) : (s.withPending x).entryBytes = s.entryBytes := rfl
@[simp] theorem State.withPending_entryCounts (x : List Instr) : (s.withPending x).entryCounts = s.entryCounts := rfl
@[simp] theorem State.withPending_slots (x : List Instr) : (s.withPending x).slots = s.slots := rfl
@[simp] theorem State.withPending_staging (x : List Instr) : (s.withPending x).staging = s.staging := rfl
@[simp] theorem State.withPending_engine (x : List Instr) : (s.withPending x).engine = s.engine := rfl
@[simp] theorem State.withPending_contexts (x : List Instr) : (s.withPending x).contexts = s.contexts := rfl
@[simp] theorem State.withPending_ports (x : List Instr) : (s.withPending x).ports = s.ports := rfl
@[simp] theorem State.withPending_store (x : List Instr) : (s.withPending x).store = s.store := rfl
@[simp] theorem State.withPending_nvm (x : List Instr) : (s.withPending x).nvm = s.nvm := rfl
@[simp] theorem State.withPending_report (x : List Instr) : (s.withPending x).report = s.report := rfl
@[simp] theorem State.withPending_counters (x : List Instr) : (s.withPending x).counters = s.counters := rfl
@[simp] theorem State.withPending_snapshot (x : List Instr) : (s.withPending x).snapshot = s.snapshot := rfl
@[simp] theorem State.withPending_freeIndex (x : List Instr) : (s.withPending x).freeIndex = s.freeIndex := rfl
@[simp] theorem State.withPending_pending (x : List Instr) : (s.withPending x).pending = x := rfl

end Sys2Proof.Machine
end

