-- ==== Sys2Proof/Laws/Touches.lean ====
section
/-! SUPPORT. What each shared operation may change: one lemma per operation, naming the parts of the state outside which
it changes nothing. A proof about a part that an operation does not name cites the lemma and never unfolds the operation. -/

namespace Sys2Proof.Machine

-- One proof at a time: elaborated all at once, the proofs of the package as one text ask for more threads than memory allows.
set_option Elab.async false

variable {s t u : State} {ps qs : List Part}

theorem Touches.refl (ps : List Part) (s : State) : Touches ps s s := by
  intro p _; cases p <;> first | rfl | exact ⟨rfl, rfl⟩

theorem Touches.trans (h1 : Touches ps s t) (h2 : Touches ps t u) : Touches ps s u := by
  intro p hp
  have a := h1 p hp
  have b := h2 p hp
  cases p <;> first | exact Eq.trans b a | exact ⟨b.1.trans a.1, b.2.trans a.2⟩

theorem Touches.mono (h : Touches ps s t) (hs : ∀ p ∈ ps, p ∈ qs := by first | decide | (dsimp only [commandParts]; decide)) : Touches qs s t :=
  fun p hp => h p fun hm => hp (hs p hm)

/-- A change followed by one within the same parts. -/
theorem Touches.after (h2 : Touches qs t u) (h1 : Touches ps s t) (hs : ∀ p ∈ qs, p ∈ ps := by first | decide | (dsimp only [commandParts]; decide)) : Touches ps s u :=
  h1.trans (h2.mono hs)

/-- The same, the later change first. -/
theorem Touches.trans' (h2 : Touches ps t u) (h1 : Touches ps s t) : Touches ps s u := h1.trans h2

/-! ## Updates -/

variable (s)

theorem touches_withPhase (x) : Touches [.phase] s (s.withPhase x) := by
  intro p hp; cases p <;> first | exact absurd (by decide) hp | rfl | exact ⟨rfl, rfl⟩
theorem touches_withPins (x) : Touches [.pins] s (s.withPins x) := by
  intro p hp; cases p <;> first | exact absurd (by decide) hp | rfl | exact ⟨rfl, rfl⟩
theorem touches_withSupply (x) : Touches [.supply] s (s.withSupply x) := by
  intro p hp; cases p <;> first | exact absurd (by decide) hp | rfl | exact ⟨rfl, rfl⟩
theorem touches_withParams (x) : Touches [.params] s (s.withParams x) := by
  intro p hp; cases p <;> first | exact absurd (by decide) hp | rfl | exact ⟨rfl, rfl⟩
theorem touches_withInterp (x) : Touches [.interp] s (s.withInterp x) := by
  intro p hp; cases p <;> first | exact absurd (by decide) hp | rfl | exact ⟨rfl, rfl⟩
theorem touches_setLane (l x) : Touches [.lanes] s (s.setLane l x) := by
  intro p hp; cases p <;> first | exact absurd (by decide) hp | rfl | exact ⟨rfl, rfl⟩
theorem touches_setTrunk (l x) : Touches [.trunk] s (s.setTrunk l x) := by
  intro p hp; cases p <;> first | exact absurd (by decide) hp | rfl | exact ⟨rfl, rfl⟩
theorem touches_setStream (i x) : Touches [.streams] s (s.setStream i x) := by
  intro p hp; cases p <;> first | exact absurd (by decide) hp | rfl | exact ⟨rfl, rfl⟩
theorem touches_setManifest (i x) : Touches [.manifests] s (s.setManifest i x) := by
  intro p hp; cases p <;> first | exact absurd (by decide) hp | rfl | exact ⟨rfl, rfl⟩
theorem touches_withEntries (b c) : Touches [.entries] s (s.withEntries b c) := by
  intro p hp; cases p <;> first | exact absurd (by decide) hp | rfl
theorem touches_setSlot (k x) : Touches [.slots] s (s.setSlot k x) := by
  intro p hp; cases p <;> first | exact absurd (by decide) hp | rfl | exact ⟨rfl, rfl⟩
theorem touches_withSlots (x) : Touches [.slots] s (s.withSlots x) := by
  intro p hp; cases p <;> first | exact absurd (by decide) hp | rfl | exact ⟨rfl, rfl⟩
theorem touches_withStaging (x) : Touches [.staging] s (s.withStaging x) := by
  intro p hp; cases p <;> first | exact absurd (by decide) hp | rfl | exact ⟨rfl, rfl⟩
theorem touches_withEngine (x) : Touches [.engine] s (s.withEngine x) := by
  intro p hp; cases p <;> first | exact absurd (by decide) hp | rfl | exact ⟨rfl, rfl⟩
theorem touches_setCtx (i x) : Touches [.contexts] s (s.setCtx i x) := by
  intro p hp; cases p <;> first | exact absurd (by decide) hp | rfl | exact ⟨rfl, rfl⟩
theorem touches_setPort (p x) : Touches [.ports] s (s.setPort p x) := by
  intro p hp; cases p <;> first | exact absurd (by decide) hp | rfl | exact ⟨rfl, rfl⟩
theorem touches_withStore (x) : Touches [.store] s (s.withStore x) := by
  intro p hp; cases p <;> first | exact absurd (by decide) hp | rfl | exact ⟨rfl, rfl⟩
theorem touches_withNvm (x) : Touches [.nvm] s (s.withNvm x) := by
  intro p hp; cases p <;> first | exact absurd (by decide) hp | rfl | exact ⟨rfl, rfl⟩
theorem touches_withReport (x) : Touches [.report] s (s.withReport x) := by
  intro p hp; cases p <;> first | exact absurd (by decide) hp | rfl | exact ⟨rfl, rfl⟩
theorem touches_withCounters (x) : Touches [.counters] s (s.withCounters x) := by
  intro p hp; cases p <;> first | exact absurd (by decide) hp | rfl | exact ⟨rfl, rfl⟩
theorem touches_withSnapshot (x) : Touches [.snapshot] s (s.withSnapshot x) := by
  intro p hp; cases p <;> first | exact absurd (by decide) hp | rfl | exact ⟨rfl, rfl⟩
theorem touches_withFreeIndex (x) : Touches [.freeIndex] s (s.withFreeIndex x) := by
  intro p hp; cases p <;> first | exact absurd (by decide) hp | rfl | exact ⟨rfl, rfl⟩

/-! ## Counters, reservations, slots -/

theorem touches_countLane (l k) : Touches [.counters] s (countLane l k s) := touches_withCounters s _
theorem touches_countStream (i k) : Touches [.counters] s (countStream i k s) := touches_withCounters s _

theorem touches_stopQuietIfDone (i) : Touches [.streams] s (stopQuietIfDone i s) := by
  unfold stopQuietIfDone; split
  · exact .refl _ s
  · exact touches_setStream s _ _

theorem touches_returnReservation (i) : Touches [.streams] s (returnReservation i s) := by
  unfold returnReservation; dsimp only; split
  · exact touches_setStream s _ _
  · exact .refl _ s

theorem touches_freeSlot (k) : Touches [.slots, .streams] s (freeSlot k s) := by
  unfold freeSlot; split
  · exact (touches_returnReservation _ _).after ((touches_setSlot s _ _).mono)
  · exact (touches_setSlot s _ _).mono

theorem touches_freeIdleSlots (i) : Touches [.slots] s (freeIdleSlots i s) := touches_withSlots s _

/-! ## Trunk transmission and the report unit -/

theorem touches_handOver (l) : Touches [.trunk] s (handOver l s) := by
  unfold handOver; dsimp only; repeat' split
  all_goals first | exact .refl _ s | exact touches_setTrunk s _ _

theorem touches_emit : Touches [.report, .trunk] s (emit s) := by
  unfold emit; dsimp only; split
  · exact (touches_handOver _ _).after ((touches_withReport _ _).after ((touches_setTrunk s _ _).mono))
  · exact .refl _ s

theorem touches_beginDrain : Touches [.report, .trunk] s (beginDrain s) := by
  unfold beginDrain; dsimp only; split
  · exact (touches_withReport s _).mono
  · exact (touches_emit _).after ((touches_withReport s _).mono)

theorem touches_afterRecord (b) : Touches [.report, .trunk] s (afterRecord b s) := by
  unfold afterRecord; repeat' split
  · exact touches_emit s
  · exact touches_beginDrain s
  · exact (touches_emit _).after ((touches_withReport s _).mono)

theorem touches_appendRecord (r) : Touches reportParts s (appendRecord r s) := by
  unfold appendRecord; dsimp only; split
  · exact (touches_afterRecord _ _).after ((touches_withReport s _).mono)
  · exact (touches_withCounters _ _).after ((touches_withReport s _).mono)

theorem touches_queueRecord (r) : Touches reportParts s (queueRecord r s) := by
  unfold queueRecord; split
  · exact (touches_beginDrain _).after (touches_appendRecord s r)
  · exact touches_appendRecord s r

theorem touches_queueWindow (i low w) : Touches reportParts s (queueWindow i low w s) := by
  unfold queueWindow; dsimp only; split
  · exact (touches_afterRecord _ _).after ((touches_withReport s _).mono)
  · exact touches_queueRecord s _

theorem touches_serveLane : Touches [.interp, .lanes] s (serveLane s) := by
  unfold serveLane; repeat' split
  all_goals first | exact .refl _ s | exact (touches_withInterp _ _).after ((touches_setLane s _ _).mono)

theorem touches_respond (l f) : Touches answerParts s (respond l f s) := by
  unfold respond
  exact (touches_serveLane _).after ((touches_withInterp _ _).after ((touches_handOver _ _).after ((touches_setTrunk s _ _).mono)))

variable {s} in
/-- Everything judging a request can do. -/
theorem judgeRequest_next {l f held n o} (h : judgeRequest l f held n s o = .next t) :
    s.interp.judging = some ⟨l, f⟩ ∧ held = true ∧
      ((f.length < n ∧ t = respond l (responseFrame (byteAt f 1) (byteAt f 0) .malformed []) s) ∨
        (n ≤ f.length ∧ t = respond l (responseFrame (byteAt f 1) (byteAt f 0) o.status o.data) o.state)) := by
  unfold judgeRequest at h
  split at h
  · rename_i hh
    refine ⟨hh.1, hh.2, ?_⟩
    split at h
    · rename_i hn; cases h; exact .inl ⟨hn, rfl⟩
    · rename_i hn; cases h; exact .inr ⟨Nat.le_of_not_lt hn, rfl⟩
  · cases h

variable {s} in
theorem touches_judgeRequest {l f held n o} (ho : Touches ps s o.state)
    (h : judgeRequest l f held n s o = .next t) : Touches (ps ++ answerParts) s t := by
  have ha : ∀ p ∈ answerParts, p ∈ ps ++ answerParts := fun p hp => List.mem_append.2 (.inr hp)
  have hb : ∀ p ∈ ps, p ∈ ps ++ answerParts := fun p hp => List.mem_append.2 (.inl hp)
  rcases (judgeRequest_next h).2.2 with ⟨_, rfl⟩ | ⟨_, rfl⟩
  · exact (touches_respond _ _ _).mono ha
  · exact (touches_respond _ _ _).after (ho.mono hb) ha

/-! ## A stream's life -/

theorem touches_releaseExtents (i) : Touches [.manifests, .entries] s (releaseExtents i s) := by
  unfold releaseExtents; dsimp only
  exact (touches_setManifest _ _ _).after ((touches_withEntries s _ _).mono)

theorem touches_enterVacant (i c) : Touches vacantParts s (enterVacant i c s) := by
  unfold enterVacant
  exact (touches_queueRecord _ _).after ((touches_setCtx _ _ _).after ((touches_setStream _ _ _).after
    ((touches_releaseExtents s _).mono)))

theorem touches_resolveAbort (i) : Touches vacantParts s (resolveAbort i s) := by
  unfold resolveAbort; split
  · exact touches_enterVacant s _ _
  · exact .refl _ s

theorem touches_stopRelease (i) : Touches [.contexts, .streams] s (stopRelease i s) := by
  unfold stopRelease; dsimp only; split
  · exact (touches_setCtx s _ _).mono
  · exact (touches_setStream _ _ _).after ((touches_setCtx s _ _).mono)

theorem touches_stopStream (i) : Touches [.contexts, .streams, .slots] s (stopStream i s) := by
  unfold stopStream; dsimp only
  exact (touches_freeIdleSlots _ _).after ((touches_stopRelease _ _).after ((touches_setStream s _ _).mono))

theorem touches_enterFaulted (i c) : Touches faultParts s (enterFaulted i c s) := by
  unfold enterFaulted; dsimp only
  exact (touches_queueRecord _ _).after ((touches_returnReservation _ _).after ((touches_setStream _ _ _).after
    ((touches_stopStream s _).mono)))

theorem touches_enterAborting (i c) : Touches [.streams] s (enterAborting i c s) := by
  unfold enterAborting
  exact (touches_returnReservation _ _).after (touches_setStream s _ _)

theorem touches_freeEndedSlot (k i) : Touches freeParts s (freeEndedSlot k i s) := by
  unfold freeEndedSlot
  exact (touches_resolveAbort _ _).after ((touches_freeSlot s _).mono)

/-! ## Release to branch ports -/

theorem touches_handFrame (i p) : Touches sendParts s (handFrame i p s) := by
  unfold handFrame; repeat' split
  · unfold handEndFrame
    exact (touches_setStream _ _ _).after ((touches_setPort s _ _).mono)
  · unfold handBlockFrame; dsimp only; split
    · exact (touches_setStream _ _ _).after ((touches_setSlot _ _ _).after ((touches_setPort s _ _).mono))
    · exact (touches_setSlot _ _ _).after ((touches_setPort s _ _).mono)
  · exact .refl _ s
  · exact .refl _ s

theorem touches_servePort (p) : Touches sendParts s (servePort p s) := by
  unfold servePort; repeat' split
  all_goals first | exact .refl _ s | exact touches_handFrame s _ _

theorem touches_serveStreamPort (i) : Touches sendParts s (serveStreamPort i s) := by
  unfold serveStreamPort; split
  · exact touches_servePort s _
  · exact .refl _ s

theorem touches_startRelease (i) : Touches [.slots, .streams] s (startRelease i s) := by
  unfold startRelease; split
  · exact (touches_setStream _ _ _).after ((touches_setSlot s _ _).mono)
  · exact .refl _ s

theorem touches_tryRelease (i) : Touches sendParts s (tryRelease i s) := by
  unfold tryRelease
  exact (touches_serveStreamPort _ _).after ((touches_startRelease s _).mono)

theorem touches_startResend (i b) : Touches [.slots, .streams] s (startResend i b s) := by
  unfold startResend; split
  · exact (touches_setStream _ _ _).after ((touches_setSlot s _ _).mono)
  · exact .refl _ s

theorem touches_startEnd (i) : Touches [.streams] s (startEnd i s) := touches_setStream s _ _

theorem touches_enterEnding (i) : Touches (.contexts :: sendParts) s (enterEnding i s) := by
  unfold enterEnding; dsimp only; split
  · exact (touches_serveStreamPort _ _).after ((touches_startEnd _ _).after ((touches_setCtx _ _ _).after
      ((touches_setStream s _ _).mono)))
  · exact (touches_setCtx _ _ _).after ((touches_setStream s _ _).mono)

theorem touches_startHeldWork (i) : Touches [.contexts, .slots, .streams] s (startHeldWork i s) := by
  unfold startHeldWork; dsimp only; repeat' split
  · exact (touches_startResend _ _ _).after ((touches_setCtx s _ _).mono)
  · exact (touches_startEnd _ _).after ((touches_setCtx s _ _).mono)
  · exact (touches_startRelease s _).mono

theorem touches_foldl {α : Type} {ps : List Part} {f : State → α → State} (hf : ∀ t a, Touches ps t (f t a)) :
    ∀ (l : List α) (s : State), Touches ps s (l.foldl f s)
  | [], s => .refl _ s
  | a :: l, s => (hf s a).trans (touches_foldl hf l (f s a))

theorem touches_startAllHeld : Touches (.contexts :: sendParts) s (startAllHeld s) := by
  unfold startAllHeld
  exact (touches_foldl (ps := .contexts :: sendParts) (fun t p => (touches_servePort t p).mono) _ _).after
    (touches_foldl (ps := .contexts :: sendParts) (fun t i => (touches_startHeldWork t i).mono) _ s)

theorem touches_freeKeptSlot (i b) : Touches [.slots, .streams] s (freeKeptSlot i b s) := by
  unfold freeKeptSlot; repeat' split
  all_goals first | exact .refl _ s | exact touches_freeSlot s _

theorem touches_frameEnded (f) : Touches freeParts s (frameEnded f s) := by
  unfold frameEnded; dsimp only; repeat' split
  · exact .refl _ s
  · exact (touches_resolveAbort _ _).after ((touches_setStream _ _ _).after ((touches_freeKeptSlot s _ _).mono))
  · exact (touches_setCtx s _ _).mono
  · exact .refl _ s

/-! ## The version store -/

theorem touches_startStep : Touches [.store] s (startStep s) := by
  unfold startStep; repeat' split
  all_goals first | exact .refl _ s | exact touches_withStore s _

theorem touches_storeFailed (i) : Touches freeParts s (storeFailed i s) := by
  unfold storeFailed; repeat' split
  · exact (touches_enterFaulted s _ _).mono
  · exact (touches_resolveAbort _ _).after ((touches_setStream s _ _).mono)
  · exact .refl _ s

theorem touches_commitEnded (i r) : Touches storeParts s (commitEnded i r s) := by
  unfold commitEnded; dsimp only; split
  · exact (touches_enterEnding _ _).after ((touches_queueRecord s _).mono)
  · exact (touches_resolveAbort _ _).after ((touches_queueRecord s _).mono)

theorem touches_beginOps : ∀ (n : Nat) (s : State), Touches storeParts s (beginOps n s)
  | 0, s => .refl _ s
  | n + 1, s => by
    unfold beginOps; repeat' split
    · exact .refl _ s
    · exact .refl _ s
    · exact (touches_withStore s _).mono
    · exact (touches_withStore s _).mono
    · exact (touches_beginOps n _).trans' ((touches_storeFailed _ _).after ((touches_withStore s _).mono))
    · exact (touches_beginOps n _).trans' ((touches_withStore s _).mono)

theorem touches_runStore : Touches storeParts s (runStore s) :=
  (touches_startStep _).after (touches_beginOps _ s)

theorem touches_joinOps (op) : Touches storeParts s (joinOps op s) :=
  (touches_runStore _).after ((touches_withStore s _).mono)

theorem touches_enterCommitting (i) : Touches storeParts s (enterCommitting i s) := by
  unfold enterCommitting; dsimp only
  exact (touches_joinOps _ _).after ((touches_returnReservation _ _).after ((touches_setStream s _ _).mono))

theorem touches_finishScan (c r) : Touches (.phase :: reportParts) s (finishScan c r s) :=
  (touches_withPhase _ _).after ((touches_queueRecord s _).mono)

theorem touches_commitDone (i r) : Touches storeParts s (commitDone i r s) :=
  (touches_commitEnded _ _ _).after ((touches_withStore s _).mono)

theorem touches_afterGoodStep (r st rest) : Touches (.phase :: storeParts) s (afterGoodStep r st rest s) := by
  unfold afterGoodStep; dsimp only; repeat' split
  · exact (touches_finishScan _ _ _).after ((touches_withStore s _).mono)
  · exact (touches_withStore s _).mono
  · exact (touches_commitDone _ _ _).after ((touches_withStore s _).mono)
  · exact (touches_withStore s _).mono
  · exact (touches_commitDone s _ _).mono
  · exact (touches_withStore _ _).after ((touches_withStore s _).mono)
  · exact (touches_withStore s _).mono
  · exact (touches_commitDone _ _ _).after ((touches_withStore s _).mono)
  · exact (touches_withStore s _).mono
  · exact (touches_withStore s _).mono
  · exact (touches_withStore s _).mono

theorem touches_afterBadStep (r st rest) : Touches (.phase :: storeParts) s (afterBadStep r st rest s) := by
  unfold afterBadStep; dsimp only; split
  · split
    · exact (touches_finishScan _ _ _).after ((touches_withStore s _).mono)
    · exact (touches_withStore s _).mono
  · exact (touches_storeFailed _ _).after ((touches_withStore s _).mono)
  · split
    · exact (touches_commitDone s _ _).mono
    · exact (touches_storeFailed _ _).after ((touches_withStore s _).mono)
  · exact (touches_storeFailed _ _).after ((touches_withStore s _).mono)
  · exact (touches_withStore s _).mono

/-! ## The digest engine -/

theorem touches_discardJob (j i) : Touches freeParts s (discardJob j i s) := by
  unfold discardJob; split
  · exact touches_freeEndedSlot s _ _
  · exact (touches_resolveAbort s _).mono

theorem touches_startJob (j) : Touches [.engine, .slots] s (startJob j s) := by
  unfold startJob; dsimp only; split
  · exact (touches_setSlot _ _ _).after ((touches_withEngine s _).mono)
  · exact (touches_withEngine s _).mono

theorem touches_judgeHeads : ∀ (n : Nat) (s : State), Touches engineParts s (judgeHeads n s)
  | 0, s => .refl _ s
  | n + 1, s => by
    unfold judgeHeads; dsimp only; repeat' split
    · exact .refl _ s
    · exact .refl _ s
    · exact (touches_judgeHeads n _).trans' ((touches_discardJob _ _ _).after ((touches_withEngine s _).mono))
    · exact (touches_startJob s _).mono
    · exact (touches_judgeHeads n _).trans' ((touches_withEngine s _).mono)

theorem touches_judgeHead : Touches engineParts s (judgeHead s) := touches_judgeHeads _ s

theorem touches_appendJob (j) : Touches engineParts s (appendJob j s) :=
  (touches_judgeHead _).after ((touches_withEngine s _).mono)

theorem touches_clearSlot (k h n) : Touches ([.slots, .streams] ++ reportParts) s (clearSlot k h n s) := by
  unfold clearSlot; dsimp only; split
  · exact (touches_queueRecord _ _).after ((touches_setSlot s _ _).mono)
  · exact (touches_queueRecord _ _).after ((touches_setStream _ _ _).after ((touches_setSlot s _ _).mono))

theorem touches_blockOutcome (k) : Touches (.ports :: freeParts) s (blockOutcome k s) := by
  unfold blockOutcome; repeat' split
  · exact .refl _ s
  · unfold blockMatch
    exact (touches_tryRelease _ _).after ((touches_setSlot s _ _).mono)
  · unfold blockMismatch; dsimp only; split
    · exact (touches_clearSlot _ _ _ _).after ((touches_countStream s _ _).mono)
    · exact (touches_enterFaulted _ _ _).after ((touches_countStream s _ _).mono)
  · exact (touches_freeEndedSlot s _ _).mono

/-! ## Acknowledgements and timeouts -/

theorem touches_serveResend (i b) : Touches sendParts s (serveResend i b s) := by
  unfold serveResend; split
  · exact .refl _ s
  · exact touches_serveStreamPort s i

theorem touches_untimelyAnswer (i b) : Touches (.counters :: sendParts) s (untimelyAnswer i b s) := by
  unfold untimelyAnswer untimely; dsimp only; split
  · exact (touches_serveResend _ i b).after ((touches_countStream s _ _).mono)
  · exact (touches_countStream s _ _).mono

theorem touches_blockTimeout (i b k n) : Touches (.ports :: faultParts) s (blockTimeout i b k n s) := by
  unfold blockTimeout stopAckTimer; dsimp only; repeat' split
  · exact (touches_serveResend _ _ _).after ((touches_startResend _ _ _).after ((touches_setCtx _ _ _).after
      ((touches_countStream _ _ _).after ((touches_setSlot s _ _).mono))))
  · exact (touches_setCtx _ _ _).after ((touches_setCtx _ _ _).after ((touches_countStream _ _ _).after ((touches_setSlot s _ _).mono)))
  · exact (touches_enterFaulted s _ _).mono

theorem touches_endTimeout (i n) : Touches (.ports :: faultParts) s (endTimeout i n s) := by
  unfold endTimeout; dsimp only; repeat' split
  · exact (touches_serveStreamPort _ _).after ((touches_startEnd _ _).after ((touches_setCtx _ _ _).after
      ((touches_countStream s _ _).mono)))
  · exact (touches_setCtx _ _ _).after ((touches_setCtx _ _ _).after ((touches_countStream s _ _).mono))
  · exact (touches_enterFaulted s _ _).mono

theorem touches_acceptWritten (i k) : Touches storeParts s (acceptWritten i k s) := by
  have h : Touches storeParts s
      (queueWindow i (s.streams[i].lowEdge + 1) s.streams[i].window
        ((freeSlot k (s.setCtx i { s.contexts[i] with ackTimer := none, resendHeld := false })).setStream i
          { (freeSlot k (s.setCtx i { s.contexts[i] with ackTimer := none, resendHeld := false })).streams[i] with
            lowEdge := s.streams[i].lowEdge + 1, stage := none })) :=
    (touches_queueWindow _ _ _ _).after ((touches_setStream _ _ _).after ((touches_freeSlot _ _).after ((touches_setCtx s _ _).mono)))
  unfold acceptWritten; dsimp only; split
  · exact (touches_enterCommitting _ _).after h
  · exact (touches_tryRelease _ _).after h

theorem touches_acceptActivated (i) : Touches ([.contexts, .streams, .ports] ++ reportParts) s (acceptActivated i s) := by
  unfold acceptActivated; dsimp only; split
  · exact (touches_queueRecord _ _).after ((touches_setPort _ _ _).after ((touches_setStream _ _ _).after ((touches_setCtx s _ _).mono)))
  · exact (touches_queueRecord _ _).after ((touches_setStream _ _ _).after ((touches_setCtx s _ _).mono))

theorem touches_judgeAck (i b r) : Touches storeParts s (judgeAck i b r s) := by
  have hu : Touches storeParts s (untimely i s) := (touches_countStream s _ _).mono
  have ha : Touches storeParts s (untimelyAnswer i b s) := (touches_untimelyAnswer s i b).mono
  have hb : Touches storeParts s (countStream i .busy s) := (touches_countStream s _ _).mono
  cases r
  · show Touches storeParts s (ackWritten i b s)
    unfold ackWritten; split
    · exact touches_acceptWritten s _ _
    · exact hu
    · exact ha
  · show Touches storeParts s (ackBusy i b s)
    unfold ackBusy restartLong; dsimp only; repeat' split
    · exact hb
    · exact (touches_setCtx _ _ _).after ((touches_setSlot _ _ _).after hb)
    · exact (touches_blockTimeout _ _ _ _ _).after hb
    · exact hb
    · exact (touches_setCtx _ _ _).after ((touches_setCtx _ _ _).after hb)
    · exact (touches_endTimeout _ _ _).after hb
    · exact ha
  · show Touches storeParts s (ackRejected i b s)
    unfold ackRejected; split
    · exact (touches_enterFaulted s _ _).mono
    · exact (touches_enterFaulted s _ _).mono
    · exact ha
  · show Touches storeParts s (ackActivated i b s)
    unfold ackActivated; split
    · exact hu
    · exact (touches_acceptActivated s _).mono
    · exact hu

theorem touches_takeAck (p d b r) : Touches storeParts s (takeAck p d b r s) := by
  unfold takeAck; split
  · exact touches_judgeAck s _ _ _
  · exact .refl _ s

/-! ## Segment intake -/

theorem touches_serveMember (i l) : Touches (.streams :: reportParts) s (serveMember i l s) := by
  unfold serveMember; dsimp only; repeat' split
  · exact .refl _ s
  all_goals first
    | exact (touches_queueRecord _ _).after ((touches_setStream s _ _).mono)
    | exact (touches_setStream s _ _).mono

theorem touches_completeSlot (k i) : Touches engineParts s (completeSlot k i s) := by
  unfold completeSlot
  exact (touches_stopQuietIfDone _ _).after ((touches_appendJob _ _).after ((touches_setSlot s _ _).mono))

theorem touches_placeSegment (l i k p n bs) : Touches (.staging :: engineParts) s (placeSegment l i k p n bs s) := by
  have h (x y : Slot) (z : State → Stream) : Touches (.staging :: engineParts) s
      (serveMember i l ((countStream i .placed ((s.withStaging (s.staging.writeAll 0 (stagingAddress k (p * n)) bs)).setSlot k x)).setStream i
        (z (countStream i .placed ((s.withStaging (s.staging.writeAll 0 (stagingAddress k (p * n)) bs)).setSlot k x))))) :=
    (touches_serveMember _ _ _).after ((touches_setStream _ _ _).after ((touches_countStream _ _ _).after
      ((touches_setSlot _ _ _).after ((touches_withStaging s _).mono))))
  unfold placeSegment; dsimp only; split
  · exact (touches_completeSlot _ _ _).after (h _ Slot.free fun u =>
      { u.streams[i] with stallCount := 0, stallTimer := some (stallInterval u) })
  · exact h _ Slot.free fun u => { u.streams[i] with stallCount := 0, stallTimer := some (stallInterval u) }

theorem touches_assemble (l i k bs) : Touches (.staging :: engineParts) s (assemble l i k bs s) := by
  unfold assemble; split
  · exact (touches_countLane s _ _).mono
  · exact (touches_countLane s _ _).mono
  · exact (touches_countStream s _ _).mono
  · exact (touches_countStream s _ _).mono
  · exact (touches_countStream s _ _).mono
  · exact (touches_queueWindow _ _ _ _).after ((touches_countStream s _ _).mono)
  · exact (touches_countStream s _ _).mono
  · exact touches_placeSegment s _ _ _ _ _ _
  · exact (touches_placeSegment _ _ _ _ _ _ _).after ((touches_setSlot s _ _).mono)

theorem touches_blockLane (l) : Touches laneParts s (blockLane l s) := by
  unfold blockLane
  exact (touches_queueRecord _ _).after ((touches_setLane s _ _).mono)

theorem touches_laneFault (l k) : Touches laneParts s (laneFault l k s) := by
  unfold laneFault; dsimp only; repeat' split
  · exact (touches_blockLane _ _).after ((touches_setLane _ _ _).after ((touches_countLane s _ _).mono))
  · exact (touches_setLane _ _ _).after ((touches_countLane s _ _).mono)
  · exact (touches_blockLane _ _).after ((touches_countLane s _ _).mono)
  · exact (touches_countLane s _ _).mono

theorem touches_laneGood (l) : Touches laneParts s (laneGood l s) := by
  unfold laneGood; dsimp only; repeat' split
  · exact (touches_setLane s _ _).mono
  · exact (touches_queueRecord _ _).after ((touches_setLane s _ _).mono)
  · exact (touches_setLane s _ _).mono
  · exact .refl _ s

theorem touches_takeSegment (l f) : Touches segmentParts s (takeSegment l f s) := by
  have h : Touches segmentParts s (countLane l .frames s) := (touches_countLane s _ _).mono
  unfold takeSegment; dsimp only; split
  · exact (touches_countLane _ _ _).after h
  · exact (touches_laneFault _ _ _).after h
  · exact (touches_laneFault _ _ _).after h
  · exact (touches_laneFault _ _ _).after h
  · exact (touches_assemble _ _ _ _ _).after ((touches_laneGood _ _).after ((touches_countLane _ _ _).after h))

theorem touches_takeControl (l f) : Touches [.interp, .lanes, .counters] s (takeControl l f s) := by
  unfold takeControl; repeat' split
  · exact (touches_countLane s _ _).mono
  · exact (touches_countLane s _ _).mono
  · exact (touches_serveLane _).after ((touches_setLane s _ _).mono)

theorem touches_receiveFrame (l d f) : Touches (.interp :: segmentParts) s (receiveFrame l d f s) := by
  unfold receiveFrame; repeat' split
  · exact .refl _ s
  · exact .refl _ s
  · exact (touches_takeSegment s _ _).mono
  · exact (touches_takeControl s _ _).mono
  · exact .refl _ s

/-! ## The manifest store and the stream controller -/

theorem touches_beginLoad (i len n) : Touches [.entries, .manifests, .streams] s (beginLoad i len n s) := by
  unfold beginLoad; dsimp only
  exact (touches_setStream _ _ _).after ((touches_setManifest _ _ _).after ((touches_withEntries s _ _).mono))

theorem touches_storeManifestByte (i o v) : Touches [.entries, .manifests] s (storeManifestByte i o v s) := by
  unfold storeManifestByte; dsimp only; split
  · exact (touches_setManifest s _ _).mono
  · exact (touches_withEntries s _ _).mono

theorem touches_storeManifestBytes (i) : ∀ (vs : List Byte) (o : Nat) (s : State),
    Touches [.entries, .manifests] s (storeManifestBytes i o vs s)
  | [], _, s => .refl _ s
  | v :: vs, o, s => (touches_storeManifestBytes i vs (o + 1) _).trans' (touches_storeManifestByte s i o v)

theorem touches_takeManifestData (i o vs) : Touches [.entries, .manifests] s (takeManifestData i o vs s) :=
  (touches_setManifest _ _ _).after (touches_storeManifestBytes i vs o s)

theorem touches_beginAuthentication (i mac) : Touches engineParts s (beginAuthentication i mac s) :=
  (touches_appendJob _ _).after ((touches_setStream _ _ _).after ((touches_setManifest s _ _).mono))

theorem touches_macOutcome (i) : Touches vacantParts s (macOutcome i s) := by
  unfold macOutcome; repeat' split
  · unfold judgeAcceptance; dsimp only; split
    · exact touches_enterVacant s _ _
    · unfold acceptManifest
      exact (touches_queueRecord _ _).after ((touches_setStream s _ _).mono)
  · exact touches_enterVacant s _ _
  · exact touches_resolveAbort s _

theorem touches_startStream (i b w) : Touches (.streams :: reportParts) s (startStream i b w s) := by
  unfold startStream; dsimp only
  exact (touches_queueWindow _ _ _ _).after ((touches_queueRecord _ _).after ((touches_setStream s _ _).mono))

theorem touches_replaceLanes (i b) : Touches [.streams] s (replaceLanes i b s) := touches_setStream s _ _

theorem touches_releaseStream (i c) : Touches freeParts s (releaseStream i c s).2 := by
  unfold releaseStream; dsimp only; split
  · exact (touches_enterAborting _ _ _).after ((touches_stopStream s _).mono)
  · exact (touches_enterVacant _ _ _).after ((touches_stopStream s _).mono)

theorem touches_abortStream (i) : Touches freeParts s (abortStream i s).2 := by
  unfold abortStream; split
  all_goals first
    | exact .refl _ s
    | exact touches_releaseStream s _ _
    | exact (touches_enterVacant s _ _).mono
    | exact (touches_enterAborting s _ _).mono

theorem touches_closeStream (i) : Touches freeParts s (closeStream i s).2 := by
  unfold closeStream; split
  all_goals first | exact .refl _ s | exact touches_releaseStream s _ _

theorem touches_stallGap (i b) : Touches faultParts s (stallGap i b s) := by
  have h : Touches faultParts s (queueRecord (gapRecord s i b) s) := (touches_queueRecord s _).mono
  unfold stallGap restartStall; dsimp only; split
  · exact (touches_setStream _ _ _).after ((touches_setStream _ _ _).after h)
  · exact (touches_enterFaulted _ _ _).after h

/-! ## Supply, parameters, counters -/

theorem touches_resumeWork : Touches ([.store, .contexts] ++ sendParts) s (resumeWork s) := by
  unfold resumeWork; split
  · exact (touches_startStep _).after ((touches_startAllHeld s).mono)
  · exact .refl _ s

theorem touches_changeSupply : Touches supplyParts s (changeSupply s) := by
  unfold changeSupply; dsimp only
  exact (touches_resumeWork _).after ((touches_queueRecord _ _).after ((touches_withSupply s _).mono))

theorem touches_compareSupply : Touches supplyParts s (compareSupply s) := by
  unfold compareSupply; repeat' split
  · exact .refl _ s
  · exact touches_changeSupply s
  · exact (touches_withSupply s _).mono
  · exact (touches_withSupply s _).mono

theorem touches_afterParam (n) : Touches supplyParts s (afterParam n s) := by
  unfold afterParam; split
  · exact (touches_emit s).mono
  · exact touches_compareSupply s
  · exact .refl _ s

theorem touches_takeSnapshot : Touches [.snapshot, .counters] s (takeSnapshot s) :=
  (touches_withCounters _ _).after ((touches_withSnapshot s _).mono)

theorem touches_firstMeasurement : Touches (.supply :: reportParts) s (firstMeasurement s) := by
  unfold firstMeasurement; split
  · exact (touches_withSupply s _).mono
  · exact (touches_queueRecord _ _).after ((touches_withSupply s _).mono)

theorem touches_startScan (c) : Touches ([.store, .phase] ++ reportParts) s (startScan c s) := by
  unfold startScan; dsimp only; split
  · exact (touches_finishScan _ _ _).after ((touches_withStore s _).mono)
  · exact (touches_startStep _).after ((touches_withStore s _).mono)

end Sys2Proof.Machine
end

