-- ==== Sys2Proof/Laws/Operands.lean ====
section
/-! SUPPORT. Spec lemmas of the operand forms: big-endian fields are read back as they were laid out. -/

namespace Sys2Proof.Machine

theorem beBytes_length (n v : Nat) : (beBytes n v).length = n := by
  induction n generalizing v with
  | zero => rfl
  | succ n ih => simp [beBytes, ih]

theorem beValue_append (xs ys : List Byte) : beValue (xs ++ ys) = beValue xs * 256 ^ ys.length + beValue ys := by
  have step : ∀ (zs : List Byte) (a : Nat), zs.foldl (fun acc b => acc * 256 + b.toNat) a = a * 256 ^ zs.length + beValue zs := by
    intro zs
    induction zs with
    | nil => intro a; simp [beValue]
    | cons z zs ih =>
      intro a
      unfold beValue
      rw [List.foldl_cons, List.foldl_cons, ih, ih, List.length_cons, Nat.pow_succ]
      ring
  unfold beValue
  rw [List.foldl_append, step]; rfl

theorem beValue_beBytes (n v : Nat) : beValue (beBytes n v) = v % 256 ^ n := by
  induction n generalizing v with
  | zero => simp [beBytes, beValue, Nat.mod_one]
  | succ n ih =>
    rw [beBytes, ← List.singleton_append, beValue_append, ih, beBytes_length]
    have : beValue [BitVec.ofNat 8 (v / 256 ^ n)] = v / 256 ^ n % 256 := by simp [beValue]
    rw [this, Nat.pow_succ, Nat.mod_mul]; ring
theorem beBytes_fieldAt (xs ys : List Byte) (n v : Nat) : fieldAt (xs ++ (beBytes n v ++ ys)) xs.length n = v % 256 ^ n := by
  unfold fieldAt; rw [List.drop_left, List.take_append_of_le_length (by rw [beBytes_length]), List.take_of_length_le (by rw [beBytes_length]), beValue_beBytes]

theorem getElem_readAll (d : Byte) (m : Memory) (a n i : Nat) (h : i < n) : byteAt (m.readAll d a n) i = m.read d (a + i) := by
  unfold byteAt Memory.readAll; rw [List.getD_eq_getElem?_getD, List.getElem?_map, List.getElem?_range h]; rfl

/-- A big-endian value is within its bytes. -/
theorem beValue_lt (bs : List Byte) : beValue bs < 256 ^ bs.length := by
  induction bs with
  | nil => simp [beValue]
  | cons b bs ih =>
    rw [← List.singleton_append, beValue_append, List.length_append, Nat.pow_add]
    have hb : beValue [b] = b.toNat := by simp [beValue]
    have := b.isLt
    have hp : 0 < 256 ^ bs.length := Nat.pow_pos (by decide)
    rw [hb, List.length_singleton, Nat.pow_one]; nlinarith

/-- A field of `n` bytes is within them. -/
theorem fieldAt_lt (bs : List Byte) (a n : Nat) : fieldAt bs a n < 256 ^ n := by
  unfold fieldAt
  exact lt_of_lt_of_le (beValue_lt _) (Nat.pow_le_pow_right (by decide) (by simp))

/-- A field of one byte is that byte. -/
theorem fieldAt_one (bs : List Byte) (a : Nat) : fieldAt bs a 1 = (byteAt bs a).toNat := by
  unfold fieldAt byteAt beValue
  rw [List.getD_eq_getElem?_getD]
  by_cases h : a < bs.length
  · rw [List.drop_eq_getElem_cons h, List.getElem?_eq_getElem h]; show 0 * 256 + bs[a].toNat = _; simp
  · rw [List.drop_eq_nil_of_le (by omega)]; simp [List.getElem?_eq_none (by omega : bs.length ≤ a)]

end Sys2Proof.Machine
end

