-- ==== Sys2Proof/Laws/Views.lean ====
section
/-! SUPPORT. What each test of the model decides, in the words the statements use: one lemma per Boolean or search. -/

namespace Sys2Proof.Machine

-- One proof at a time: elaborated all at once, the proofs of the package as one text ask for more threads than memory allows.
set_option Elab.async false

/-- Laying a byte's value out as a byte gives the byte. -/
theorem byteOf_toNat (b : Byte) : byteOf b.toNat = b := by simp [byteOf]

/-- A byte from 0 to 7 names its stream (R28, R55). -/
theorem streamNoOf_eq {b : Byte} {i : StreamNo} (h : b.toNat = i.val) : streamNoOf b = some i := by
  unfold streamNoOf; rw [dif_pos (by omega)]; congr 1; exact Fin.ext h

/-- A byte above 7 names no stream. -/
theorem streamNoOf_none {b : Byte} (h : 7 < b.toNat) : streamNoOf b = none := by unfold streamNoOf; rw [dif_neg (by omega)]

/-- A lane-set byte from 1 to 15 passes (R29, R32). -/
theorem laneBitsOk_of_range {b : Byte} (h1 : 1 ≤ b.toNat) (h2 : b.toNat ≤ 15) : laneBitsOk b = true := by
  unfold laneBitsOk; simp; refine ⟨by omega, fun h => ?_⟩; rw [h] at h1; simp at h1

/-- A lane-set byte of 0 or above 15 fails (R29, R32). -/
theorem laneBitsOk_of_not_range {b : Byte} (h : b.toNat = 0 ∨ 15 < b.toNat) : laneBitsOk b = false := by
  unfold laneBitsOk; simp; intro hh; rcases h with h | h
  · exact BitVec.eq_of_toNat_eq (by simpa using h)
  · omega

/-- The window is limited to 16 (R29). -/
theorem windowTaken_eq_min (n : Nat) : windowTaken n = min n 16 := by unfold windowTaken; split <;> omega

/-- The condition under which quiet timers run (R33). -/
theorem quietCondition_iff (s : State) (i) : quietCondition s i = true ↔ QuietTimersRun s i := by
  unfold quietCondition QuietTimersRun
  simp only [Bool.and_eq_true, beq_iff_eq, List.any_eq_true, List.mem_range, Bool.not_eq_true']
  refine and_congr_right fun _ => ⟨fun ⟨n, h1, h2⟩ => ⟨_, by omega, by omega, h2⟩, fun ⟨b, h1, h2, h3⟩ => ⟨b - s.streams[i].lowEdge, by omega, ?_⟩⟩
  rw [show s.streams[i].lowEdge + (b - s.streams[i].lowEdge) = b by omega]; exact h3

/-- A stream holds no slot exactly when no slot's holder names it (R66). -/
theorem slotsHeld_eq_zero_iff (s : State) (i) : slotsHeld s i = 0 ↔ ∀ (k : SlotNo) (h : Holder), s.slots[k].holder = some h → h.stream ≠ i := by
  unfold slotsHeld; rw [List.length_eq_zero_iff, List.filter_eq_nil_iff]
  constructor
  · intro H k h e he; have := H k (List.mem_finRange k); unfold Slot.heldBy at this; rw [e] at this; simp [he] at this
  · intro H k _; unfold Slot.heldBy; cases e : s.slots[k].holder with
    | none => simp
    | some h => simpa using H k h e

/-- The parameters of kind number are 6 to 18 (R155). -/
theorem paramKind_number {n a b} (h : paramKind n = some (.number a b)) : 6 ≤ n ∧ n ≤ 18 := by
  unfold paramKind at h; split at h <;> simp_all

/-- The mode bytes that name no mode (R162). -/
theorem readModeOf_eq_none_iff {b : Byte} : readModeOf b = none ↔ 4 < b.toNat := by
  revert b; decide

/-- The codes that name no request (R152). -/
theorem requestOfCode_eq_none_iff {c : Byte} : requestOfCode c = none ↔ c ∉ ([0x01#8, 0x02#8, 0x03#8, 0x10#8, 0x11#8, 0x12#8, 0x13#8, 0x20#8, 0x30#8, 0x31#8, 0x50#8,
        0x51#8, 0x52#8, 0x53#8, 0x54#8, 0x5F#8] : List Byte) := by revert c; decide

/-- Only bit 0 of a flags byte may be set. -/
theorem flagBits_eq_zero_iff (b : Byte) : (b &&& 0xFE#8 = 0#8) ↔ b.toNat ≤ 1 := by revert b; decide

/-- The header's consistency check says what R15 says. -/
theorem headerConsistent_iff (h : HeaderFields) (n) : headerConsistent h n = true ↔ HeaderConsistent h n := by
  unfold headerConsistent HeaderConsistent HeaderFields.segmentCount ceilDiv
  dsimp only
  simp only [Bool.and_eq_true, beq_iff_eq, flagBits_eq_zero_iff, decide_eq_true_eq, List.all_eq_true, bne_iff_ne, and_assoc]; rfl

/-- The consistency check says what R15 says. -/
theorem manifestConsistent_iff (s : State) (i) (h : HeaderFields) (n) (hd : s.manifests[i].declaredBlocks = some n) : manifestConsistent s i h = true ↔ ManifestConsistent s i h n := by
  unfold manifestConsistent ManifestConsistent; rw [hd]; dsimp only [Option.getD_some]
  simp only [Bool.and_eq_true, headerConsistent_iff, List.all_eq_true, List.mem_range]
  refine and_congr_right fun _ => forall_congr' fun j => forall_congr' fun _ => ?_
  unfold entryConsistent; rw [Bool.and_eq_true, beq_iff_eq, flagBits_eq_zero_iff, beq_iff_eq]
  have : ∀ x, x < 34 → byteAt (entryBytesOf s i j) x = entryByte s (entryIndex s.manifests[i] j) x := by
    intro x hx; unfold byteAt entryBytesOf entryByte Memory.readAll entrySize entryAddress
    rw [List.getD_eq_getElem?_getD, List.getElem?_map, List.getElem?_range hx]; simp
  rw [this 32 (by omega), this 33 (by omega)]; rfl

/-- A target with no governing row (R129). -/
theorem rowOf_isNone_iff (rows : List GovRow) (t : Word16) : (rowOf rows t).isNone = true ↔ ∀ g ∈ rows, g.record.target ≠ t := by
  unfold rowOf; rw [Option.isNone_iff_eq_none, List.find?_eq_none]; simp

/-- The manifests a new one is compared with (R14). -/
theorem mem_comparedManifests (s : State) (i) (a) : a ∈ comparedManifests s i ↔ ComparedWith s i a := by
  unfold comparedManifests ComparedWith
  rw [List.mem_filterMap]
  constructor
  · rintro ⟨j, _, h⟩; split at h
    · cases h
    · next h' => exact ⟨j, h', h⟩
  · rintro ⟨j, h1, h2⟩; exact ⟨j, List.mem_finRange j, by rw [if_neg h1]; exact h2⟩

/-- The identifier check says what R16 says. -/
theorem identifiersClash_iff (m a : Accepted) : identifiersClash m a = true ↔ Clash a m := by
  unfold identifiersClash Clash
  simp only [Bool.and_eq_true, Bool.or_eq_true, beq_iff_eq]
  constructor
  · rintro ⟨h, h2⟩; exact ⟨h.symm, by tauto⟩
  · rintro ⟨h, h2⟩; exact ⟨h.symm, by tauto⟩

/-- The targets to make room for (R18). -/
theorem roomCount_eq (s : State) (i) (ts) (h : NewTargets s i ts) : roomCount s i = s.store.governing.length + ts.length := by
  unfold roomCount; congr 1
  refine List.Perm.length_eq ?_
  refine (List.perm_ext_iff_of_nodup (List.nodup_dedup _) h.1).mpr fun t => ?_
  rw [h.2 t, List.mem_dedup, List.mem_filter, rowOf_isNone_iff]
  refine and_congr_left fun _ => ?_
  rw [List.mem_map]; exact exists_congr fun a => and_congr_left fun _ => mem_comparedManifests s i a

/-- A stream has a frame ready as R109 says. -/
theorem frameReady_iff (s : State) (p i) : frameReady s p i = true ↔ FrameReady s p i := by
  unfold frameReady FrameReady
  simp only [Bool.and_eq_true, Bool.or_eq_true, beq_iff_eq, and_assoc]
  refine and_congr_right fun _ => and_congr ?_ ?_
  · cases s.streams[i].stage with
    | none => simp
    | some g => cases g; simp
  · cases s.streams[i].manifest with
    | none => simp
    | some m => simp

/-- The start conditions of R106. -/
theorem releaseDue_eq_some_iff (s : State) (i k) : releaseDue s i = some k ↔ ReleaseDue s i k := by
  unfold releaseDue ReleaseDue supplyOk
  dsimp only
  split
  · next h =>
    obtain ⟨h1, h2, h3⟩ := h
    rw [Option.filter_eq_some_iff]
    simp only [h1, h2, beq_iff_eq.mp h3, true_and, beq_iff_eq]
  · next h =>
    refine ⟨fun hh => (by cases hh), ?_⟩
    rintro ⟨h1, h2, h3, _⟩
    exact absurd ⟨h1, h2, by rw [h3]; rfl⟩ h

/-- The arbiter's search finds the first stream after the pointer (R109). -/
theorem arbiterOrder_find (q : StreamNo → Bool) (p d : StreamNo) (h : q (p + 1 + d) = true) (hn : ∀ e, e < d → q (p + 1 + e) = false) : (arbiterOrder p).find? q = some (p + 1 + d) := by
  have H : arbiterOrder p = (List.finRange 8).map (p + 1 + ·) := by clear h hn; revert p; decide
  rw [H, List.find?_map, Option.map_eq_some_iff]
  refine ⟨d, ?_, rfl⟩
  rw [List.find?_eq_some_iff_getElem]
  refine ⟨h, d.val, by simp, by simp, fun j hj => ?_⟩
  have := hn ⟨j, by omega⟩ (by exact hj)
  simpa using this

/-- The supply state is OK. -/
theorem supplyOk_of_ok {s : State} (h : s.supply.state = .ok) : supplyOk s = true := by unfold supplyOk; rw [h]; rfl

/-- The supply state is LOW. -/
theorem supplyOk_of_low {s : State} (h : s.supply.state = .low) : supplyOk s = false := by unfold supplyOk; rw [h]; rfl

/-- A voltage departs as R145 says. -/
theorem departs_iff (s : State) (mv) : departs s mv = true ↔ ((s.supply.state = .ok ∧ mv < 9000 + 600 * s.params.supplyLevel) ∨ (s.supply.state = .low ∧ 9000 + 600 * s.params.supplyLevel + 500 < mv)) := by
  unfold departs releaseLevelMv lowThresholdMv; cases h : s.supply.state <;> simp

/-- The stream an acknowledgement is for (R112). -/
theorem ackStream_eq {s : State} {p d i m} (h : AcknowledgesFor s p d i m) : ackStream s p d = some i := by
  obtain ⟨h1, h2, h3, h4⟩ := h
  unfold ackStream; rw [List.find?_eq_some_iff_getElem]
  refine ⟨by rw [h1]; simp [h2, h3], i.val, by simp, by simp, fun j hj => ?_⟩
  have hne : (⟨j, by omega⟩ : StreamNo) ≠ i := fun e => by rw [← e] at hj; simp at hj
  have := h4 ⟨j, by omega⟩
  simp only [List.getElem_finRange]
  cases e : s.streams[(⟨j, by omega⟩ : StreamNo)].manifest with
  | none => simp at e ⊢; rw [e]
  | some a => 
    have := this a hne e
    simp at e ⊢; rw [e]; dsimp only; 
    by_contra hc; simp at hc; exact this hc

/-- An acknowledgement for no stream (R112). -/
theorem ackStream_none {s : State} {p d} (h : AcknowledgesNone s p d) : ackStream s p d = none := by
  unfold ackStream; rw [List.find?_eq_none]; intro j _
  cases e : s.streams[j].manifest with
  | none => simp
  | some a => have := h j a e; simpa using this

/-- The outstanding block (R113). -/
theorem ackSubject_outstanding {s : State} {i b k m} (h : Outstanding s i b k m) : ackSubject s i b = .block k m.releaseRetryLimit := by
  obtain ⟨h1, h2, h3, h4⟩ := h
  unfold ackSubject; dsimp only; rw [h3]; dsimp only; rw [if_pos h2, if_pos h1, h4]

/-- The awaited END frame (R113, R123). -/
theorem ackSubject_endAwaited {s : State} {i m} (h : EndAwaited s i m) : ackSubject s i m.blockCount = .endFrame m.releaseRetryLimit := by
  obtain ⟨h1, h2, h3⟩ := h
  unfold ackSubject; dsimp only; rw [h3]; dsimp only; rw [if_pos h2, if_neg (by rw [h1]; simp), if_pos ⟨h1, rfl⟩]

/-- What an acknowledgement may concern (R113). -/
theorem ackSubject_cases (s : State) (i b) (m) (hm : s.streams[i].manifest = some m) : 
   (∃ k, Outstanding s i b k m ∧ ackSubject s i b = .block k m.releaseRetryLimit) ∨ (EndAwaited s i m ∧ b = m.blockCount ∧ ackSubject s i b = .endFrame m.releaseRetryLimit) ∨
   ((¬ ∃ k, Outstanding s i b k m) ∧ ¬ (EndAwaited s i m ∧ b = m.blockCount) ∧ ackSubject s i b = .none) := by
  by_cases h1 : ∃ k, Outstanding s i b k m
  · obtain ⟨k, h⟩ := h1; exact .inl ⟨k, h, ackSubject_outstanding h⟩
  · by_cases h2 : EndAwaited s i m ∧ b = m.blockCount
    · obtain ⟨h, rfl⟩ := h2; exact .inr (.inl ⟨h, rfl, ackSubject_endAwaited h⟩)
    · refine .inr (.inr ⟨h1, h2, ?_⟩)
      unfold ackSubject; dsimp only; rw [hm]; dsimp only
      split
      · next e1 =>
        split
        · next e2 =>
          split
          · next k e3 => exact absurd ⟨k, e2, e1, hm, e3⟩ h1
          · rfl
        · split
          · next e2 => exact absurd ⟨⟨e2.1, by rw [e1, e2.2], hm⟩, e2.2⟩ h2
          · rfl
      · rfl

/-- An answer is what the model takes for one (R112, R120). -/
theorem answers_iff (c : Instr) (p : Port) (d : Ident) (b : Nat) : Answers c p d b ↔ answerOf c = some (p, d, b) := by
  unfold Answers
  constructor
  · rintro (⟨w, rfl, rfl | rfl | rfl⟩ | ⟨f, rfl, hl, rfl, h⟩)
    · rfl
    · rfl
    · rfl
    · show (if f.length < 3 then none else _) = _
      rw [if_neg (by omega)]
      rcases h with h | h | h <;> rw [h] <;> rfl
  · intro h
    unfold answerOf at h
    split at h
    · cases h; exact .inl ⟨_, rfl, .inl rfl⟩
    · cases h; exact .inl ⟨_, rfl, .inr (.inl rfl)⟩
    · cases h; exact .inl ⟨_, rfl, .inr (.inr rfl)⟩
    · rename_i q e f
      split at h
      · cases h
      · rename_i hl
        split at h
        · cases h
        · rename_i r hr hne
          cases h
          refine .inr ⟨f, rfl, by omega, rfl, ?_⟩
          revert hr hne; generalize byteAt f 2 = x
          unfold ackResultOf; intro hr hne
          by_cases h1 : x = 1#8
          · exact .inl h1
          · by_cases h2 : x = 2#8
            · exact .inr (.inl h2)
            · by_cases h3 : x = 3#8
              · exact .inr (.inr h3)
              · rw [if_neg h1, if_neg h2, if_neg h3] at hne
                split at hne
                · cases hne; exact absurd rfl hr
                · cases hne
        · cases h
    · cases h

/-- No answer for the block comes next: the port's arbiter is judged (R109). -/
theorem serveResend_of_none {s : State} {i m b} (hm : s.streams[i].manifest = some m) (h : ¬ AnswerNext s m.port m.ackId b) :
    serveResend i b s = servePort m.port s := by
  have e : answerWaits i b s = false := by
    unfold answerWaits; split
    · rename_i p d n he
      obtain ⟨c, hc, ha⟩ := Option.bind_eq_some_iff.mp he
      by_contra hx
      simp only [Bool.not_eq_false, Bool.and_eq_true, beq_iff_eq] at hx
      obtain ⟨rfl, hi⟩ := hx
      have hf := List.find?_some hi
      rw [hm] at hf
      simp only [Bool.and_eq_true, beq_iff_eq] at hf
      exact h ⟨c, hc, by rw [hf.1, hf.2, answers_iff]; exact ha⟩
    · rfl
  unfold serveResend serveStreamPort; rw [e, hm]; rfl

/-- An answer for the block comes next: it is taken before the arbiter's search (R120). -/
theorem serveResend_of_next {s : State} {i m b} (ha : AcknowledgesFor s m.port m.ackId i m) (h : AnswerNext s m.port m.ackId b) :
    serveResend i b s = s := by
  obtain ⟨c, hc, h⟩ := h
  have e : answerWaits i b s = true := by
    unfold answerWaits; rw [hc, Option.bind_some, (answers_iff ..).mp h]; simp [ackStream_eq ha]
  unfold serveResend; rw [if_pos e]

/-- An answer for a stream is judged as R113 states. -/
theorem exec_answer {c : Instr} {s : State} {p d b i m} (h : Answers c p d b) (ha : AcknowledgesFor s p d i m) :
    ∃ r, r ≠ AckResult.activated ∧ exec c s = .next (judgeAck i b r s) := by
  have so := ackStream_eq ha
  have T : ∀ r, takeAck p d b r s = judgeAck i b r s := fun r => by unfold takeAck; rw [so]
  rcases h with ⟨w, rfl, rfl | rfl | rfl⟩ | ⟨f, rfl, hl, rfl, h⟩
  · exact ⟨.written, by decide, congrArg _ (T _)⟩
  · exact ⟨.busy, by decide, congrArg _ (T _)⟩
  · exact ⟨.rejected, by decide, congrArg _ (T _)⟩
  · have B : ∀ r, ackResultOf (byteAt f 2) = some r → exec (.branchFrame p d f) s = .next (judgeAck i (fieldAt f 0 2) r s) := by
      intro r hr
      show execBranchFrame p d f s = _
      unfold execBranchFrame; rw [so]; dsimp only; rw [if_neg (by omega), hr]
    rcases h with h | h | h
    · exact ⟨.written, by decide, B _ (by rw [h]; rfl)⟩
    · exact ⟨.busy, by decide, B _ (by rw [h]; rfl)⟩
    · exact ⟨.rejected, by decide, B _ (by rw [h]; rfl)⟩

/-- An answer that concerns nothing it may move (R113). -/
theorem judgeAck_untimely {s : State} {i b r} (hr : r ≠ AckResult.activated) (h : ackSubject s i b = .none) :
    judgeAck i b r s = untimelyAnswer i b s := by
  cases r
  · unfold judgeAck ackWritten; rw [h]
  · unfold judgeAck ackBusy; rw [h]
  · unfold judgeAck ackRejected; rw [h]
  · exact absurd rfl hr

/-- The urgent records (R166). -/
theorem urgent_iff (r : Record) : r.urgent = true ↔ (∃ i c, r = .stream i .faulted c) ∨ (∃ e, r = .supply e) ∨
    (∃ i t v f, r = .commit i t v f) ∨ ∃ c e, r = .restarted c e := by
  cases r with
  | stream i e c => cases e <;> simp [Record.urgent]
  | _ => simp [Record.urgent]

/-- A frame of the stream that occupies a transmit position and is still its work (R39, R105). -/
theorem frameInFlight_iff (s : State) (i : StreamNo) : frameInFlight s i = true ↔
    ∃ f, (∃ p : Port, s.ports[p].position = some f) ∧ f.stream = i ∧ f.answered = false := by
  unfold frameInFlight; rw [List.any_eq_true]
  constructor
  · rintro ⟨p, _, h⟩; split at h
    · rename_i f hf; simp [TxPosition.worksFor] at h; exact ⟨f, ⟨p, hf⟩, by simp [h], by simp [h]⟩
    · cases h
  · rintro ⟨f, ⟨p, hf⟩, h2, h3⟩; refine ⟨p, List.mem_finRange p, ?_⟩; rw [hf]; simp [TxPosition.worksFor, h2, h3]

/-- The same for one block of the stream. -/
theorem blockInTransmission_iff (s : State) (i : StreamNo) (b : Nat) : blockInTransmission s i b = true ↔
    ∃ f, ((∃ p : Port, s.ports[p].position = some f) ∧ f.stream = i ∧ f.answered = false) ∧ f.block = b := by
  unfold blockInTransmission; rw [List.any_eq_true]
  constructor
  · rintro ⟨p, _, h⟩; split at h
    · rename_i f hf; simp [TxPosition.worksFor] at h; exact ⟨f, ⟨⟨p, hf⟩, by simp [h], by simp [h]⟩, h.2⟩
    · cases h
  · rintro ⟨f, ⟨⟨p, hf⟩, h2, h3⟩, h4⟩; refine ⟨p, List.mem_finRange p, ?_⟩; rw [hf]; simp [TxPosition.worksFor, h2, h3, h4]

/-- A digest job of the stream (R39). -/
theorem jobInFlight_iff (s : State) (i : StreamNo) : jobInFlight s i = true ↔ .mac i ∈ s.engine.fifo ∨
    ∃ k h, Job.block k ∈ s.engine.fifo ∧ s.slots[k].holder = some h ∧ h.stream = i := by
  unfold jobInFlight; rw [List.any_eq_true]
  constructor
  · rintro ⟨j, hj, h⟩
    cases j with
    | block k =>
      unfold Job.belongsTo Slot.heldBy at h; dsimp only at h; split at h
      · rename_i g hg; exact .inr ⟨k, g, hj, hg, eq_of_beq h⟩
      · cases h
    | mac j => have := eq_of_beq h; subst this; exact .inl hj
  · rintro (h | ⟨k, g, hj, hg, h⟩)
    · exact ⟨_, h, by simp [Job.belongsTo]⟩
    · exact ⟨_, hj, by unfold Job.belongsTo Slot.heldBy; dsimp only; rw [hg]; simp [h]⟩

/-- The commit of the stream (R39). -/
theorem commitInFlight_iff (s : State) (i : StreamNo) : commitInFlight s i = true ↔ .commit i ∈ s.store.ops := by
  unfold commitInFlight; rw [List.any_eq_true]
  constructor
  · rintro ⟨j, hj, h⟩
    cases j with
    | commit k => have := eq_of_beq h; subst this; exact hj
    | installKey => cases h
  · intro h; exact ⟨_, h, by simp [NvmOp.isCommitOf]⟩

end Sys2Proof.Machine
end

