-- ==== Sys2Proof/Laws/Operations.lean ====
section
/-! SUPPORT. What the shared operations answer, said once: the lemmas a proof about a command cites in place of unfolding the
operation. -/

namespace Sys2Proof.Machine

-- One proof at a time: elaborated all at once, the proofs of the package as one text ask for more threads than memory allows.
set_option Elab.async false

/-- A request the interpreter holds, of sufficient length, is answered as its owner says (R152, R153). -/
theorem judgeKind_next {k l f} {s : State} (h : Judging k l f s) (o : Reply) : judgeKind k l f s o = .next (answered l f o.status o.data o.state) := by
  obtain ⟨h1, h2, h3⟩ := h
  unfold judgeKind judgeRequest; rw [if_pos ⟨h1, h2⟩, if_neg (Nat.not_lt.mpr h3)]; rfl

/-- The same for a reply given by its three parts. -/
theorem judgeKind_reply {k l f} {s : State} (h : Judging k l f s) {o : Reply} {st data} {u} (e : o = { status := st, data := data, state := u }) : judgeKind k l f s o = .next (answered l f st data u) := by
  rw [judgeKind_next h, e]

/-- What an entry's byte reads after extents have been cleared (R4, R5). -/
theorem read_clearedEntries (es : List Nat) (m : Memory) (hm : m.wf 0 = true) : 
   (es.foldl (fun m e => m.clear (entryAddress (e * extentEntries) 0) (extentEntries * entrySize)) m).wf 0 = true ∧ ∀ e b, b < 34 →
   (es.foldl (fun m e => m.clear (entryAddress (e * extentEntries) 0) (extentEntries * entrySize)) m).read 0 (entryAddress e b) = if e / 64 ∈ es then 0 else m.read 0 (entryAddress e b) := by
  induction es generalizing m with
  | nil => exact ⟨hm, by simp⟩
  | cons x es ih =>
    have := ih _ (Memory.wf_clear hm (entryAddress (x * extentEntries) 0) (extentEntries * entrySize))
    refine ⟨this.1, fun e b hb => ?_⟩
    rw [List.foldl_cons, this.2 e b hb, Memory.read_clear hm]
    unfold entryAddress extentEntries entrySize
    by_cases h1 : e / 64 ∈ es
    · simp [h1]
    · rw [if_neg h1]
      by_cases h2 : e / 64 = x
      · rw [if_pos (by constructor <;> omega), if_pos (by simp [h2])]
      · rw [if_neg (by omega), if_neg (by simp [h1, h2])]

/-- What an entry's received count reads after extents have been cleared (R4, R5). -/
theorem read_clearedCounts (es : List Nat) (m : Memory) (hm : m.wf 0 = true) : 
   (es.foldl (fun m e => m.clear (e * extentEntries) extentEntries) m).wf 0 = true ∧ ∀ e,
   (es.foldl (fun m e => m.clear (e * extentEntries) extentEntries) m).read 0 e = if e / 64 ∈ es then 0 else m.read 0 e := by
  induction es generalizing m with
  | nil => exact ⟨hm, by simp⟩
  | cons x es ih =>
    have := ih _ (Memory.wf_clear hm (x * extentEntries) extentEntries)
    refine ⟨this.1, fun e => ?_⟩
    rw [List.foldl_cons, this.2 e, Memory.read_clear hm]
    unfold extentEntries
    by_cases h1 : e / 64 ∈ es
    · simp [h1]
    · rw [if_neg h1]
      by_cases h2 : e / 64 = x
      · rw [if_pos (by constructor <;> omega), if_pos (by simp [h2])]
      · rw [if_neg (by omega), if_neg (by simp [h1, h2])]

theorem resolveAbort_engine (i) (s : State) : (resolveAbort i s).engine = s.engine := touches_resolveAbort s i .engine (by decide)

theorem freeSlot_engine (k) (s : State) : (freeSlot k s).engine = s.engine := touches_freeSlot s k .engine (by decide)

/-- The idle engine's first look at its head (R91). -/
theorem judgeHead_cons {s : State} {j rest} (hb : s.engine.busy = false) (e : s.engine.fifo = j :: rest) : judgeHead s = 
   match jobStream s j with
        | some i =>
          if s.streams[i].state = .aborting then judgeHeads rest.length (discardJob j i (s.withEngine { s.engine with fifo := rest })) else startJob j s
        | none => judgeHeads rest.length (s.withEngine { s.engine with fifo := rest }) := by
  unfold judgeHead; rw [e, List.length_cons]; conv_lhs => unfold judgeHeads
  rw [hb, e]; rfl

/-- The end of the running block job (R95). -/
theorem execBlockJobDone_next {k rest} {s : State} (hb : s.engine.busy = true) (hf : s.engine.fifo = .block k :: rest) : exec .blockJobDone s = .next (judgeHead (blockOutcome k (s.withEngine { fifo := rest, busy := false }))) := by
  show execBlockJobDone s = _; unfold execBlockJobDone jobLeft; rw [if_pos hb, hf]; rfl

/-- The end of the running MAC job (R100). -/
theorem execMacJobDone_next {i rest} {s : State} (hb : s.engine.busy = true) (hf : s.engine.fifo = .mac i :: rest) : exec .macJobDone s = .next (judgeHead (macOutcome i (s.withEngine { fifo := rest, busy := false }))) := by
  show execMacJobDone s = _; unfold execMacJobDone jobLeft; rw [if_pos hb, hf]; rfl

/-- The branch port of a stream with an accepted manifest. -/
theorem serveStreamPort_eq {s : State} {i m} (h : s.streams[i].manifest = some m) : serveStreamPort i s = servePort m.port s := by
  unfold serveStreamPort; rw [h]

/-- The slot of a block depends on the holders alone. -/
theorem slotOf_congr {s t : State} (h : ∀ k : SlotNo, t.slots[k].holder = s.slots[k].holder) (i b) : slotOf t i b = slotOf s i b := by
  unfold slotOf; congr 1; funext k; unfold Slot.holds; rw [h]

theorem setStream_getElem {s : State} {i x} : (s.setStream i x).streams[i] = x := by simp

/-- A reservation is not returned in ACTIVE (R31). -/
theorem returnReservation_active {s : State} {i} (h : s.streams[i].state = .active) : returnReservation i s = s := by
  unfold returnReservation; dsimp only; rw [if_neg]; rw [h]; simp

/-- A step in progress is the first of the running operation. -/
theorem stepInProgress_run {s : State} {st} (h : stepInProgress s = some st) : ∃ r rest, s.store.run = some r ∧ r.steps = st :: rest ∧ r.stepping = true := by
  unfold stepInProgress at h; split at h
  · next r e =>
    split at h
    · next e2 => cases e3 : r.steps with
      | nil => rw [e3] at h; cases h
      | cons a b => rw [e3] at h; cases h; exact ⟨r, b, e, e3, e2⟩
    · cases h
  · cases h

/-- The end of a step, by its readback (R126). -/
theorem execNvmStepDone_next {s : State} {r st rest rb mem ok} (h1 : s.store.run = some r) (h2 : r.stepping = true) (h3 : r.steps = st :: rest) (h4 : stepResult s.nvm st rb = some (mem, ok)) :
   exec (.nvmStepDone rb) s = .next (runStore (if ok then afterGoodStep r st rest ((s.withNvm (stepLeaves s.nvm r.job st mem ok)).withStore (s.store.stepEnded st ok)) else afterBadStep r st rest ((s.withNvm (stepLeaves s.nvm r.job st mem ok)).withStore (s.store.stepEnded st ok)))) := by
  show execNvmStepDone rb s = _; unfold execNvmStepDone; rw [h1]; dsimp only; rw [h3]; dsimp only; rw [if_neg (by rw [h2]; simp), h4]

/-- No operation begins while one runs, after a RESTART's issue, or with none queued (R133, R164). -/
theorem beginOps_of_idle {s : State} {n} (h : s.store.run.isSome = true ∨ s.interp.restartIssued = true ∨ s.store.ops = []) : beginOps n s = s := by
  cases n with
  | zero => rfl
  | succ n =>
    unfold beginOps
    rcases h with h | h | h
    · rw [h]; rfl
    · rw [h]; simp
    · rw [h]; split <;> rfl

theorem storeFailed_store (i) (u : State) : (storeFailed i u).store = u.store := touches_storeFailed u i .store (by decide)

/-- The operation at the head begins (R133). -/
theorem runStore_begins {s : State} {op tail} (h1 : s.store.run = none) (h2 : s.interp.restartIssued = false) (h3 : s.store.ops = op :: tail) :
   runStore s = match (generalizing := false) op with
     | .installKey key => startStep (s.withStore { s.store with run := some { job := .installKey, steps := keySteps key, stepping := false } })
     | .commit i => match s.streams[i].manifest with
        | some m =>
          match commitRun s.store i m with
          | some r => startStep (s.withStore { s.store with run := some r })
          | none => runStore (storeFailed i (s.withStore s.store.popOp))
        | none => runStore (s.withStore s.store.popOp) := by
  conv_lhs => unfold runStore
  rw [h3, List.length_cons]; unfold beginOps
  rw [h1, h2]; simp only [Option.isSome_none, Bool.or_self, Bool.false_eq_true, if_false, h3]
  cases op with
  | installKey key => rfl
  | commit i =>
    dsimp only
    cases e : s.streams[i].manifest with
    | none => dsimp only; unfold runStore; simp [Store.popOp, h3]
    | some m => 
      dsimp only
      cases e2 : commitRun s.store i m with
      | none => dsimp only; unfold runStore; rw [storeFailed_store]; simp [Store.popOp, h3]
      | some r => rfl

/-- The record of a commit (R134). -/
theorem newRecord_eq (rows) (m : Accepted) (r : VersionRecord) (h1 : r.target = m.target) (h2 : r.version = m.version) (h3 : r.floor.toNat = max (floorOf rows m.target).toNat m.newFloor.toNat)
   (h4 : ∀ g, rowOf rows m.target = some g → r.count = if g.record.count < 65535 then g.record.count + 1 else g.record.count) (h5 : rowOf rows m.target = none → r.count = 1) : newRecord rows m = r := by
  unfold newRecord
  cases r with | mk t v f c => 
  simp only at *
  rw [h1, h2]
  congr 1
  · apply BitVec.eq_of_toNat_eq; rw [h3]; split
    · omega
    · omega
  · cases e : rowOf rows m.target with
    | none => rw [h5 e]
    | some g => rw [h4 g e]; rfl

theorem stepEnded_ops (t : Store) (st ok) : (t.stepEnded st ok).ops = t.ops := by
  unfold Store.stepEnded Store.setErased; repeat' split
  all_goals rfl

theorem queueRecord_streams (r) (s : State) : (queueRecord r s).streams = s.streams := touches_queueRecord s r .streams (by decide)

/-- How a commit ends in success (R135). -/
theorem commitEnded_cases (i v) (u : State) : 
   (u.streams[i].state = .committing → commitEnded i v u = enterEnding i (queueRecord (.commit i v.target v.version v.floor) u)) ∧
   (u.streams[i].state ≠ .committing → commitEnded i v u = resolveAbort i (queueRecord (.commit i v.target v.version v.floor) u)) := by
  unfold commitEnded; dsimp only; rw [queueRecord_streams]
  exact ⟨fun h => if_pos h, fun h => if_neg h⟩

/-- How a failed commit of a COMMITTING stream ends (R138). -/
theorem storeFailed_committing (i) (u : State) (h : u.streams[i].state = .committing) : storeFailed i u = enterFaulted i .storeFail u := if_pos h

/-- How a failed commit of an ABORTING stream ends (R138). -/
theorem storeFailed_aborting (i) (u : State) (h : u.streams[i].state = .aborting) : storeFailed i u = resolveAbort i (u.setStream i { u.streams[i] with cause := some .storeFail }) := by
  unfold storeFailed; rw [if_neg (by rw [h]; simp), if_pos h]

end Sys2Proof.Machine
end

