-- ==== Sys2Proof/Laws/Power.lean ====
section
/-! SUPPORT. What a reset leaves of the non-volatile memory, and what a movement of the supply does, said once. -/

namespace Sys2Proof.Machine

set_option Elab.async false

/-! ## The canonical form -/

theorem wf_unknownStep {m : Memory} (h : m.wf erasedByte = true) (n : Nat) (st : NvmStep) :
    (unknownStep m n st).wf erasedByte = true := by
  cases st with
  | program a v => exact Memory.wf_writeAll h _ _
  | erase u => exact Memory.wf_writeAll (Memory.wf_clear h _ _) _ _

theorem wf_settleStep {m c : Memory} (h : c.wf erasedByte = true) (job : NvmJob) (st : NvmStep) :
    (settleStep m job st c).wf erasedByte = true := by
  match st with
  | .program _ _ => exact h
  | .erase (.page p) =>
    show (settlePage m job p c).wf erasedByte = true
    unfold settlePage; repeat' split
    · exact h
    · exact Memory.wf_writeAll h _ _
    · exact Memory.wf_write h _ _
  | .erase .key =>
    show (settleKey m c).wf erasedByte = true
    unfold settleKey; split
    · exact Memory.wf_write h _ _
    · exact h

theorem wf_leaveTrace {c : Memory} (h : c.wf erasedByte = true) (job : NvmJob) (st : NvmStep) :
    (leaveTrace job st c).wf erasedByte = true := by
  unfold leaveTrace; split
  · exact Memory.wf_write h _ _
  · exact h

/-- A cut step keeps the memory's canonical form (R126). -/
theorem wf_cutStep {m : Memory} (h : m.wf erasedByte = true) (n : Nat) (job : NvmJob) (st : NvmStep) :
    (cutStep m n job st).wf erasedByte = true :=
  wf_leaveTrace (wf_settleStep (wf_unknownStep h n st) job st) job st

theorem wf_cutShort {s : State} (h : s.nvm.wf erasedByte = true) : (cutShort s).nvm.wf erasedByte = true := by
  unfold cutShort; split
  · exact wf_cutStep h _ _ _
  · exact h

/-! ## What a cut step reads (R126, R139, R142) -/

theorem getElem_unknownBytes (start n b : Nat) (h : b < (unknownBytes start n).length) :
    (unknownBytes start n)[b] = Config.freeByte (start + b) := by
  simp [unknownBytes]

theorem read_unknownProgram {m : Memory} (h : m.wf erasedByte = true) (n a : Nat) (v : Byte) (x : Nat) :
    (unknownStep m n (.program a v)).read erasedByte x = if x = a then Config.freeByte n else m.read erasedByte x := by
  have e : unknownStep m n (.program a v) = m.write erasedByte a (Config.freeByte n) := by
    simp [unknownStep, unknownBytes, Memory.writeAll]
  rw [e, Memory.read_write h]

theorem read_unknownErase {m : Memory} (h : m.wf erasedByte = true) (n : Nat) (u : NvmUnit) (x : Nat) :
    (unknownStep m n (.erase u)).read erasedByte x =
      if u.base ≤ x ∧ x < u.base + u.size then Config.freeByte (n + (x - u.base)) else m.read erasedByte x := by
  have e : (unknownBytes n u.size).length = u.size := by simp [unknownBytes]
  unfold unknownStep
  rw [Memory.read_writeAll (Memory.wf_clear h _ _), Memory.read_clear h]
  by_cases hx : u.base ≤ x ∧ x < u.base + u.size
  · rw [dif_pos (by rw [e]; exact hx), if_pos hx]; exact getElem_unknownBytes _ _ _ _
  · rw [dif_neg (by rw [e]; exact hx), if_neg hx, if_neg hx]

/-- The trace that a cut step must leave changes one byte at most, the last one the step changes, to 0. -/
theorem read_leaveTrace {c : Memory} (h : c.wf erasedByte = true) (job : NvmJob) (st : NvmStep) (x : Nat) :
    (leaveTrace job st c).read erasedByte x =
      if job.isScan = false ∧ (∀ b, b < st.trace.2 → c.read erasedByte (st.trace.1 + b) = erasedByte) ∧ x = st.lastAddress then 0#8
      else c.read erasedByte x := by
  have hi := Memory.isClear_iff h st.trace.1 st.trace.2
  unfold leaveTrace
  by_cases hj : job.isScan = false ∧ ∀ b, b < st.trace.2 → c.read erasedByte (st.trace.1 + b) = erasedByte
  · rw [if_pos ⟨hj.1, hi.mpr hj.2⟩, Memory.read_write h]
    by_cases hx : x = st.lastAddress
    · rw [if_pos hx, if_pos ⟨hj.1, hj.2, hx⟩]
    · rw [if_neg hx, if_neg fun h => hx h.2.2]
  · rw [if_neg fun h => hj ⟨h.1, hi.mp h.2⟩, if_neg fun h => hj ⟨h.1, h.2.1⟩]

/-- A cut step of a commit or a key installation leaves what it was changing not erased (R139, R142). -/
theorem leaveTrace_traced {c : Memory} (h : c.wf erasedByte = true) {job : NvmJob} (hj : job.isScan = false) (st : NvmStep)
    (hl : st.trace.1 ≤ st.lastAddress ∧ st.lastAddress < st.trace.1 + st.trace.2) :
    ∃ b, b < st.trace.2 ∧ (leaveTrace job st c).read erasedByte (st.trace.1 + b) ≠ 0xFF#8 := by
  by_cases hc : ∀ b, b < st.trace.2 → c.read erasedByte (st.trace.1 + b) = erasedByte
  · refine ⟨st.lastAddress - st.trace.1, by omega, ?_⟩
    rw [Nat.add_sub_cancel' hl.1, read_leaveTrace h, if_pos ⟨hj, hc, rfl⟩]; decide
  · simp only [not_forall] at hc
    obtain ⟨b, hb, hne⟩ := hc
    refine ⟨b, hb, ?_⟩
    rw [read_leaveTrace h]; split
    · decide
    · exact hne

/-- What the cut erase of a page leaves of its header, before the trace (R139). -/
theorem read_settlePage {m c : Memory} (h : c.wf erasedByte = true) (job : NvmJob) (p : PageId) (x : Nat) :
    (settlePage m job p c).read erasedByte x =
      if c.read erasedByte (completeMarkerAddress p) ≠ 0x3C#8 then c.read erasedByte x
      else if m.read erasedByte (completeMarkerAddress p) = 0x3C#8 ∧ job.forms ≠ some p then
        if (NvmUnit.page p).base ≤ x ∧ x < (NvmUnit.page p).base + 4 then m.read erasedByte x else c.read erasedByte x
      else if x = completeMarkerAddress p then erasedByte else c.read erasedByte x := by
  unfold settlePage pageValid
  by_cases h1 : c.read erasedByte (completeMarkerAddress p) = 0x3C#8
  · have h1' : ¬ (c.read erasedByte (completeMarkerAddress p) == 0x3C#8) = false := by simp [h1]
    rw [if_neg h1', if_neg (not_not.mpr h1)]
    by_cases h2 : m.read erasedByte (completeMarkerAddress p) = 0x3C#8 ∧ job.forms ≠ some p
    · rw [if_pos ⟨beq_iff_eq.mpr h2.1, h2.2⟩, if_pos h2, Memory.read_writeAll h]
      simp only [Memory.readAll, List.length_map, List.length_range, List.getElem_map, List.getElem_range]
      split
      · rename_i hx; rw [Nat.add_sub_cancel' hx.1]
      · rfl
    · rw [if_neg fun h => h2 ⟨beq_iff_eq.mp h.1, h.2⟩, if_neg h2, Memory.read_write h]
  · rw [if_pos (beq_eq_false_iff_ne.mpr h1), if_pos h1]

/-- What the cut erase of the key area leaves of its marker, before the trace (R142). -/
theorem read_settleKey {m c : Memory} (h : c.wf erasedByte = true) (x : Nat) :
    (settleKey m c).read erasedByte x =
      if c.read erasedByte keyMarkerAddress = 0#8 ∧ m.read erasedByte keyMarkerAddress ≠ 0#8 ∧ x = keyMarkerAddress then erasedByte
      else c.read erasedByte x := by
  unfold settleKey keyMarked
  by_cases h1 : c.read erasedByte keyMarkerAddress = 0#8 ∧ m.read erasedByte keyMarkerAddress ≠ 0#8
  · rw [if_pos (by simpa using h1), Memory.read_write h]
    by_cases hx : x = keyMarkerAddress
    · rw [if_pos hx, if_pos ⟨h1.1, h1.2, hx⟩]
    · rw [if_neg hx, if_neg fun h => hx h.2.2]
  · rw [if_neg (by simpa using h1), if_neg fun h => h1 ⟨h.1, h.2.1⟩]

/-! ## What a reset changes before the volatile state takes its reset values -/

/-- Cutting an operation short changes the non-volatile memory and the free index alone. -/
theorem cutShort_eq (s : State) : ∃ m n, cutShort s = (s.withNvm m).withFreeIndex n := by
  unfold cutShort; split
  · exact ⟨_, _, rfl⟩
  · exact ⟨s.nvm, s.freeIndex, rfl⟩

/-- With no step in progress nothing is cut short. -/
theorem cutShort_of_none {s : State} (h : stepInProgress s = none) : cutShort s = s := by
  unfold cutShort; rw [h]; split <;> simp_all

/-- The step in progress is cut short (R126). -/
theorem cutShort_of_some {s : State} {r st} (hr : s.store.run = some r) (h : stepInProgress s = some st) :
    cutShort s = (s.withNvm (cutStep s.nvm s.freeIndex r.job st)).withFreeIndex (s.freeIndex + st.width) := by
  unfold cutShort; rw [hr, h]

/-! ## Movements of the supply (R146 to R148) -/

theorem moveSense_below {mv : Nat} (h : mv < 6000) (s : State) : moveSense mv s = execPowerOnReset mv s.pins.resetnLow s := if_pos h

theorem moveSense_inReset {mv : Nat} {s : State} (h : 6000 ≤ mv) (hp : s.phase = .inReset) :
    moveSense mv s = .next (s.withPins { s.pins with senseMv := mv }) := by
  unfold moveSense; rw [if_neg (by exact Nat.not_lt.mpr h), if_pos hp]

theorem moveSense_running {mv : Nat} {s : State} (h : 6000 ≤ mv) (hp : s.phase ≠ .inReset) :
    moveSense mv s = .next (compareSupply (s.withPins { s.pins with senseMv := mv })) := by
  unfold moveSense; rw [if_neg (by exact Nat.not_lt.mpr h), if_neg hp]

end Sys2Proof.Machine
end

