-- ==== Sys2Proof/Laws/Report.lean ====
section
/-! SUPPORT. What the report unit's operations do: forming a frame, beginning a drain and queuing a record keep the report
law (R167, R168), and queuing changes the counters only by records lost (R178). -/

namespace Sys2Proof.Machine

-- One proof at a time: elaborated all at once, the proofs of the package as one text ask for more threads than memory allows.
set_option Elab.async false

/-- The report law for one report unit. -/
def ReportUnit.Legal (r : ReportUnit) : Prop :=
  r.queue.length ≤ reportCapacity ∧ r.lost ≤ lostMax ∧ ∀ i, r.queue.countP (Record.isWindowOf i) ≤ 1

theorem reportLaw_iff {s : State} : ReportLaw s ↔ s.report.Legal := Iff.rfl

/-! ## Records taken from the head (R170) -/

/-- What is taken and what stays make up the queue. -/
theorem takeFitting_append (room : Nat) (q : List Record) : (takeFitting room q).1 ++ (takeFitting room q).2 = q := by
  induction q generalizing room with
  | nil => rfl
  | cons r q ih => simp only [takeFitting]; split <;> simp [ih]

/-- What is taken fits the room. -/
theorem takeFitting_fits (room : Nat) (q : List Record) : queuedBytes (takeFitting room q).1 ≤ room := by
  induction q generalizing room with
  | nil => simp [takeFitting, queuedBytes]
  | cons r q ih =>
    simp only [takeFitting]; split
    · rename_i h; have := ih (room - r.length); simp [queuedBytes] at this ⊢; omega
    · simp [queuedBytes]

/-- The first record that stays does not fit into what room is left. -/
theorem takeFitting_maximal (room : Nat) (q : List Record) (r : Record) (rest : List Record)
    (h : (takeFitting room q).2 = r :: rest) : room < queuedBytes (takeFitting room q).1 + r.length := by
  induction q generalizing room with
  | nil => simp [takeFitting] at h
  | cons x q ih =>
    simp only [takeFitting] at h ⊢; split
    · rename_i hx; rw [if_pos hx] at h
      have := ih (room - x.length) h; simp [queuedBytes] at this ⊢; omega
    · rename_i hx; rw [if_neg hx] at h; simp at h; simp [queuedBytes, ← h.1]; omega

/-! ## The report law -/

theorem ReportUnit.Legal.afterFrame {r : ReportUnit} (h : r.Legal) : r.afterFrame.Legal := by
  obtain ⟨h1, h2, h3⟩ := h
  have e := takeFitting_append reportRoom r.queue
  refine ⟨?_, by simp [ReportUnit.afterFrame], fun i => ?_⟩
  · have := congrArg List.length e; simp [ReportUnit.afterFrame] at this ⊢; omega
  · have := congrArg (List.countP (Record.isWindowOf i)) e
    have h3 := h3 i
    simp only [ReportUnit.afterFrame, List.countP_append] at this ⊢; omega

/-- Handing over a frame leaves the report unit alone. -/
@[simp] theorem handOver_report (l : Lane) (s : State) : (handOver l s).report = s.report :=
  touches_handOver s l .report (by decide)

/-- The report unit after `emit` is as before, or as after forming a frame. -/
theorem emit_report (s : State) : (emit s).report = s.report ∨ (emit s).report = s.report.afterFrame := by
  simp only [emit]; split
  · right; simp
  · left; rfl

theorem reportLaw_emit {s : State} (h : ReportLaw s) : ReportLaw (emit s) := by
  rw [reportLaw_iff] at *
  rcases emit_report s with e | e <;> rw [e]
  · exact h
  · exact h.afterFrame

theorem reportLaw_beginDrain {s : State} (h : ReportLaw s) : ReportLaw (beginDrain s) := by
  simp only [beginDrain]; split
  · exact h
  · exact reportLaw_emit (s := s.withReport _) h

theorem reportLaw_afterRecord {w : Bool} {s : State} (h : ReportLaw s) : ReportLaw (afterRecord w s) := by
  simp only [afterRecord]; repeat' split
  · exact reportLaw_emit h
  · exact reportLaw_beginDrain h
  · exact reportLaw_emit (s := s.withReport _) h

/-- A record can be appended when it is no WINDOW record of a stream that has one waiting. -/
def Appendable (r : Record) (s : State) : Prop :=
  ∀ i, r.isWindowOf i = true → s.report.queue.any (Record.isWindowOf i) = false

theorem reportLaw_appendRecord {r : Record} {s : State} (ha : Appendable r s) (h : ReportLaw s) :
    ReportLaw (appendRecord r s) := by
  obtain ⟨h1, h2, h3⟩ := h
  simp only [appendRecord]; split
  · refine reportLaw_afterRecord (s := s.withReport _) ⟨?_, h2, fun i => ?_⟩
    · simp; omega
    · simp only [State.withReport_report, List.countP_append, List.countP_singleton]
      split
      · rename_i hw
        have := ha i hw
        rw [List.any_eq_false] at this
        have : List.countP (Record.isWindowOf i) s.report.queue = 0 := by
          rw [List.countP_eq_zero]; intro a ha'; simpa using this a ha'
        omega
      · simpa using h3 i
  · refine ⟨h1, ?_, h3⟩
    simp only [State.withCounters_report, State.withReport_report, satInc]; split <;> omega

theorem reportLaw_queueRecord {r : Record} {s : State} (ha : Appendable r s) (h : ReportLaw s) :
    ReportLaw (queueRecord r s) := by
  simp only [queueRecord]; split
  · exact reportLaw_beginDrain (reportLaw_appendRecord ha h)
  · exact reportLaw_appendRecord ha h

theorem reportLaw_queueWindow {i : StreamNo} {low w : Nat} {s : State} (h : ReportLaw s) :
    ReportLaw (queueWindow i low w s) := by
  simp only [queueWindow]; split
  · obtain ⟨h1, h2, h3⟩ := h
    refine reportLaw_afterRecord (s := s.withReport _) ⟨by simpa using h1, h2, fun j => ?_⟩
    have := h3 j
    simp only [State.withReport_report, List.countP_map]
    refine Nat.le_trans (Nat.le_of_eq (List.countP_congr fun r _ => ?_)) this
    by_cases hr : r.isWindowOf i = true
    · cases r <;> simp_all [Record.isWindowOf]
    · simp [hr]
  · rename_i hq
    refine reportLaw_queueRecord (fun j hj => ?_) h
    simp only [Record.isWindowOf, beq_iff_eq] at hj; subst hj; simpa using hq

/-- A record that is not a WINDOW record can always be appended. -/
theorem appendable_of_not_window {r : Record} (hr : ∀ i, r.isWindowOf i = false) (s : State) : Appendable r s :=
  fun i hi => by simp [hr i] at hi

/-! ## Counters -/

@[simp] theorem handOver_counters (l : Lane) (s : State) : (handOver l s).counters = s.counters :=
  touches_handOver s l .counters (by decide)

@[simp] theorem emit_counters (s : State) : (emit s).counters = s.counters := touches_emit s .counters (by decide)

@[simp] theorem beginDrain_counters (s : State) : (beginDrain s).counters = s.counters :=
  touches_beginDrain s .counters (by decide)

@[simp] theorem afterRecord_counters (w : Bool) (s : State) : (afterRecord w s).counters = s.counters :=
  touches_afterRecord s w .counters (by decide)

/-- Queuing a record changes the counters only by raising records lost when the queue is full (R178). -/
theorem queueRecord_counters (r : Record) (s : State) :
    (queueRecord r s).counters =
      if s.report.queue.length < reportCapacity then s.counters else s.counters.raiseLost := by
  simp only [queueRecord, appendRecord]; repeat' split
  all_goals simp_all

/-! ## What queuing a record reads -/

/-- Two states in which everything that queuing a record reads or writes is the same. -/
def SameReportView (s t : State) : Prop :=
  t.report = s.report ∧ t.trunk = s.trunk ∧ t.params = s.params ∧ t.counters = s.counters

theorem SameReportView.handOver {s t : State} (h : SameReportView s t) (l : Lane) :
    SameReportView (handOver l s) (Machine.handOver l t) := by
  obtain ⟨h1, h2, h3, h4⟩ := h
  unfold Machine.handOver SameReportView
  rw [h2, h3]
  dsimp only
  repeat' split
  all_goals simp_all [State.setTrunk]

theorem SameReportView.emit {s t : State} (h : SameReportView s t) : SameReportView (emit s) (Machine.emit t) := by
  obtain ⟨h1, h2, h3, h4⟩ := h
  cases s; cases t
  dsimp only at h1 h2 h3 h4
  subst h1 h2 h3 h4
  unfold Machine.emit
  dsimp only
  split
  · apply SameReportView.handOver
    exact ⟨rfl, rfl, rfl, rfl⟩
  · exact ⟨rfl, rfl, rfl, rfl⟩

theorem SameReportView.beginDrain {s t : State} (h : SameReportView s t) :
    SameReportView (beginDrain s) (Machine.beginDrain t) := by
  obtain ⟨h1, h2, h3, h4⟩ := h
  unfold Machine.beginDrain
  rw [h1]
  dsimp only
  split
  · exact ⟨rfl, h2, h3, h4⟩
  · exact SameReportView.emit ⟨rfl, h2, h3, h4⟩

theorem SameReportView.afterRecord {s t : State} (h : SameReportView s t) (b : Bool) :
    SameReportView (afterRecord b s) (Machine.afterRecord b t) := by
  have h' := h
  obtain ⟨h1, h2, h3, h4⟩ := h
  unfold Machine.afterRecord
  rw [h1, h3]
  split
  · exact h'.emit
  · split
    · exact h'.beginDrain
    · exact SameReportView.emit ⟨rfl, h2, h3, h4⟩

theorem SameReportView.appendRecord {s t : State} (h : SameReportView s t) (r : Record) :
    SameReportView (appendRecord r s) (Machine.appendRecord r t) := by
  obtain ⟨h1, h2, h3, h4⟩ := h
  unfold Machine.appendRecord
  rw [h1]
  dsimp only
  split
  · apply SameReportView.afterRecord
    exact ⟨rfl, h2, h3, h4⟩
  · exact ⟨rfl, h2, h3, congrArg Counters.raiseLost h4⟩

theorem SameReportView.queueRecord {s t : State} (h : SameReportView s t) (r : Record) :
    SameReportView (queueRecord r s) (Machine.queueRecord r t) := by
  unfold Machine.queueRecord
  split
  · exact (h.appendRecord r).beginDrain
  · exact h.appendRecord r

theorem SameReportView.queueWindow {s t : State} (h : SameReportView s t) (i : StreamNo) (low w : Nat) :
    SameReportView (queueWindow i low w s) (Machine.queueWindow i low w t) := by
  have h' := h
  obtain ⟨h1, h2, h3, h4⟩ := h
  unfold Machine.queueWindow
  rw [h1]
  dsimp only
  split
  · apply SameReportView.afterRecord
    exact ⟨rfl, h2, h3, h4⟩
  · exact h'.queueRecord _

end Sys2Proof.Machine
end

