-- ==== Sys2Proof/Laws/Settles.lean ====
section
/-! SUPPORT. What every shared operation keeps, said once: from `s` to `t` no stream begins to load, takes a reservation or gains an
accepted manifest, no slot becomes held or VERIFIED, no extent is taken, no control queue grows, no floor changes, and the report
law, the counters' width and the canonical memories go on holding. The few operations that do one of these
things (`allocateSlot`, `blockMatch`, `beginLoad`, `startStream`, `acceptManifest`, `takeControl`, a commit's last step) are
taken apart by themselves. -/

namespace Sys2Proof.Machine

-- One proof at a time: elaborated all at once, the proofs of the package as one text ask for more threads than memory allows.
set_option Elab.async false

/-- What a shared operation keeps of one stream. -/
structure StreamSettles (x y : Stream) : Prop where
  loads : y.state.loads = true → x.state.loads = true
  held : y.reservationHeld = true → x.reservationHeld = true ∧ y.window = x.window
  manifest : ∀ m, y.manifest = some m → x.manifest = some m

/-- What a shared operation keeps of one slot. -/
def SlotSettles (x y : Slot) : Prop :=
  (y.holder = none ∧ y.HeldUnlessFree) ∨ (y.holder = x.holder ∧ (x.HeldUnlessFree → y.HeldUnlessFree) ∧ (y.state = .verified → x.state = .verified))

/-- What a shared operation keeps of one stream's part of the manifest store. -/
def ManifestSettles (x y : ManifestRec) : Prop :=
  (y.extents = [] ∧ y.declaredLength = none) ∨ (y.extents = x.extents ∧ y.declaredLength = x.declaredLength)

/-- What a shared operation keeps of the state. -/
structure Settles (s t : State) : Prop where
  streams : ∀ i : StreamNo, StreamSettles s.streams[i] t.streams[i]
  slots : ∀ k : SlotNo, SlotSettles s.slots[k] t.slots[k]
  manifests : ∀ i : StreamNo, ManifestSettles s.manifests[i] t.manifests[i]
  lanes : ∀ l : Lane, t.lanes[l].queue.length ≤ s.lanes[l].queue.length
  memories : MemoriesCanonical s → MemoriesCanonical t
  report : ReportLaw s → ReportLaw t
  counters : s.counters.Bounded → t.counters.Bounded
  snapshot : t.snapshot = s.snapshot
  governing : t.store.governing = s.store.governing
  store : s.store.KeepsFloor → t.store.KeepsFloor

variable {s t u : State}

theorem StreamSettles.refl (x : Stream) : StreamSettles x x := ⟨id, fun h => ⟨h, rfl⟩, fun _ h => h⟩

theorem StreamSettles.trans {x y z : Stream} (h1 : StreamSettles x y) (h2 : StreamSettles y z) : StreamSettles x z where
  loads h := h1.loads (h2.loads h)
  held h := ⟨(h1.held (h2.held h).1).1, (h2.held h).2.trans (h1.held (h2.held h).1).2⟩
  manifest m h := h1.manifest m (h2.manifest m h)

theorem SlotSettles.refl (x : Slot) : SlotSettles x x := .inr ⟨rfl, id, id⟩

theorem Slot.free_heldUnlessFree : Slot.free.HeldUnlessFree := by simp [Slot.HeldUnlessFree, Slot.free]

theorem SlotSettles.free (x : Slot) : SlotSettles x Slot.free := .inl ⟨rfl, Slot.free_heldUnlessFree⟩

theorem SlotSettles.heldUnlessFree {x y : Slot} (h : SlotSettles x y) (hx : x.HeldUnlessFree) : y.HeldUnlessFree :=
  h.elim (fun h => h.2) fun h => h.2.1 hx

theorem SlotSettles.holder {x y : Slot} (h : SlotSettles x y) : y.holder = none ∨ y.holder = x.holder :=
  h.elim (fun h => .inl h.1) fun h => .inr h.1

theorem SlotSettles.verified {x y : Slot} (h : SlotSettles x y) (hv : y.state = .verified) : x.state = .verified :=
  h.elim (fun h => by have := h.2.mpr h.1; simp_all) fun h => h.2.2 hv

theorem SlotSettles.trans {x y z : Slot} (h1 : SlotSettles x y) (h2 : SlotSettles y z) : SlotSettles x z := by
  rcases h2 with h2 | ⟨a, b, c⟩
  · exact .inl h2
  · rcases h1 with h1 | ⟨a', b', c'⟩
    · exact .inl ⟨a.trans h1.1, b h1.2⟩
    · exact .inr ⟨a.trans a', fun h => b (b' h), fun h => c' (c h)⟩

/-- A slot held before and after, in states that are neither FREE nor newly VERIFIED. -/
theorem SlotSettles.of_held {x y : Slot} {h : Holder} (hx : x.holder = some h) (hy : y.holder = x.holder)
    (hf : y.state ≠ .free) (hv : y.state = .verified → x.state = .verified) : SlotSettles x y :=
  .inr ⟨hy, fun _ => by simp [Slot.HeldUnlessFree, hf, hy, hx], hv⟩

theorem ManifestSettles.refl (x : ManifestRec) : ManifestSettles x x := .inr ⟨rfl, rfl⟩

theorem ManifestSettles.empty (x : ManifestRec) : ManifestSettles x ManifestRec.empty := .inl ⟨rfl, rfl⟩

theorem ManifestSettles.trans {x y z : ManifestRec} (h1 : ManifestSettles x y) (h2 : ManifestSettles y z) :
    ManifestSettles x z := by
  rcases h2 with h2 | ⟨a, b⟩
  · exact .inl h2
  · rcases h1 with ⟨c, d⟩ | ⟨c, d⟩
    · exact .inl ⟨a.trans c, b.trans d⟩
    · exact .inr ⟨a.trans c, b.trans d⟩

theorem Settles.refl (s : State) : Settles s s :=
  ⟨fun _ => .refl _, fun _ => .refl _, fun _ => .refl _, fun _ => le_refl _, id, id, id, rfl, rfl, id⟩

theorem Settles.trans (h1 : Settles s t) (h2 : Settles t u) : Settles s u where
  streams i := (h1.streams i).trans (h2.streams i)
  slots k := (h1.slots k).trans (h2.slots k)
  manifests i := (h1.manifests i).trans (h2.manifests i)
  lanes l := (h2.lanes l).trans (h1.lanes l)
  memories h := h2.memories (h1.memories h)
  report h := h2.report (h1.report h)
  counters h := h2.counters (h1.counters h)
  snapshot := h2.snapshot.trans h1.snapshot
  governing := h2.governing.trans h1.governing
  store h := h2.store (h1.store h)

/-- The same, the later change first. -/
theorem Settles.after (h2 : Settles t u) (h1 : Settles s t) : Settles s u := h1.trans h2

/-- A change outside the parts that `Settles` speaks of. -/
theorem Settles.of_touches {ps : List Part} (h : Touches ps s t)
    (hp : ∀ p ∈ ps, p ∈ [Part.phase, .pins, .supply, .params, .interp, .trunk, .engine, .contexts, .ports, .freeIndex, .pending] := by
      decide) : Settles s t := by
  have g (p : Part) (hn : p ∉ [Part.phase, .pins, .supply, .params, .interp, .trunk, .engine, .contexts, .ports, .freeIndex, .pending]) :
      p.Same s t := h p fun hm => hn (hp p hm)
  have e1 : t.streams = s.streams := g .streams (by decide)
  have e2 : t.slots = s.slots := g .slots (by decide)
  have e3 : t.manifests = s.manifests := g .manifests (by decide)
  have e4 : t.lanes = s.lanes := g .lanes (by decide)
  have e5 : t.nvm = s.nvm := g .nvm (by decide)
  have e6 : t.staging = s.staging := g .staging (by decide)
  have e7 : t.entryBytes = s.entryBytes ∧ t.entryCounts = s.entryCounts := g .entries (by decide)
  have e8 : t.report = s.report := g .report (by decide)
  have e9 : t.counters = s.counters := g .counters (by decide)
  have e11 : t.store = s.store := g .store (by decide)
  refine ⟨?_, ?_, ?_, ?_, ?_, ?_, ?_, g .snapshot (by decide), ?_, ?_⟩
  · intro i; rw [e1]; exact .refl _
  · intro i; rw [e2]; exact .refl _
  · intro i; rw [e3]; exact .refl _
  · intro l; rw [e4]
  · simp only [MemoriesCanonical, e5, e6, e7]; exact id
  · simp only [ReportLaw, e8]; exact id
  · rw [e9]; exact id
  · rw [e11]
  · rw [e11]; exact id

/-- A change of a stream that leaves its state's loading, its reservation and its manifest as they are. -/
theorem StreamSettles.of_same {x y : Stream} (h1 : y.state = x.state) (h2 : y.reservationHeld = x.reservationHeld)
    (h3 : y.window = x.window) (h4 : y.manifest = x.manifest) : StreamSettles x y :=
  ⟨by rw [h1]; exact id, fun h => ⟨h2 ▸ h, h3⟩, fun m h => h4 ▸ h⟩

/-- A change of a stream to a state that does not load. -/
theorem StreamSettles.of_state {x y : Stream} (h1 : y.state.loads = false) (h2 : y.reservationHeld = x.reservationHeld)
    (h3 : y.window = x.window) (h4 : y.manifest = x.manifest) : StreamSettles x y :=
  ⟨by simp [h1], fun h => ⟨h2 ▸ h, h3⟩, fun m h => h4 ▸ h⟩

theorem StreamSettles.vacant (x : Stream) : StreamSettles x Stream.vacant :=
  ⟨fun h => absurd h (by decide), fun h => absurd h (by decide), fun m h => absurd h (by simp [Stream.vacant])⟩

/-- A change of a slot's counts alone. -/
theorem SlotSettles.of_same {x y : Slot} (h1 : y.state = x.state) (h2 : y.holder = x.holder) : SlotSettles x y :=
  .inr ⟨h2, by simp only [Slot.HeldUnlessFree, h1, h2]; exact id, by rw [h1]; exact id⟩

/-! ## Updates -/

variable (s)

theorem settles_setStream (i) (x : Stream)
    (h : StreamSettles s.streams[i] x := by first | exact .of_same rfl rfl rfl rfl | exact .of_state rfl rfl rfl rfl) : Settles s (s.setStream i x) := by
  refine ⟨fun j => ?_, fun _ => .refl _, fun _ => .refl _, fun _ => le_refl _, id, id, id, rfl, rfl, id⟩
  simp only [State.setStream_streams, Fin.getElem_fin, Vector.getElem_set]
  split
  · rename_i e; have := Fin.ext e; subst this; exact h
  · exact .refl _

theorem settles_setSlot (k) (x : Slot) (h : SlotSettles s.slots[k] x := by exact .of_same rfl rfl) : Settles s (s.setSlot k x) := by
  refine ⟨fun _ => .refl _, fun j => ?_, fun _ => .refl _, fun _ => le_refl _, id, id, id, rfl, rfl, id⟩
  simp only [State.setSlot_slots, Fin.getElem_fin, Vector.getElem_set]
  split
  · rename_i e; have := Fin.ext e; subst this; exact h
  · exact .refl _

theorem settles_withSlots {x : Vector Slot 32} (h : ∀ k : SlotNo, SlotSettles s.slots[k] x[k]) : Settles s (s.withSlots x) :=
  ⟨fun _ => .refl _, h, fun _ => .refl _, fun _ => le_refl _, id, id, id, rfl, rfl, id⟩

theorem settles_setManifest (i) (x : ManifestRec) (h : ManifestSettles s.manifests[i] x := by exact .inr ⟨rfl, rfl⟩) : Settles s (s.setManifest i x) := by
  refine ⟨fun _ => .refl _, fun _ => .refl _, fun j => ?_, fun _ => le_refl _, id, id, id, rfl, rfl, id⟩
  simp only [State.setManifest_manifests, Fin.getElem_fin, Vector.getElem_set]
  split
  · rename_i e; have := Fin.ext e; subst this; exact h
  · exact .refl _

theorem settles_setLane (l) (x : LaneRx) (h : x.queue.length ≤ s.lanes[l].queue.length := by exact Nat.le_refl _) : Settles s (s.setLane l x) := by
  refine ⟨fun _ => .refl _, fun _ => .refl _, fun _ => .refl _, fun j => ?_, id, id, id, rfl, rfl, id⟩
  simp only [State.setLane_lanes, Fin.getElem_fin, Vector.getElem_set]
  split
  · rename_i e; have := Fin.ext e; subst this; exact h
  · exact le_refl _

theorem settles_withEntries {b c : Memory} (hb : s.entryBytes.wf 0 = true → b.wf 0 = true)
    (hc : s.entryCounts.wf 0 = true → c.wf 0 = true) : Settles s (s.withEntries b c) :=
  ⟨fun _ => .refl _, fun _ => .refl _, fun _ => .refl _, fun _ => le_refl _,
    fun h => ⟨h.1, h.2.1, hb h.2.2.1, hc h.2.2.2⟩, id, id, rfl, rfl, id⟩

theorem settles_withStaging {x : Memory} (hx : s.staging.wf 0 = true → x.wf 0 = true) : Settles s (s.withStaging x) :=
  ⟨fun _ => .refl _, fun _ => .refl _, fun _ => .refl _, fun _ => le_refl _,
    fun h => ⟨h.1, hx h.2.1, h.2.2.1, h.2.2.2⟩, id, id, rfl, rfl, id⟩

theorem settles_withNvm {x : Memory} (hx : s.nvm.wf erasedByte = true → x.wf erasedByte = true) : Settles s (s.withNvm x) :=
  ⟨fun _ => .refl _, fun _ => .refl _, fun _ => .refl _, fun _ => le_refl _,
    fun h => ⟨hx h.1, h.2⟩, id, id, rfl, rfl, id⟩

theorem settles_withStore {x : Store} (hg : x.governing = s.store.governing) (hk : s.store.KeepsFloor → x.KeepsFloor) :
    Settles s (s.withStore x) :=
  ⟨fun _ => .refl _, fun _ => .refl _, fun _ => .refl _, fun _ => le_refl _, id, id, id, rfl, hg, hk⟩

theorem settles_withReport {x : ReportUnit} (h : s.report.Legal → x.Legal) : Settles s (s.withReport x) :=
  ⟨fun _ => .refl _, fun _ => .refl _, fun _ => .refl _, fun _ => le_refl _, id, h, id, rfl, rfl, id⟩

theorem settles_withCounters {x : Counters} (h : s.counters.Bounded → x.Bounded) : Settles s (s.withCounters x) :=
  ⟨fun _ => .refl _, fun _ => .refl _, fun _ => .refl _, fun _ => le_refl _, id, id, h, rfl, rfl, id⟩

theorem settles_setCtx (i x) : Settles s (s.setCtx i x) := .of_touches (touches_setCtx s i x)
theorem settles_withEngine (x) : Settles s (s.withEngine x) := .of_touches (touches_withEngine s x)
theorem settles_setPort (p x) : Settles s (s.setPort p x) := .of_touches (touches_setPort s p x)
theorem settles_setTrunk (l x) : Settles s (s.setTrunk l x) := .of_touches (touches_setTrunk s l x)
theorem settles_withInterp (x) : Settles s (s.withInterp x) := .of_touches (touches_withInterp s x)
theorem settles_withSupply (x) : Settles s (s.withSupply x) := .of_touches (touches_withSupply s x)
theorem settles_withPhase (x) : Settles s (s.withPhase x) := .of_touches (touches_withPhase s x)
theorem settles_withPins (x) : Settles s (s.withPins x) := .of_touches (touches_withPins s x)
theorem settles_withParams (x) : Settles s (s.withParams x) := .of_touches (touches_withParams s x)
theorem settles_handOver (l) : Settles s (handOver l s) := .of_touches (touches_handOver s l)

/-! ## Counters -/

theorem satInc_le {top n : Nat} (h : n ≤ top) : satInc top n ≤ top := by simp only [satInc]; split <;> omega

theorem raiseAt_le {row : Vector Nat 10} (h : ∀ k : Fin 10, row[k] ≤ counterMax) (i k : Fin 10) :
    (raiseAt row i)[k] ≤ counterMax := by
  simp only [raiseAt, Fin.getElem_fin, Vector.getElem_set]
  split
  · exact satInc_le (h i)
  · exact h k

theorem Counters.Bounded.raiseLane {c : Counters} (h : c.Bounded) (l k) : (c.raiseLane l k).Bounded := by
  refine ⟨fun m j => ?_, h.2.1, h.2.2⟩
  simp only [Counters.raiseLane, Fin.getElem_fin, Vector.getElem_set]
  split
  · exact raiseAt_le (h.1 l) _ j
  · exact h.1 m j

theorem Counters.Bounded.raiseStream {c : Counters} (h : c.Bounded) (i k) : (c.raiseStream i k).Bounded := by
  refine ⟨h.1, fun m j => ?_, h.2.2⟩
  simp only [Counters.raiseStream, Fin.getElem_fin, Vector.getElem_set]
  split
  · exact raiseAt_le (h.2.1 i) _ j
  · exact h.2.1 m j

theorem Counters.Bounded.raiseLost {c : Counters} (h : c.Bounded) : c.raiseLost.Bounded :=
  ⟨h.1, h.2.1, satInc_le h.2.2⟩

theorem settles_countLane (l k) : Settles s (countLane l k s) := settles_withCounters s fun h => h.raiseLane l k
theorem settles_countStream (i k) : Settles s (countStream i k s) := settles_withCounters s fun h => h.raiseStream i k

/-! ## The report unit -/

/-- A change within the report unit, the trunk sections and the counters that keeps their laws. -/
theorem Settles.of_reports (h : Touches reportParts s t) (hr : ReportLaw s → ReportLaw t)
    (hc : s.counters.Bounded → t.counters.Bounded) : Settles s t := by
  have h' : Settles ((s.withReport t.report).withCounters t.counters) t := by
    refine .of_touches (ps := [.trunk]) ?_
    intro p hp
    cases p
    case report => rfl
    case counters => rfl
    case trunk => exact absurd (by decide) hp
    all_goals first
      | exact h .phase (by decide) | exact h .pins (by decide) | exact h .supply (by decide) | exact h .params (by decide)
      | exact h .interp (by decide) | exact h .lanes (by decide) | exact h .streams (by decide)
      | exact h .manifests (by decide) | exact h .entries (by decide) | exact h .slots (by decide)
      | exact h .staging (by decide) | exact h .engine (by decide) | exact h .contexts (by decide)
      | exact h .ports (by decide) | exact h .store (by decide) | exact h .nvm (by decide)
      | exact h .snapshot (by decide) | exact h .freeIndex (by decide) | exact h .pending (by decide)
  have h1 : Settles s (s.withReport t.report) := settles_withReport s hr
  exact h'.after ((settles_withCounters (s.withReport t.report) hc).after h1)

theorem settles_emit : Settles s (emit s) :=
  .of_reports s (touches_emit s).mono reportLaw_emit (by rw [emit_counters]; exact id)

theorem settles_beginDrain : Settles s (beginDrain s) :=
  .of_reports s (touches_beginDrain s).mono reportLaw_beginDrain (by rw [beginDrain_counters]; exact id)

theorem settles_queueRecord (r) (ha : Appendable r s) : Settles s (queueRecord r s) :=
  .of_reports s (touches_queueRecord s r) (reportLaw_queueRecord ha) (by
    rw [queueRecord_counters]; split
    · exact id
    · exact fun h => h.raiseLost)

/-- A record that is no WINDOW record. -/
theorem settles_queue (r) (hr : ∀ i, r.isWindowOf i = false := by intro _; rfl) : Settles s (queueRecord r s) :=
  settles_queueRecord s r (appendable_of_not_window hr s)

theorem settles_queueWindow (i low w) : Settles s (queueWindow i low w s) :=
  .of_reports s (touches_queueWindow s i low w) reportLaw_queueWindow (by
    simp only [queueWindow]; split
    · simp
    · rw [queueRecord_counters]; split
      · exact id
      · exact fun h => h.raiseLost)

/-! ## Control -/

theorem settles_serveLane : Settles s (serveLane s) := by
  unfold serveLane; repeat' split
  · rename_i hq
    refine (settles_withInterp _ _).after (settles_setLane s _ _ ?_)
    simp [Fin.getElem_fin] at hq ⊢; simp [hq]
  all_goals exact .refl s

theorem settles_respond (l f) : Settles s (respond l f s) :=
  (settles_serveLane _).after ((settles_withInterp _ _).after ((settles_handOver _ _).after (settles_setTrunk s _ _)))

/-! ## A stream's life -/

theorem settles_foldClear (a : Nat → Nat) (n : Nat) (d : Byte) (es : List Nat) (m : Memory) (h : m.wf d = true) :
    Memory.wf d (es.foldl (fun m e => m.clear (a e) n) m) = true := by
  induction es generalizing m with
  | nil => exact h
  | cons e es ih => exact ih _ (Memory.wf_clear h _ _)

theorem settles_releaseExtents (i) : Settles s (releaseExtents i s) :=
  (settles_setManifest _ _ _ (.empty _)).after
    (settles_withEntries s (settles_foldClear _ _ _ _ _) (settles_foldClear _ _ _ _ _))

theorem settles_enterVacant (i c) : Settles s (enterVacant i c s) :=
  (settles_queue _ _).after ((settles_setCtx _ _ _).after ((settles_setStream _ _ _ (.vacant _)).after
    (settles_releaseExtents s i)))

theorem settles_resolveAbort (i) : Settles s (resolveAbort i s) := by
  unfold resolveAbort; split
  · exact settles_enterVacant s _ _
  · exact .refl s

theorem settles_returnReservation (i) : Settles s (returnReservation i s) := by
  unfold returnReservation; dsimp only; split
  · exact settles_setStream s _ _ ⟨id, by simp, fun _ h => h⟩
  · exact .refl s

theorem settles_stopQuietIfDone (i) : Settles s (stopQuietIfDone i s) := by
  unfold stopQuietIfDone; split
  · exact .refl s
  · exact settles_setStream s _ _

theorem settles_freeSlot (k) : Settles s (freeSlot k s) := by
  unfold freeSlot; split
  · exact (settles_returnReservation _ _).after (settles_setSlot s _ _ (.free _))
  · exact settles_setSlot s _ _ (.free _)

theorem settles_freeIdleSlots (i) : Settles s (freeIdleSlots i s) := by
  refine settles_withSlots s fun k => ?_
  simp only [Fin.getElem_fin, Vector.getElem_ofFn]
  split
  · exact .free _
  · exact .refl _

theorem settles_stopRelease (i) : Settles s (stopRelease i s) := by
  unfold stopRelease; dsimp only; split
  · exact settles_setCtx s _ _
  · exact (settles_setStream _ _ _).after (settles_setCtx s _ _)

theorem settles_stopStream (i) : Settles s (stopStream i s) :=
  (settles_freeIdleSlots _ _).after ((settles_stopRelease _ _).after (settles_setStream s _ _))

theorem settles_enterFaulted (i c) : Settles s (enterFaulted i c s) :=
  (settles_queue _ _).after ((settles_returnReservation _ _).after
    ((settles_setStream _ _ _).after (settles_stopStream s _)))

theorem settles_enterAborting (i c) : Settles s (enterAborting i c s) :=
  (settles_returnReservation _ _).after (settles_setStream s _ _)

theorem settles_freeEndedSlot (k i) : Settles s (freeEndedSlot k i s) :=
  (settles_resolveAbort _ _).after (settles_freeSlot s _)

/-! ## Release to branch ports -/

variable {s}

/-- The slot that a lookup finds holds the pair looked up (R68). -/
theorem holds_of_slotOf {i b k} (h : slotOf s i b = some k) : s.slots[k].holds i b = true := by
  have := List.find?_some h; simpa using this

theorem holder_of_holds {x : Slot} {i b} (h : x.holds i b = true) :
    ∃ g, x.holder = some g ∧ g.stream = i ∧ g.block = b := by
  unfold Slot.holds at h; split at h
  · rename_i g hg; simp at h; exact ⟨g, hg, h.1, h.2⟩
  · cases h

theorem holder_of_slotOf {i b k} (h : slotOf s i b = some k) :
    ∃ g, s.slots[k].holder = some g ∧ g.stream = i ∧ g.block = b := holder_of_holds (holds_of_slotOf h)

variable (s)

theorem settles_handFrame (i p) : Settles s (handFrame i p s) := by
  unfold handFrame; repeat' split
  · unfold handEndFrame
    exact (settles_setStream _ _ _).after (settles_setPort s _ _)
  · rename_i k hk
    obtain ⟨g, hg, -, -⟩ := holder_of_slotOf hk
    unfold handBlockFrame; dsimp only; split
    · refine (settles_setStream _ _ _).after
        ((settles_setSlot _ _ _ ?_).after (settles_setPort s _ _))
      exact .of_held (h := g) hg rfl (by simp) (by simp)
    · refine (settles_setSlot _ _ _ ?_).after (settles_setPort s _ _)
      exact .inr ⟨rfl, id, id⟩
  · exact .refl s
  · exact .refl s

theorem settles_servePort (p) : Settles s (servePort p s) := by
  unfold servePort; repeat' split
  all_goals first | exact .refl s | exact settles_handFrame s _ _

theorem settles_serveStreamPort (i) : Settles s (serveStreamPort i s) := by
  unfold serveStreamPort; split
  · exact settles_servePort s _
  · exact .refl s

theorem settles_startRelease (i) : Settles s (startRelease i s) := by
  unfold startRelease; split
  · rename_i k hk
    have hk' : slotOf s i s.streams[i].lowEdge = some k := by
      unfold releaseDue at hk; dsimp only at hk; split at hk
      · exact (Option.filter_eq_some_iff.mp hk).1
      · cases hk
    obtain ⟨g, hg, -, -⟩ := holder_of_slotOf hk'
    exact (settles_setStream _ _ _).after
      (settles_setSlot s _ _ (by exact .of_held (h := g) hg rfl (by simp) (by simp)))
  · exact .refl s

theorem settles_tryRelease (i) : Settles s (tryRelease i s) :=
  (settles_serveStreamPort _ _).after (settles_startRelease s _)

theorem settles_startResend (i b) : Settles s (startResend i b s) := by
  unfold startResend; split
  · rename_i k hk
    obtain ⟨g, hg, -, -⟩ := holder_of_slotOf hk
    exact (settles_setStream _ _ _).after
      (settles_setSlot s _ _ (by exact .of_held (h := g) hg rfl (by simp) (by simp)))
  · exact .refl s

theorem settles_startEnd (i) : Settles s (startEnd i s) := settles_setStream s _ _

theorem settles_enterEnding (i) : Settles s (enterEnding i s) := by
  unfold enterEnding; dsimp only; split
  · exact (settles_serveStreamPort _ _).after ((settles_startEnd _ _).after ((settles_setCtx _ _ _).after
      (settles_setStream s _ _)))
  · exact (settles_setCtx _ _ _).after (settles_setStream s _ _)

theorem settles_startHeldWork (i) : Settles s (startHeldWork i s) := by
  unfold startHeldWork; dsimp only; repeat' split
  · exact (settles_startResend _ _ _).after (settles_setCtx s _ _)
  · exact (settles_startEnd _ _).after (settles_setCtx s _ _)
  · exact settles_startRelease s _

theorem settles_foldl {α : Type} {f : State → α → State} (hf : ∀ t a, Settles t (f t a)) :
    ∀ (l : List α) (s : State), Settles s (l.foldl f s)
  | [], s => .refl s
  | a :: l, s => (hf s a).trans (settles_foldl hf l (f s a))

theorem settles_startAllHeld : Settles s (startAllHeld s) :=
  (settles_foldl (fun t p => settles_servePort t p) _ _).after (settles_foldl (fun t i => settles_startHeldWork t i) _ s)

theorem settles_freeKeptSlot (i b) : Settles s (freeKeptSlot i b s) := by
  unfold freeKeptSlot; repeat' split
  all_goals first | exact .refl s | exact settles_freeSlot s _

theorem settles_frameEnded (f) : Settles s (frameEnded f s) := by
  unfold frameEnded; dsimp only; repeat' split
  · exact .refl s
  · exact (settles_resolveAbort _ _).after ((settles_setStream _ _ _).after (settles_freeKeptSlot s _ _))
  · exact settles_setCtx s _ _
  · exact .refl s

/-! ## The version store -/

/-- The floor of a target in the table after a row has been put (R134). -/
theorem rowOf_putRow (r : GovRow) (rows : List GovRow) (t : Word16) :
    rowOf (putRow r rows) t = if r.record.target = t then some r else rowOf rows t := by
  induction rows with
  | nil => by_cases h : r.record.target = t <;> simp [putRow, rowOf, h]
  | cons x xs ih =>
    simp only [rowOf] at ih
    simp only [putRow]
    split
    · by_cases h1 : r.record.target = t <;> simp [rowOf, h1]
    · split
      · rename_i h2
        by_cases h1 : r.record.target = t <;> simp [rowOf, ← h2, h1]
      · rename_i h2
        by_cases h1 : x.record.target = t
        · simp [rowOf, h1, h1 ▸ h2]
        · simp only [rowOf, List.find?_cons]
          rw [show (x.record.target == t) = false by simpa using h1]
          exact ih

/-- A commit's record does not lower its target's floor (R134). -/
theorem newRecord_keepsFloor (rows : List GovRow) (m : Accepted) :
    (newRecord rows m).target = m.target ∧
      (floorOf rows (newRecord rows m).target).toNat ≤ (newRecord rows m).floor.toNat := by
  refine ⟨rfl, ?_⟩
  simp only [newRecord]; split <;> omega

theorem settles_startStep : Settles s (startStep s) := by
  unfold startStep; repeat' split
  · rename_i r hr _ st rest _ _
    refine settles_withStore s ?_ ?_
    · unfold Store.stepStarted; repeat' split
      all_goals first | rfl | (unfold Store.setErased; split <;> rfl)
    · intro h
      have e : (s.store.stepStarted st).governing = s.store.governing := by
        unfold Store.stepStarted; repeat' split
        all_goals first | rfl | (unfold Store.setErased; split <;> rfl)
      unfold Store.KeepsFloor at h ⊢; rw [hr] at h; simpa only [e] using h
  all_goals exact .refl s

theorem settles_storeFailed (i) : Settles s (storeFailed i s) := by
  unfold storeFailed; repeat' split
  · exact settles_enterFaulted s _ _
  · exact (settles_resolveAbort _ _).after (settles_setStream s _ _)
  · exact .refl s

theorem settles_commitEnded (i r) : Settles s (commitEnded i r s) := by
  unfold commitEnded; dsimp only; split
  · exact (settles_enterEnding _ _).after (settles_queue s _)
  · exact (settles_resolveAbort _ _).after (settles_queue s _)

theorem settles_popOp : Settles s (s.withStore s.store.popOp) := settles_withStore s rfl fun _ => trivial

theorem commitRun_keepsFloor {t : Store} {i m r} (h : commitRun t i m = some r) :
    Store.KeepsFloor { t with run := some r } := by
  unfold commitRun at h; dsimp only at h; repeat' split at h
  all_goals cases h
  all_goals exact (newRecord_keepsFloor t.governing m).2

theorem settles_beginOps : ∀ (n : Nat) (s : State), Settles s (beginOps n s)
  | 0, s => .refl s
  | n + 1, s => by
    unfold beginOps; repeat' split
    · exact .refl s
    · exact .refl s
    · exact settles_withStore s rfl fun _ => trivial
    · rename_i r hr
      exact settles_withStore s rfl fun _ => commitRun_keepsFloor hr
    · exact (settles_beginOps n _).after ((settles_storeFailed _ _).after (settles_popOp s))
    · exact (settles_beginOps n _).after (settles_popOp s)

theorem settles_runStore : Settles s (runStore s) := (settles_startStep _).after (settles_beginOps _ s)

theorem settles_joinOps (op) : Settles s (joinOps op s) :=
  (settles_runStore _).after (settles_withStore s rfl id)

theorem settles_enterCommitting (i) : Settles s (enterCommitting i s) :=
  (settles_joinOps _ _).after ((settles_returnReservation _ _).after
    (settles_setStream s _ _))

theorem settles_finishScan (c r) : Settles s (finishScan c r s) := (settles_withPhase _ _).after (settles_queue s _)

theorem settles_commitDone (i r) : Settles s (commitDone i r s) := (settles_commitEnded _ _ _).after (settles_popOp s)

theorem settles_afterBadStep (r st rest) : Settles s (afterBadStep r st rest s) := by
  have he (x v) : (s.store.popOp.setErased x v).governing = s.store.governing := by
    unfold Store.setErased; split <;> rfl
  have hk (x v) : (s.store.popOp.setErased x v).KeepsFloor := by
    unfold Store.setErased; split <;> exact trivial
  unfold afterBadStep; dsimp only; split
  · rename_i c hj
    split
    · refine (settles_finishScan _ _ _).after (settles_withStore s ?_ fun _ => trivial)
      split <;> rfl
    · refine settles_withStore s ?_ fun _ => ?_
      · split <;> rfl
      · simp [Store.KeepsFloor, hj]
  · exact (settles_storeFailed _ _).after (settles_withStore s rfl fun _ => trivial)
  · split
    · exact settles_commitDone s _ _
    · exact (settles_storeFailed _ _).after (settles_withStore s (he _ _) fun _ => hk _ _)
  · exact (settles_storeFailed _ _).after (settles_withStore s (he _ _) fun _ => hk _ _)
  · exact settles_withStore s rfl fun _ => trivial

/-! ## The digest engine -/

theorem settles_discardJob (j i) : Settles s (discardJob j i s) := by
  unfold discardJob; split
  · exact settles_freeEndedSlot s _ _
  · exact settles_resolveAbort s _

theorem settles_startJob (j) (h : (jobStream s j).isSome = true) : Settles s (startJob j s) := by
  unfold startJob; dsimp only; split
  · rename_i k
    refine (settles_setSlot _ _ _ ?_).after (settles_withEngine s _)
    simp only [jobStream, Option.isSome_map] at h
    obtain ⟨g, hg⟩ := Option.isSome_iff_exists.mp h
    exact .of_held (h := g) hg rfl (by simp) (by simp)
  · exact settles_withEngine s _

/-- Judging every head there is leaves the engine busy or its FIFO empty (R91). -/
theorem judgeHeads_engine : ∀ (n : Nat) (s : State), s.engine.fifo.length ≤ n → EngineLaw (judgeHeads n s)
  | 0, s, h => by intro _; show s.engine.fifo = []; simpa using h
  | n + 1, s, h => by
    unfold judgeHeads; dsimp only; repeat' split
    · rename_i hb; intro hf; simp [hb] at hf
    · intro _; assumption
    · rename_i j rest hq _ i hi ha
      refine judgeHeads_engine n _ ?_
      have : (discardJob j i (s.withEngine { s.engine with fifo := rest })).engine = { s.engine with fifo := rest } :=
        touches_discardJob _ j i .engine (by decide)
      rw [this]; simp [hq] at h; simpa using h
    · intro hf
      have : ∀ j (t : State), (startJob j t).engine.busy = true := by
        intro j t; unfold startJob; dsimp only; split <;> rfl
      simp [this] at hf
    · rename_i j rest hq _ hi
      refine judgeHeads_engine n _ ?_
      simp [hq] at h; simpa using h

/-- The engine law holds after the head has been judged, whatever held before (R91). -/
theorem engineLaw_judgeHead : EngineLaw (judgeHead s) := judgeHeads_engine _ s le_rfl

theorem settles_judgeHeads : ∀ (n : Nat) (s : State), Settles s (judgeHeads n s)
  | 0, s => .refl s
  | n + 1, s => by
    unfold judgeHeads; dsimp only; repeat' split
    · exact .refl s
    · exact .refl s
    · exact (settles_judgeHeads n _).after ((settles_discardJob _ _ _).after (settles_withEngine s _))
    · rename_i hi _; exact settles_startJob s _ (by simp [hi])
    · exact (settles_judgeHeads n _).after (settles_withEngine s _)

theorem settles_judgeHead : Settles s (judgeHead s) := settles_judgeHeads _ s

theorem settles_appendJob (j) : Settles s (appendJob j s) :=
  (settles_judgeHead _).after (settles_withEngine s _)

theorem settles_clearSlot (k h n) (hk : s.slots[k].holder = some h) : Settles s (clearSlot k h n s) := by
  unfold clearSlot; dsimp only
  have h1 := settles_setSlot s k
    { s.slots[k] with state := .filling, filled := 0, byteCount := 0, failCount := n } (.of_held hk rfl (by simp) (by simp))
  split
  · exact (settles_queue _ _).after h1
  · exact (settles_queue _ _).after ((settles_setStream _ _ _).after h1)

theorem settles_blockMismatch (k h m) (hk : s.slots[k].holder = some h) : Settles s (blockMismatch k h m s) := by
  unfold blockMismatch; dsimp only; split
  · exact (settles_clearSlot _ _ _ _ (by exact hk)).after (settles_countStream s _ _)
  · exact (settles_enterFaulted _ _ _).after (settles_countStream s _ _)

/-! ## Acknowledgements and timeouts -/

theorem settles_serveResend (i b) : Settles s (serveResend i b s) := by
  unfold serveResend; split
  · exact .refl s
  · exact settles_serveStreamPort s i

theorem settles_untimelyAnswer (i b) : Settles s (untimelyAnswer i b s) := by
  unfold untimelyAnswer untimely; dsimp only; split
  · exact (settles_serveResend _ i b).after (settles_countStream s _ _)
  · exact settles_countStream s _ _

theorem settles_blockTimeout (i b k n) : Settles s (blockTimeout i b k n s) := by
  unfold blockTimeout stopAckTimer; dsimp only; repeat' split
  · exact (settles_serveResend _ _ _).after ((settles_startResend _ _ _).after ((settles_setCtx _ _ _).after
      ((settles_countStream _ _ _).after (settles_setSlot s _ _))))
  · exact (settles_setCtx _ _ _).after ((settles_setCtx _ _ _).after ((settles_countStream _ _ _).after
      (settles_setSlot s _ _)))
  · exact settles_enterFaulted s _ _

theorem settles_endTimeout (i n) : Settles s (endTimeout i n s) := by
  unfold endTimeout; dsimp only; repeat' split
  · exact (settles_serveStreamPort _ _).after ((settles_startEnd _ _).after ((settles_setCtx _ _ _).after
      (settles_countStream s _ _)))
  · exact (settles_setCtx _ _ _).after ((settles_setCtx _ _ _).after (settles_countStream s _ _))
  · exact settles_enterFaulted s _ _

theorem settles_acceptWritten (i k) : Settles s (acceptWritten i k s) := by
  unfold acceptWritten; dsimp only
  have h1 := (settles_freeSlot _ k).after (settles_setCtx s i { s.contexts[i] with ackTimer := none, resendHeld := false })
  have h2 := (settles_setStream _ i { (freeSlot k (s.setCtx i { s.contexts[i] with ackTimer := none, resendHeld := false })).streams[i] with
      lowEdge := s.streams[i].lowEdge + 1, stage := none }).after h1
  have h3 := (settles_queueWindow _ i (s.streams[i].lowEdge + 1) s.streams[i].window).after h2
  split
  · exact (settles_enterCommitting _ _).after h3
  · exact (settles_tryRelease _ _).after h3

theorem settles_acceptActivated (i) : Settles s (acceptActivated i s) := by
  unfold acceptActivated; dsimp only; split
  · exact (settles_queue _ _).after ((settles_setPort _ _ _).after ((settles_setStream _ _ _).after
      (settles_setCtx s _ _)))
  · exact (settles_queue _ _).after ((settles_setStream _ _ _).after (settles_setCtx s _ _))

theorem settles_judgeAck (i b r) : Settles s (judgeAck i b r s) := by
  have hu : Settles s (untimely i s) := settles_countStream s _ _
  have ha : Settles s (untimelyAnswer i b s) := settles_untimelyAnswer s i b
  have hb : Settles s (countStream i .busy s) := settles_countStream s _ _
  cases r
  · show Settles s (ackWritten i b s)
    unfold ackWritten; split
    · exact settles_acceptWritten s _ _
    · exact hu
    · exact ha
  · show Settles s (ackBusy i b s)
    unfold ackBusy restartLong; dsimp only; repeat' split
    · exact hb
    · exact (settles_setCtx _ _ _).after ((settles_setSlot _ _ _).after hb)
    · exact (settles_blockTimeout _ _ _ _ _).after hb
    · exact hb
    · exact (settles_setCtx _ _ _).after ((settles_setCtx _ _ _).after hb)
    · exact (settles_endTimeout _ _ _).after hb
    · exact ha
  · show Settles s (ackRejected i b s)
    unfold ackRejected; split
    · exact settles_enterFaulted s _ _
    · exact settles_enterFaulted s _ _
    · exact ha
  · show Settles s (ackActivated i b s)
    unfold ackActivated; split
    · exact hu
    · exact settles_acceptActivated s _
    · exact hu

theorem settles_takeAck (p d b r) : Settles s (takeAck p d b r s) := by
  unfold takeAck; split
  · exact settles_judgeAck s _ _ _
  · exact .refl s

/-! ## Segment intake -/

theorem settles_serveMember (i l) : Settles s (serveMember i l s) := by
  unfold serveMember; dsimp only; repeat' split
  · exact .refl s
  all_goals first
    | exact (settles_queue _ _).after (settles_setStream s _ _)
    | exact settles_setStream s _ _

theorem settles_completeSlot (k i) (h : s.slots[k].isFull = true) : Settles s (completeSlot k i s) := by
  unfold Slot.isFull at h; split at h
  · rename_i g hg
    exact (settles_stopQuietIfDone _ _).after ((settles_appendJob _ _).after
      (settles_setSlot s _ _ (by exact .of_held (h := g) hg rfl (by simp) (by simp))))
  · cases h

theorem settles_placeSegment (l i k p n bs) : Settles s (placeSegment l i k p n bs s) := by
  have h1 : Settles s (s.withStaging (s.staging.writeAll 0 (stagingAddress k (p * n)) bs)) :=
    settles_withStaging s fun h => Memory.wf_writeAll h _ _
  have h2 := (settles_countStream _ i .placed).after ((settles_setSlot _ k
    ((s.withStaging (s.staging.writeAll 0 (stagingAddress k (p * n)) bs)).slots[k].fill p bs.length)).after h1)
  unfold placeSegment; dsimp only
  split
  · rename_i hf
    exact (settles_completeSlot _ _ _ hf).after ((settles_serveMember _ _ _).after
      ((settles_setStream _ _ _).after h2))
  · exact (settles_serveMember _ _ _).after ((settles_setStream _ _ _).after h2)

theorem settles_blockLane (l) : Settles s (blockLane l s) := (settles_queue _ _).after (settles_setLane s _ _)

theorem settles_laneFault (l k) : Settles s (laneFault l k s) := by
  unfold laneFault; dsimp only; repeat' split
  · exact (settles_blockLane _ _).after ((settles_setLane _ _ _).after (settles_countLane s _ _))
  · exact (settles_setLane _ _ _).after (settles_countLane s _ _)
  · exact (settles_blockLane _ _).after (settles_countLane s _ _)
  · exact settles_countLane s _ _

theorem settles_laneGood (l) : Settles s (laneGood l s) := by
  unfold laneGood; dsimp only; repeat' split
  · exact settles_setLane s _ _
  · exact (settles_queue _ _).after (settles_setLane s _ _)
  · exact settles_setLane s _ _
  · exact .refl s

/-! ## The manifest store and the stream controller -/

theorem settles_storeManifestByte (i o v) : Settles s (storeManifestByte i o v s) := by
  unfold storeManifestByte; dsimp only; split
  · exact settles_setManifest s _ _
  · exact settles_withEntries s (fun h => Memory.wf_write h _ _) fun h => Memory.wf_write h _ _

theorem settles_storeManifestBytes (i) : ∀ (vs : List Byte) (o : Nat) (s : State), Settles s (storeManifestBytes i o vs s)
  | [], _, s => .refl s
  | v :: vs, o, s => (settles_storeManifestBytes i vs (o + 1) _).after (settles_storeManifestByte s i o v)

theorem settles_takeManifestData (i o vs) : Settles s (takeManifestData i o vs s) :=
  (settles_setManifest _ _ _).after (settles_storeManifestBytes i vs o s)

theorem settles_beginAuthentication (i mac) (h : s.streams[i].state = .loading) : Settles s (beginAuthentication i mac s) := by
  refine (settles_appendJob _ _).after ((settles_setStream _ _ _ ?_).after (settles_setManifest s _ _))
  refine ⟨fun _ => ?_, fun h => ⟨h, rfl⟩, fun _ h => h⟩
  simp only [State.setManifest_streams]; rw [h]; rfl

theorem settles_replaceLanes (i b) : Settles s (replaceLanes i b s) := settles_setStream s _ _

theorem settles_releaseStream (i c) : Settles s (releaseStream i c s).2 := by
  unfold releaseStream; dsimp only; split
  · exact (settles_enterAborting _ _ _).after (settles_stopStream s _)
  · exact (settles_enterVacant _ _ _).after (settles_stopStream s _)

theorem settles_abortStream (i) : Settles s (abortStream i s).2 := by
  unfold abortStream; split
  all_goals first
    | exact .refl s
    | exact settles_releaseStream s _ _
    | exact settles_enterVacant s _ _
    | exact settles_enterAborting s _ _

theorem settles_closeStream (i) : Settles s (closeStream i s).2 := by
  unfold closeStream; split
  all_goals first | exact .refl s | exact settles_releaseStream s _ _

theorem settles_stallGap (i b) : Settles s (stallGap i b s) := by
  have h : Settles s (queueRecord (gapRecord s i b) s) := settles_queue s _
  unfold stallGap restartStall; dsimp only; split
  · exact (settles_setStream _ _ _).after ((settles_setStream _ _ _).after h)
  · exact (settles_enterFaulted _ _ _).after h

/-! ## Supply and parameters -/

theorem settles_resumeWork : Settles s (resumeWork s) := by
  unfold resumeWork; split
  · exact (settles_startStep _).after (settles_startAllHeld s)
  · exact .refl s

theorem settles_changeSupply : Settles s (changeSupply s) :=
  (settles_resumeWork _).after ((settles_queue _ _).after (settles_withSupply s _))

theorem settles_compareSupply : Settles s (compareSupply s) := by
  unfold compareSupply; repeat' split
  · exact .refl s
  · exact settles_changeSupply s
  · exact settles_withSupply s _
  · exact settles_withSupply s _

theorem settles_afterParam (n) : Settles s (afterParam n s) := by
  unfold afterParam; split
  · exact settles_emit s
  · exact settles_compareSupply s
  · exact .refl s

end Sys2Proof.Machine
end

