-- ==== Sys2Proof/Laws/Commands.lean ====
section
/-! SUPPORT. What one command can do, said once: every command but a reset either settles the state, or settles it around ONE of the
eight turns below, each of which is a single elementary change with the conditions the rules put on it. -/

namespace Sys2Proof.Machine

-- One proof at a time: elaborated all at once, the proofs of the package as one text ask for more threads than memory allows.
set_option Elab.async false

/-- The store's row for a target holds a floor no lower than before, for every target (R134). -/
def FloorsKept (old new : List GovRow) : Prop := ∀ t : Word16, (floorOf old t).toNat ≤ (floorOf new t).toNat

/-- The kinds of turn. -/
inductive TurnKind where
  | allocate | join | load | start | snapshot | accept | verify | commit
  deriving DecidableEq, Repr

/-- The elementary changes that `Settles` excludes. -/
inductive Turn : TurnKind → State → State → Prop where
  /-- a FREE slot is allocated for a block that has none (R76) -/
  | allocate {s k i b e} (hn : slotOf s i b = none) (hf : s.slots[k].state = .free) : Turn .allocate s (allocateSlot k i b e s)
  /-- a control frame joins a queue that has room (R51) -/
  | join {s l f} (h : s.lanes[l].queue.length < controlQueueMax) :
      Turn .join s (s.setLane l { s.lanes[l] with queue := s.lanes[l].queue ++ [f] })
  /-- a load begins (R7) -/
  | load {s i len n} (hv : s.streams[i].state = .vacant) (ho : otherLoads s i = false) (hc : declaredCount len = some n)
      (hr : extentsFor n ≤ (freeExtents s).length) : Turn .load s (beginLoad i len n s)
  /-- a stream starts (R30) -/
  | start {s i} {x : Stream} (hs : s.streams[i].state = .ready) (hx : x.state = .active)
      (hm : x.manifest = s.streams[i].manifest) (hw : reservedTotal s + x.window ≤ totalSlots) : Turn .start s (s.setStream i x)
  /-- the counters are copied and cleared (R179) -/
  | snapshot {s} : Turn .snapshot s (takeSnapshot s)
  /-- an authenticated manifest that passes every check is accepted (R19) -/
  | accept {s i} (hs : s.streams[i].state = .authenticating) (hm : macMatches s i = true)
      (hc : acceptanceFailure s i (readHeader s.manifests[i].header.toList) = none) :
      Turn .accept s (s.setStream i { s.streams[i] with
        state := .ready, manifest := some (readHeader s.manifests[i].header.toList).accepted,
        floorAtAcceptance := some (floorOf s.store.governing (readHeader s.manifests[i].header.toList).accepted.target) })
  /-- a block whose bytes match its digest is VERIFIED (R96) -/
  | verify {s k h m} (hh : s.slots[k].holder = some h) (hm : s.streams[h.stream].manifest = some m)
      (hb : blockMatches s k h m = true) : Turn .verify s (s.setSlot k { s.slots[k] with state := .verified })
  /-- a commit takes effect in the governing table (R135, R136, R137) -/
  | commit {s} {x : Store} (hf : s.store.KeepsFloor → FloorsKept s.store.governing x.governing ∧ x.KeepsFloor) :
      Turn .commit s (s.withStore x)

/-- Settled, or settled around one turn of one of the kinds listed. -/
def Moves (ks : List TurnKind) (s t : State) : Prop :=
  Settles s t ∨ ∃ k ∈ ks, ∃ u v, Settles s u ∧ Turn k u v ∧ Settles v t

/-- The kinds of turn a command can make. -/
def turnsOf (c : Instr) : List TurnKind :=
  match c with
  | .segmentFrame _ _ => [.allocate, .join]
  | .controlFrame _ _ => [.allocate, .join]
  | .otherTrunkFrame _ _ _ => [.allocate, .join]
  | .manifestBegin _ _ => [.load]
  | .streamStart _ _ => [.start]
  | .snapshot _ _ => [.snapshot]
  | .macJobDone => [.accept]
  | .blockJobDone => [.verify]
  | .nvmStepDone _ => [.commit]
  | _ => []

variable {s t u : State} {ks : List TurnKind}

theorem Moves.of_settles (h : Settles s t) : Moves ks s t := .inl h
theorem Moves.of_turn {k : TurnKind} (h : Turn k s t) (hk : k ∈ ks := by decide) : Moves ks s t :=
  .inr ⟨k, hk, s, t, .refl s, h, .refl t⟩
theorem Moves.before (h : Moves ks t u) (h1 : Settles s t) : Moves ks s u := by
  rcases h with h | ⟨k, hk, a, b, h2, h3, h4⟩
  · exact .inl (h1.trans h)
  · exact .inr ⟨k, hk, a, b, h1.trans h2, h3, h4⟩
theorem Moves.then (h : Moves ks s t) (h1 : Settles t u) : Moves ks s u := by
  rcases h with h | ⟨k, hk, a, b, h2, h3, h4⟩
  · exact .inl (h.trans h1)
  · exact .inr ⟨k, hk, a, b, h2, h3, h4.trans h1⟩

/-- A request that has a next state moves as its owner's reply does. -/
theorem moves_judgeRequest {l f held n o} (ho : Moves ks s o.state) (h : judgeRequest l f held n s o = .next t) : Moves ks s t := by
  unfold judgeRequest at h; repeat' split at h
  all_goals cases h
  · exact .of_settles (settles_respond s _ _)
  · exact ho.then (settles_respond _ _ _)

/-! ## The turns of the intake and the manifest store -/

/-- What `lowestFree` finds is FREE (R76). -/
theorem free_of_lowestFree {k} (h : lowestFree s = some k) : s.slots[k].state = .free := by
  have := List.find?_some h; simpa using this

theorem moves_assemble (l i k bs) : Moves [.allocate, .join] s (assemble l i k bs s) := by
  unfold assemble; split
  · exact .of_settles (settles_countLane s _ _)
  · exact .of_settles (settles_countLane s _ _)
  · exact .of_settles (settles_countStream s _ _)
  · exact .of_settles (settles_countStream s _ _)
  · exact .of_settles (settles_countStream s _ _)
  · exact .of_settles ((settles_queueWindow _ _ _ _).after (settles_countStream s _ _))
  · exact .of_settles (settles_countStream s _ _)
  · exact .of_settles (settles_placeSegment s _ _ _ _ _ _)
  · rename_i q b e p n hq
    refine (Moves.of_turn (.allocate ?_ ?_)).then (settles_placeSegment _ _ _ _ _ _ _)
    all_goals
      unfold segmentOutcome at hq; dsimp only at hq
      repeat' split at hq
      all_goals cases hq
    · assumption
    · exact free_of_lowestFree (by assumption)

theorem moves_takeSegment (l f) : Moves [.allocate, .join] s (takeSegment l f s) := by
  have h : Settles s (countLane l .frames s) := settles_countLane s _ _
  unfold takeSegment; dsimp only; split
  · exact .of_settles ((settles_countLane _ _ _).after h)
  · exact .of_settles ((settles_laneFault _ _ _).after h)
  · exact .of_settles ((settles_laneFault _ _ _).after h)
  · exact .of_settles ((settles_laneFault _ _ _).after h)
  · exact (moves_assemble _ _ _ _).before ((settles_laneGood _ _).after ((settles_countLane _ _ _).after h))

theorem moves_takeControl (l f) : Moves [.allocate, .join] s (takeControl l f s) := by
  unfold takeControl; repeat' split
  · exact .of_settles (settles_countLane s _ _)
  · exact .of_settles (settles_countLane s _ _)
  · exact (Moves.of_turn (.join (by omega))).then (settles_serveLane _)

theorem moves_receiveFrame (l d f) : Moves [.allocate, .join] s (receiveFrame l d f s) := by
  unfold receiveFrame; repeat' split
  · exact .of_settles (.refl s)
  · exact .of_settles (.refl s)
  · exact moves_takeSegment l f
  · exact moves_takeControl l f
  · exact .of_settles (.refl s)

theorem moves_manifestBegin (f) : Moves [.load] s (manifestBeginReply f s).state := by
  unfold manifestBeginReply; dsimp only; repeat' split
  all_goals first
    | exact .of_settles (.refl s)
    | exact .of_turn (.load (by simp_all) (by simp_all) (by assumption) (by omega))

theorem settles_manifestData (f) : Settles s (manifestDataReply f s).state := by
  unfold manifestDataReply; dsimp only; repeat' split
  all_goals first | exact .refl s | exact settles_takeManifestData s _ _ _

theorem settles_manifestEnd (f) : Settles s (manifestEndReply f s).state := by
  unfold manifestEndReply; dsimp only; repeat' split
  all_goals first | exact .refl s | exact settles_beginAuthentication s _ _ (by simp_all)

theorem moves_macOutcome (i) : Moves [.accept] s (macOutcome i s) := by
  unfold macOutcome; repeat' split
  · unfold judgeAcceptance; dsimp only; split
    · exact .of_settles (settles_enterVacant s _ _)
    · exact (Moves.of_turn (.accept (by assumption) (by assumption) (by assumption))).then (settles_queue _ _)
  · exact .of_settles (settles_enterVacant s _ _)
  · exact .of_settles (settles_resolveAbort s _)

/-! ## The turns of the stream controller, the engine and the store -/

theorem moves_startStream (i lanes w) (hs : s.streams[i].state = .ready) (hw : reservedTotal s + w ≤ totalSlots) :
    Moves [.start] s (startStream i lanes w s) :=
  (Moves.of_turn (.start (x := { s.streams[i] with
      state := .active, members := newMembers lanes (some (quietInterval s)), window := w, reservationHeld := true,
      lowEdge := 0, stallCount := 0, stallTimer := some (stallInterval s) }) hs rfl rfl hw)).then
    ((settles_queueWindow _ _ _ _).after (settles_queue _ (.stream i .active none)))

theorem moves_streamStart (f) : Moves [.start] s (streamStartReply f s).state := by
  unfold streamStartReply; dsimp only; repeat' split
  all_goals first
    | exact .of_settles (.refl s)
    | exact moves_startStream _ _ _ (by simp_all) (by omega)

theorem moves_blockOutcome (k) : Moves [.verify] s (blockOutcome k s) := by
  unfold blockOutcome; repeat' split
  · exact .of_settles (.refl s)
  · exact (Moves.of_turn (.verify (by assumption) (by assumption) (by assumption))).then (settles_tryRelease _ _)
  · exact .of_settles (settles_blockMismatch s _ _ _ (by assumption))
  · exact .of_settles (settles_freeEndedSlot s _ _)

/-- Putting a commit's record keeps every floor (R134). -/
theorem floorsKept_putRow {rows old : List GovRow} {r : GovRow} (hr : ∀ t, floorOf rows t = floorOf old t)
    (h : (floorOf old r.record.target).toNat ≤ r.record.floor.toNat) : FloorsKept old (putRow r rows) := by
  intro t
  have e : floorOf (putRow r rows) t = if r.record.target = t then r.record.floor else floorOf old t := by
    rw [← hr t]; simp only [floorOf, rowOf_putRow]; split <;> simp_all
  rw [e]; split
  · rename_i ht; subst ht; exact h
  · exact le_rfl

/-- Moving the rows to another page keeps every floor (R136). -/
theorem floorOf_moved (rows : List GovRow) (p : PageId) (t : Word16) :
    floorOf (rows.mapIdx fun n g => { record := g.record, page := p, slot := n : GovRow }) t = floorOf rows t := by
  suffices h : ∀ (f : Nat → Nat), ((rows.mapIdx fun n g => { record := g.record, page := p, slot := f n : GovRow }).find?
      fun r => r.record.target == t).map (fun r => r.record.floor) = (rows.find? fun r => r.record.target == t).map fun r => r.record.floor by
    simpa [floorOf, rowOf] using congrArg (·.getD 0#32) (h id)
  induction rows with
  | nil => intro _; rfl
  | cons x xs ih =>
    intro f
    simp only [List.mapIdx_cons, List.find?_cons]
    split
    · rfl
    · exact ih fun n => f (n + 1)

theorem floorOf_putRow_self (r : GovRow) (rows : List GovRow) : floorOf (putRow r rows) r.record.target = r.record.floor := by
  simp [floorOf, rowOf_putRow]

/-- The store after a step's end differs from before in an erased flag at most. -/
theorem stepEnded_same (t : Store) (st ok) : (t.stepEnded st ok).governing = t.governing ∧ (t.stepEnded st ok).run = t.run := by
  unfold Store.stepEnded Store.setErased; repeat' split
  all_goals exact ⟨rfl, rfl⟩

theorem keepsFloor_congr {a b : Store} (hg : a.governing = b.governing) (hr : a.run = b.run) : a.KeepsFloor ↔ b.KeepsFloor := by
  unfold Store.KeepsFloor; rw [hg, hr]

theorem moves_afterGoodStep (r st rest) (hr : s.store.run = some r) : Moves [.commit] s (afterGoodStep r st rest s) := by
  have hk : ∀ {i rec}, (r.job = .newPage i rec ∨ (∃ p n, r.job = .append i rec p n) ∨ ∃ x q, r.job = .compact i rec x q) →
      s.store.KeepsFloor → (floorOf s.store.governing rec.target).toNat ≤ rec.floor.toNat := by
    intro i rec h hf
    unfold Store.KeepsFloor at hf; rw [hr] at hf
    rcases h with h | ⟨p, n, h⟩ | ⟨x, q, h⟩ <;> simpa only [h] using hf
  have hnext (rs) : Settles s (s.withStore { s.store with run := some { r with steps := rs, stepping := false } }) := by
    refine settles_withStore s rfl fun h => ?_
    unfold Store.KeepsFloor at h ⊢; rw [hr] at h; exact h
  unfold afterGoodStep; dsimp only; repeat' split
  · exact .of_settles ((settles_finishScan _ _ _).after (settles_withStore s rfl fun _ => trivial))
  · exact .of_settles (hnext _)
  · rename_i i rec p n hj _
    refine (Moves.of_turn (.commit fun h => ?_)).then (settles_commitDone _ _ _)
    have hf := hk (.inr (.inl ⟨p, n, hj⟩)) h
    refine ⟨floorsKept_putRow (fun _ => rfl) hf, ?_⟩
    unfold Store.KeepsFloor; simp only [hr, hj]
    have := floorOf_putRow_self { record := rec, page := p, slot := n } s.store.governing
    simp only at this; rw [this]
  · exact .of_settles (hnext _)
  · exact .of_settles (settles_commitDone s _ _)
  · rename_i i rec x q hj _ _
    refine (Moves.of_turn (.commit fun h => ?_)).before (hnext rest)
    have hf := hk (.inr (.inr ⟨x, q, hj⟩)) ((hnext rest).store |> fun _ => by
      unfold Store.KeepsFloor at h ⊢; rw [hr]; simpa using h)
    refine ⟨floorsKept_putRow (floorOf_moved _ _) hf, ?_⟩
    unfold Store.KeepsFloor; simp only [hj, pageSwitched]
    have := floorOf_putRow_self { record := rec, page := x, slot := s.store.governing.length }
      (s.store.governing.mapIdx fun n g => { record := g.record, page := x, slot := n : GovRow })
    simp only at this; rw [this]
  · exact .of_settles (hnext _)
  · rename_i i rec hj _
    refine (Moves.of_turn (.commit fun h => ?_)).then (settles_commitDone _ _ _)
    have hf := hk (.inl hj) h
    refine ⟨floorsKept_putRow (floorOf_moved _ _) hf, ?_⟩
    unfold Store.KeepsFloor; simp only [hr, hj, pageSwitched]
    have := floorOf_putRow_self { record := rec, page := .a, slot := s.store.governing.length }
      (s.store.governing.mapIdx fun n g => { record := g.record, page := .a, slot := n : GovRow })
    simp only at this; rw [this]
  · exact .of_settles (hnext _)
  · exact .of_settles (settles_withStore s rfl fun _ => trivial)
  · exact .of_settles (hnext _)

/-- A step's result keeps the memory's canonical form (R126). -/
theorem wf_stepResult {m m' : Memory} {st rb ok} (h : stepResult m st rb = some (m', ok)) (hm : m.wf erasedByte = true) :
    m'.wf erasedByte = true := by
  unfold stepResult at h; repeat' split at h
  all_goals cases h
  · exact Memory.wf_write hm _ _
  · exact Memory.wf_write hm _ _
  · exact Memory.wf_clear hm _ _
  · exact Memory.wf_writeAll (Memory.wf_clear hm _ _) _ _

theorem wf_stepLeaves {m c : Memory} (h : c.wf erasedByte = true) (job : NvmJob) (st : NvmStep) (ok : Bool) :
    (stepLeaves m job st c ok).wf erasedByte = true := by
  unfold stepLeaves; split
  · exact h
  · exact wf_settleStep h job st

/-- A movement of the supply that stays at 6.0 V or above settles the state (R146, R147). -/
theorem moves_moveSense {mv : Nat} (hm : ¬ mv < resetLevelMv) (h : moveSense mv s = .next t) : Moves ks s t := by
  unfold moveSense at h; rw [if_neg hm] at h; split at h <;> cases h
  · exact .of_settles (settles_withPins s _)
  · exact .of_settles ((settles_compareSupply _).after (settles_withPins s _))

/-! ## Every command -/

/-- Every command that is no reset moves the state as above. -/
theorem moves_exec (c : Instr) (hc : isReset c = false) (h : exec c s = .next t) : Moves (turnsOf c) s t := by
  have judge {ks l f held n o} (ho : Moves ks s o.state) (h : judgeRequest l f held n s o = .next t) : Moves ks s t :=
    moves_judgeRequest ho h
  have rd (m) (l) (f) (h : judgeTableRead m l f s = .next t) : Moves [] s t := by
    refine judge (.of_settles ?_) h
    unfold tableReadReply; dsimp only; repeat' split
    all_goals first | exact .refl s | exact settles_withInterp s _
  cases c with
  | powerOnReset mv low => cases hc
  | startUp mv => cases hc
  | segmentFrame l f => cases h; exact moves_receiveFrame _ _ _
  | controlFrame l f => cases h; exact moves_receiveFrame _ _ _
  | otherTrunkFrame l d f => cases h; exact moves_receiveFrame _ _ _
  | quarantineExpiry l =>
    simp only [exec, execQuarantineExpiry] at h; split at h <;> cases h
    · exact .of_settles ((settles_queue _ _).after (settles_setLane s _ _))
    · exact .of_settles (.refl s)
  | manifestBegin l f => exact judge (moves_manifestBegin _) h
  | manifestData l f => exact judge (.of_settles (settles_manifestData _)) h
  | manifestEnd l f => exact judge (.of_settles (settles_manifestEnd _)) h
  | streamStart l f => exact judge (moves_streamStart _) h
  | streamLanes l f =>
    refine judge (.of_settles ?_) h
    unfold streamLanesReply; dsimp only; repeat' split
    all_goals first | exact .refl s | exact settles_replaceLanes s _ _
  | streamAbort l f =>
    refine judge (.of_settles ?_) h
    unfold streamReply; dsimp only; split
    · exact .refl s
    · exact settles_abortStream s _
  | streamClose l f =>
    refine judge (.of_settles ?_) h
    unfold streamReply; dsimp only; split
    · exact .refl s
    · exact settles_closeStream s _
  | keyInstall l f =>
    refine judge (.of_settles ?_) h
    unfold keyInstallReply; dsimp only; split
    · exact (settles_joinOps _ _).after (settles_withStore s rfl id)
    · exact .refl s
  | flush l f =>
    exact judge (.of_settles ((settles_beginDrain _).after (settles_withReport s (x := { s.report with owed := true }) id))) h
  | snapshot l f => exact judge (ks := [.snapshot]) (.of_turn .snapshot) h
  | paramWrite l f =>
    refine judge (.of_settles ?_) h
    unfold paramWriteReply; dsimp only; repeat' split
    all_goals first | exact .refl s | exact (settles_afterParam _ _).after (settles_withParams s _)
  | paramRead l f => exact judge (.of_settles (.refl s)) h
  | tableSelect l f =>
    refine judge (.of_settles ?_) h
    unfold tableSelectReply; dsimp only; split
    · exact settles_withInterp s _
    · exact .refl s
  | cursorSet l f =>
    refine judge (.of_settles ?_) h
    unfold cursorSetReply; dsimp only; split
    · exact settles_withInterp s _
    · exact .refl s
  | direct l f => exact rd _ _ _ h
  | atCursor l f => exact rd _ _ _ h
  | postInc l f => exact rd _ _ _ h
  | preInc l f => exact rd _ _ _ h
  | offset l f => exact rd _ _ _ h
  | restart l f => exact judge (.of_settles (settles_withInterp s _)) h
  | unknownCode l f => exact judge (.of_settles (.refl s)) h
  | noCodeFrame l f => exact judge (.of_settles (.refl s)) h
  | trunkTxEnd l o =>
    simp only [exec, execTrunkTxEnd] at h; repeat' split at h
    all_goals cases h
    · exact .of_settles (.refl s)
    all_goals refine .of_settles ((settles_emit _).after ((settles_serveLane _).after ((settles_handOver _ _).after
      ((settles_setTrunk _ _ _).after ?_))))
    · exact settles_withInterp s _
    · exact .refl s
  | blockJobDone =>
    simp only [exec, execBlockJobDone] at h; repeat' split at h
    all_goals cases h
    all_goals first
      | exact .of_settles (.refl s)
      | exact ((moves_blockOutcome _).before (settles_withEngine s _)).then (settles_judgeHead _)
  | macJobDone =>
    simp only [exec, execMacJobDone] at h; repeat' split at h
    all_goals cases h
    all_goals first
      | exact .of_settles (.refl s)
      | exact ((moves_macOutcome _).before (settles_withEngine s _)).then (settles_judgeHead _)
  | branchTxEnd p o =>
    simp only [exec, execBranchTxEnd] at h; split at h <;> cases h
    · exact .of_settles (.refl s)
    exact .of_settles ((settles_servePort _ _).after ((settles_frameEnded _ _).after (settles_setPort s _ _)))
  | branchFrame p d f =>
    simp only [exec, execBranchFrame] at h; repeat' split at h
    all_goals cases h
    · exact .of_settles (.refl s)
    · exact .of_settles (settles_countStream s _ _)
    · exact .of_settles (settles_countStream s _ _)
    · exact .of_settles (settles_judgeAck s _ _ _)
  | written p d b => cases h; exact .of_settles (settles_takeAck s _ _ _ _)
  | busy p d b => cases h; exact .of_settles (settles_takeAck s _ _ _ _)
  | rejected p d b => cases h; exact .of_settles (settles_takeAck s _ _ _ _)
  | activated p d b => cases h; exact .of_settles (settles_takeAck s _ _ _ _)
  | ackTimeout i =>
    simp only [exec, execAckTimeout] at h; repeat' split at h
    all_goals cases h
    all_goals first
      | exact .of_settles (.refl s)
      | exact .of_settles (settles_blockTimeout s _ _ _ _)
      | exact .of_settles (settles_endTimeout s _ _)
  | nvmStepDone rb =>
    simp only [exec, execNvmStepDone] at h; repeat' split at h
    all_goals cases h
    all_goals
      rename_i r hr _ st rest _ _ _ m ok hres _
      have hw : Settles s ((s.withNvm (stepLeaves s.nvm r.job st m ok)).withStore (s.store.stepEnded st ok)) :=
        (settles_withStore _ (stepEnded_same _ _ _).1 (keepsFloor_congr (stepEnded_same _ _ _).1 (stepEnded_same _ _ _).2).mpr).after
          (settles_withNvm s fun h => wf_stepLeaves (wf_stepResult hres h) r.job st ok)
    · refine ((moves_afterGoodStep r st rest ?_).before hw).then (settles_runStore _)
      exact (stepEnded_same _ _ _).2.trans hr
    · exact .of_settles ((settles_runStore _).after ((settles_afterBadStep _ r st rest).after hw))
  | stallExpiry i =>
    simp only [exec, execStallExpiry] at h; repeat' split at h
    all_goals cases h
    · exact .of_settles (settles_stallGap s _ _)
    · exact .of_settles (settles_setStream s _ _)
    · exact .of_settles (.refl s)
  | quietExpiry i l =>
    simp only [exec, execQuietExpiry] at h; repeat' split at h
    all_goals cases h
    all_goals first
      | exact .of_settles (.refl s)
      | exact .of_settles ((settles_queue _ _).after (settles_setStream s _ _))
  | departureBegin mv => exact moves_moveSense (by simpa [isReset] using hc) h
  | departureEnd mv => exact moves_moveSense (by simpa [isReset] using hc) h
  | filterExpiry =>
    simp only [exec, execFilterExpiry] at h; split at h <;> cases h
    · exact .of_settles (settles_changeSupply s)
    · exact .of_settles (.refl s)
  | packetTimerExpiry =>
    simp only [exec, execPacketTimerExpiry] at h; split at h <;> cases h
    · exact .of_settles (settles_beginDrain s)
    · exact .of_settles (.refl s)
  | absoluteTimerExpiry =>
    simp only [exec, execAbsoluteTimerExpiry] at h; split at h <;> cases h
    · exact .of_settles (settles_beginDrain s)
    · exact .of_settles (.refl s)

/-! ## Resets -/

/-- What a reset command does: a power-on reset, or a start-up. -/
theorem resets_exec (c : Instr) (hc : isReset c = true) (h : exec c s = .next t) :
    (∃ pins, t = volatileReset (cutShort s) .inReset pins Params.default) ∨ ∃ cause mv, t = beginStartUp cause mv s := by
  cases c <;> simp only [isReset, Bool.false_eq_true, decide_eq_true_eq] at hc
  · cases h; exact .inl ⟨_, rfl⟩
  · simp only [exec, execStartUp] at h; repeat' split at h
    all_goals cases h
    all_goals exact .inr ⟨_, _, rfl⟩
  · simp only [exec, execDepartureBegin, moveSense, execPowerOnReset, hc, if_true] at h
    all_goals cases h
    exact .inl ⟨_, rfl⟩
  · simp only [exec, execDepartureEnd, moveSense, execPowerOnReset, hc, if_true] at h
    all_goals cases h
    exact .inl ⟨_, rfl⟩

theorem settles_firstMeasurement (s : State) : Settles s (firstMeasurement s) := by
  unfold firstMeasurement; split
  · exact settles_withSupply s _
  · exact (settles_queue _ _).after (settles_withSupply s _)

/-- A start-up: the volatile state at its reset values, the store as scanned, and the rest settled. -/
theorem beginStartUp_settles (c : StartCause) (mv : Nat) (s : State) :
    ∃ u x, Settles (volatileReset s .scanning { senseMv := mv, resetnLow := false } s.params) u ∧ x.KeepsFloor ∧
      Settles (u.withStore x) (beginStartUp c mv s) := by
  unfold beginStartUp startScan; split
  · exact ⟨_, _, settles_firstMeasurement _, by exact trivial, settles_finishScan _ _ _⟩
  · exact ⟨_, _, settles_firstMeasurement _, by exact trivial, settles_startStep _⟩

end Sys2Proof.Machine
end

