-- ==== Sys2Proof/Laws/Scan.lean ====
section
/-! SUPPORT. The start-up scan's loops over the record slots, said once. -/

namespace Sys2Proof.Machine

set_option Elab.async false

/-- The rows stand in ascending target order, one for each target. -/
def SortedByTarget (rows : List GovRow) : Prop := rows.Pairwise (fun g h => g.record.target.toNat < h.record.target.toNat)

/-- Putting a row in replaces its target's row and keeps every other. -/
theorem mem_putRow {rows : List GovRow} (hs : SortedByTarget rows) (r g : GovRow) : g ∈ putRow r rows ↔ g = r ∨ (g ∈ rows ∧ g.record.target ≠ r.record.target) := by
  induction rows with
  | nil => simp [putRow]
  | cons x xs ih =>
    obtain ⟨h1, h2⟩ := List.pairwise_cons.mp hs
    unfold putRow
    split
    · rename_i hlt
      constructor
      · intro h; rcases List.mem_cons.mp h with h | h
        · exact .inl h
        · refine .inr ⟨h, ?_⟩
          rcases List.mem_cons.mp h with rfl | h
          · intro e; rw [e] at hlt; omega
          · intro e; have := h1 g h; rw [e] at this; omega
      · rintro (h | ⟨h, _⟩) <;> simp [h]
    · split
      · rename_i hn he
        constructor
        · intro h; rcases List.mem_cons.mp h with h | h
          · exact .inl h
          · exact .inr ⟨by simp [h], fun e => by have := h1 g h; rw [e, he] at this; omega⟩
        · rintro (h | ⟨h, hne⟩)
          · simp [h]
          · rcases List.mem_cons.mp h with rfl | h
            · exact absurd he.symm hne
            · simp [h]
      · rename_i hn he
        rw [List.mem_cons, ih h2, List.mem_cons]
        constructor
        · rintro (h | h | h)
          · exact .inr ⟨.inl h, by rw [h]; exact fun e => he e.symm⟩
          · exact .inl h
          · exact .inr ⟨.inr h.1, h.2⟩
        · rintro (h | ⟨h | h, hne⟩)
          · exact .inr (.inl h)
          · exact .inl h
          · exact .inr (.inr ⟨h, hne⟩)

/-- Putting a row in keeps the order. -/
theorem sorted_putRow {rows : List GovRow} (hs : SortedByTarget rows) (r : GovRow) : SortedByTarget (putRow r rows) := by
  induction rows with
  | nil => simp [putRow, SortedByTarget]
  | cons x xs ih =>
    obtain ⟨h1, h2⟩ := List.pairwise_cons.mp hs
    unfold putRow
    split
    · rename_i hlt
      refine List.pairwise_cons.mpr ⟨fun g hg => ?_, hs⟩
      rcases List.mem_cons.mp hg with rfl | hg
      · exact hlt
      · exact Nat.lt_trans hlt (h1 g hg)
    · split
      · rename_i hn he
        exact List.pairwise_cons.mpr ⟨fun g hg => by rw [he]; exact h1 g hg, h2⟩
      · rename_i hn he
        refine List.pairwise_cons.mpr ⟨fun g hg => ?_, ih h2⟩
        rcases (mem_putRow h2 r g).mp hg with rfl | ⟨hg, _⟩
        · have : g.record.target.toNat ≠ x.record.target.toNat := fun e => he (BitVec.eq_of_toNat_eq e)
          omega
        · exact h1 g hg

/-- What the first `k` slots of a page govern: for each target the good record in its highest slot (R130). -/
theorem scanRows_upTo (m : Memory) (p : PageId) (k : Nat) : 
    let rows := (List.range k).foldl (fun rows n => match readSlot m p n with | .good r => putRow { record := r, page := p, slot := n } rows | _ => rows) []
    SortedByTarget rows ∧ ∀ g, g ∈ rows ↔ g.page = p ∧ g.slot < k ∧ readSlot m p g.slot = .good g.record ∧ ∀ n r, g.slot < n → n < k → readSlot m p n = .good r → r.target ≠ g.record.target := by
  induction k with
  | zero => simp [SortedByTarget]
  | succ k ih =>
    simp only [List.range_succ, List.foldl_append, List.foldl_cons, List.foldl_nil] at ih ⊢
    obtain ⟨hs, hm⟩ := ih
    generalize List.foldl _ _ (List.range k) = rows at *
    have other : (∀ r, readSlot m p k ≠ .good r) → SortedByTarget rows ∧ ∀ g, g ∈ rows ↔ g.page = p ∧ g.slot < k + 1 ∧ readSlot m p g.slot = .good g.record ∧ ∀ n r, g.slot < n → n < k + 1 → readSlot m p n = .good r → r.target ≠ g.record.target := by
      intro hk
      refine ⟨hs, fun g => ?_⟩
      rw [hm]
      constructor
      · rintro ⟨a, b, c, d⟩
        refine ⟨a, by omega, c, fun n r h1 h2 h3 => ?_⟩
        by_cases hn : n = k
        · subst hn; exact absurd h3 (hk r)
        · exact d n r h1 (by omega) h3
      · rintro ⟨a, b, c, d⟩
        refine ⟨a, ?_, c, fun n r h1 h2 h3 => d n r h1 (by omega) h3⟩
        by_contra hn
        have : g.slot = k := by omega
        rw [this] at c; exact hk _ c
    split
    · rename_i r hr
      refine ⟨sorted_putRow hs _, fun g => ?_⟩
      rw [mem_putRow hs, hm]
      constructor
      · rintro (rfl | ⟨⟨a, b, c, d⟩, hne⟩)
        · exact ⟨rfl, by simp, hr, fun n r h1 h2 => by simp at h1; omega⟩
        · refine ⟨a, by omega, c, fun n r' h1 h2 h3 => ?_⟩
          by_cases hn : n = k
          · subst hn; rw [hr] at h3; cases h3; exact fun e => hne e.symm
          · exact d n r' h1 (by omega) h3
      · rintro ⟨a, b, c, d⟩
        by_cases hn : g.slot = k
        · left; obtain ⟨g1, g2, g3⟩ := g; simp only at *; subst hn; rw [hr] at c; cases c; rw [a]
        · right; refine ⟨⟨a, by omega, c, fun n r h1 h2 h3 => d n r h1 (by omega) h3⟩, fun e => d k r (by omega) (by omega) hr e.symm⟩
    · rename_i hk; exact other fun r h => by simp [h] at hk

/-- The slot after the last of the first `k` slots that is not free (R130). -/
theorem scanAppend_upTo (m : Memory) (p : PageId) (k : Nat) :
    let a := (List.range k).foldl (fun a n => if readSlot m p n = .free then a else n + 1) 0
    a ≤ k ∧ (∀ n, a ≤ n → n < k → readSlot m p n = .free) ∧ ∀ n, n + 1 = a → readSlot m p n ≠ .free := by
  induction k with
  | zero => simp
  | succ k ih =>
    simp only [List.range_succ, List.foldl_append, List.foldl_cons, List.foldl_nil] at ih ⊢
    generalize List.foldl _ _ (List.range k) = a at *
    obtain ⟨h1, h2, h3⟩ := ih
    split
    · rename_i h
      refine ⟨by omega, fun n ha hn => ?_, h3⟩
      by_cases e : n = k
      · rw [e]; exact h
      · exact h2 n ha (by omega)
    · rename_i h
      refine ⟨le_rfl, fun n ha hn => by omega, fun n hn => ?_⟩
      have : n = k := by omega
      rw [this]; exact h

/-- The rows a page governs (R130). -/
theorem mem_scanRows (m : Memory) (p : PageId) (g : GovRow) :
    g ∈ scanRows m p ↔ g.page = p ∧ g.slot < pageSlots ∧ readSlot m p g.slot = .good g.record ∧
      ∀ n r, g.slot < n → n < pageSlots → readSlot m p n = .good r → r.target ≠ g.record.target :=
  (scanRows_upTo m p pageSlots).2 g

/-- They stand in ascending target order (R129). -/
theorem sorted_scanRows (m : Memory) (p : PageId) : SortedByTarget (scanRows m p) := (scanRows_upTo m p pageSlots).1

/-- The append position (R130). -/
theorem scanAppend_spec (m : Memory) (p : PageId) :
    scanAppend m p ≤ pageSlots ∧ (∀ n, scanAppend m p ≤ n → n < pageSlots → readSlot m p n = .free) ∧
      ∀ n, n + 1 = scanAppend m p → readSlot m p n ≠ .free :=
  scanAppend_upTo m p pageSlots

end Sys2Proof.Machine
end

