-- ==== Sys2Proof/Laws/Durable.lean ====
section
/-! SUPPORT. What the version store's memory shows to a scan, step by step: which steps keep it, which turn it, and that the steps of every
operation are safe however each of them ends (R126 to R142). -/

namespace Sys2Proof.Machine

-- One proof at a time: elaborated all at once, the proofs of the package as one text ask for more threads than memory allows.
set_option Elab.async false

variable {m c d : Memory} {p x : PageId} {v w : StoreView} {job : NvmJob} {new : Option StoreView}

/-! ## What a memory shows -/

/-- The view of a store at rest, or of one whose operation is no append. -/
abbrev Store.restView (t : Store) : StoreView :=
  { governing := t.governing, activePage := t.activePage, activeSeq := t.activeSeq, freeFrom := t.appendPos }

theorem base_other (p : PageId) : (NvmUnit.page p).base + 1024 ≤ (NvmUnit.page p.other).base ∨ (NvmUnit.page p.other).base + 1024 ≤ (NvmUnit.page p).base := by
  cases p <;> simp [NvmUnit.base, PageId.other, pageSize]

/-- Two memories that read the same over a page. -/
def SamePage (p : PageId) (m c : Memory) : Prop := ∀ x, (NvmUnit.page p).base ≤ x → x < (NvmUnit.page p).base + 1024 →
    c.read erasedByte x = m.read erasedByte x

theorem readSlot_congr {n : Nat} (h : ∀ b, b < 16 → c.read erasedByte (recordAddress p n + b) = m.read erasedByte (recordAddress p n + b)) :
    readSlot c p n = readSlot m p n := by unfold readSlot; rw [Memory.readAll_congr h]

theorem SamePage.slot {n : Nat} (h : SamePage p m c) (hn : n < 63) : readSlot c p n = readSlot m p n :=
  readSlot_congr fun b hb => h _ (by unfold recordAddress; omega) (by unfold recordAddress; omega)

theorem pageValid_congr (h : c.read erasedByte (completeMarkerAddress p) = m.read erasedByte (completeMarkerAddress p)) :
    pageValid c p = pageValid m p := by
  unfold pageValid; rw [h]

theorem pageSequence_congr (h : ∀ b, b < 4 → c.read erasedByte ((NvmUnit.page p).base + b) = m.read erasedByte ((NvmUnit.page p).base + b)) :
    pageSequence c p = pageSequence m p := by unfold pageSequence; rw [Memory.readAll_congr h]

theorem SamePage.valid (h : SamePage p m c) : pageValid c p = pageValid m p :=
    pageValid_congr (h _ (by unfold completeMarkerAddress; omega) (by unfold completeMarkerAddress; omega))
theorem SamePage.seq (h : SamePage p m c) : pageSequence c p = pageSequence m p := pageSequence_congr fun b hb => h _ (by omega) (by omega)

/-- The scan of one record slot (R130). -/
def scanSlot (m : Memory) (p : PageId) (rows : List GovRow) (n : Nat) : List GovRow :=
  match readSlot m p n with
  | .good r => putRow { record := r, page := p, slot := n } rows
  | _ => rows

theorem scanRows_eq (m : Memory) (p : PageId) : scanRows m p = (List.range 63).foldl (scanSlot m p) [] := rfl

theorem scanSlot_congr {n : Nat} (h : readSlot c p n = readSlot m p n) (z) : scanSlot c p z n = scanSlot m p z n := by unfold scanSlot; rw [h]
theorem scanSlot_good {n : Nat} {r : VersionRecord} (h : readSlot m p n = .good r) (z) :
    scanSlot m p z n = putRow { record := r, page := p, slot := n } z := by
  unfold scanSlot; rw [h]
theorem scanSlot_of_not_good {n : Nat} (h : ∀ r, readSlot m p n ≠ .good r) (z) : scanSlot m p z n = z := by
  unfold scanSlot; split
  · rename_i r hr; exact absurd hr (h r)
  · rfl

/-- Slots scanned alike give the same rows. -/
theorem foldl_scanSlot_congr {l : List Nat} (h : ∀ n ∈ l, ∀ z, scanSlot c p z n = scanSlot m p z n) (z) :
    l.foldl (scanSlot c p) z = l.foldl (scanSlot m p) z := by
  induction l generalizing z with
  | nil => rfl
  | cons n l ih => rw [List.foldl_cons, List.foldl_cons, h n (by simp)]; exact ih (fun k hk => h k (by simp [hk])) _

/-- Slots with no good record add no row. -/
theorem foldl_scanSlot_none {l : List Nat} (h : ∀ n ∈ l, ∀ r, readSlot m p n ≠ .good r) (z) : l.foldl (scanSlot m p) z = z := by
  induction l generalizing z with
  | nil => rfl
  | cons n l ih => rw [List.foldl_cons, scanSlot_of_not_good (h n (by simp))]; exact ih (fun k hk => h k (by simp [hk])) _

theorem scanRows_congr (h : ∀ n, n < 63 → readSlot c p n = readSlot m p n) : scanRows c p = scanRows m p := by
  rw [scanRows_eq, scanRows_eq]
  exact foldl_scanSlot_congr (fun n hn => scanSlot_congr (h n (List.mem_range.mp hn))) _

theorem scanned_governing (m : Memory) : (scannedStore m).governing = match findActive m with | some p => scanRows m p | none => [] := rfl
theorem scanned_activePage (m : Memory) : (scannedStore m).activePage = findActive m := rfl
theorem scanned_activeSeq (m : Memory) : (scannedStore m).activeSeq = (findActive m).map (pageSequence m) := rfl

/-- The active page, spelled out. -/
theorem findActive_some_iff (m : Memory) (p : PageId) : findActive m = some p ↔ pageValid m p = true ∧
    (pageValid m p.other = true → match p with | .a => (pageSequence m .b).toNat ≤ (pageSequence m .a).toNat | .b => (pageSequence m .a).toNat < (pageSequence m .b).toNat) := by
  unfold findActive
  cases p <;> cases ha : pageValid m .a <;> cases hb : pageValid m .b <;> simp [PageId.other, ha, hb]

theorem findActive_none_iff (m : Memory) : findActive m = none ↔ ∀ p, pageValid m p = false := by
  unfold findActive
  constructor
  · intro h p; cases p <;> cases ha : pageValid m .a <;> cases hb : pageValid m .b <;> simp_all <;> split at h <;> simp at h
  · intro h; rw [h .a, h .b]

/-- The memory still shows what it showed when its active page reads the same and no other page has become valid. -/
theorem findActive_keep (hp : ∀ p, findActive m = some p → SamePage p m c)
    (ho : ∀ p, findActive m ≠ some p → pageValid c p = true → pageValid m p = true ∧ pageSequence c p = pageSequence m p) :
    findActive c = findActive m := by
  cases e : findActive m with
  | none =>
    rw [findActive_none_iff] at e ⊢
    intro p; by_contra h
    have := (ho p (by rw [(findActive_none_iff m).mpr e]; simp) (by simpa using h)).1
    rw [e p] at this; cases this
  | some p =>
    have hs := hp p e
    have hne : findActive m ≠ some p.other := by rw [e]; cases p <;> simp [PageId.other]
    have ho' := ho p.other hne
    rw [findActive_some_iff] at e ⊢
    refine ⟨by rw [hs.valid]; exact e.1, fun h => ?_⟩
    obtain ⟨h1, h2⟩ := ho' h
    have := e.2 h1
    cases p
    · have h3 := hs.seq; simp only [PageId.other] at h2; simp only [h2, h3]; exact this
    · have h3 := hs.seq; simp only [PageId.other] at h2; simp only [h2, h3]; exact this

theorem NvmShows.keep (h : NvmShows m v) (hp : ∀ p, v.activePage = some p → SamePage p m c)
    (ho : ∀ p, v.activePage ≠ some p → pageValid c p = true → pageValid m p = true ∧ pageSequence c p = pageSequence m p) : NvmShows c v := by
  obtain ⟨h1, h2, h3, h4, h5⟩ := h
  rw [scanned_activePage] at h2
  have e : findActive c = findActive m := findActive_keep (fun p hp' => hp p (h2 ▸ hp')) (fun p hp' => ho p (h2 ▸ hp'))
  refine ⟨?_, by rw [scanned_activePage, e, h2], ?_, h4, fun p n a b d => ?_⟩
  · rw [← h1, scanned_governing, scanned_governing, e]
    cases e2 : findActive m with
    | none => rfl
    | some p => exact scanRows_congr fun n hn => (hp p (by rw [← h2, e2])).slot hn
  · rw [← h3, scanned_activeSeq, scanned_activeSeq, e]
    cases e2 : findActive m with
    | none => rw [Option.map_none, Option.map_none]
    | some p => simp only [Option.map_some, (hp p (by rw [← h2, e2])).seq]
  · rw [(hp p a).slot d]; exact h5 p n a b d

/-- The rows of the first slots are those of all when the others hold no good record. -/
theorem scanRows_upTo_good {k : Nat} (hk : k ≤ 63) (h : ∀ n, k ≤ n → n < 63 → ∀ r, readSlot m p n ≠ .good r) :
    scanRows m p = (List.range k).foldl (scanSlot m p) [] := by
  have e : ∀ d, k ≤ d → List.range d = List.range k ++ (List.range (d - k)).map (k + ·) := fun d hd => by
    rw [← List.range_add, Nat.add_sub_cancel' hd]
  have e := e 63 hk
  refine (congrArg (List.foldl (scanSlot m p) []) e).trans ?_
  rw [List.foldl_append]
  refine foldl_scanSlot_none (fun n hn => ?_) _
  obtain ⟨j, hj, rfl⟩ := List.mem_map.mp hn
  exact h _ (by omega) (by have := List.mem_range.mp hj; omega)

/-- Two memories that differ within record slot `n` of page `p` alone. -/
def SlotOnly (p : PageId) (n : Nat) (m c : Memory) : Prop :=
  ∀ x, x < recordAddress p n ∨ recordAddress p n + 16 ≤ x → c.read erasedByte x = m.read erasedByte x

theorem SlotOnly.slot {n k : Nat} (h : SlotOnly p n m c) (hk : k ≠ n) : readSlot c p k = readSlot m p k :=
  readSlot_congr fun b hb => h _ (by unfold recordAddress; omega)

theorem SlotOnly.valid {n : Nat} (h : SlotOnly p n m c) (hn : n < 63) (q) : pageValid c q = pageValid m q := by
  refine pageValid_congr (h _ ?_)
  unfold completeMarkerAddress recordAddress
  cases p <;> cases q <;> simp [NvmUnit.base, pageSize] <;> omega

theorem SlotOnly.seq {n : Nat} (h : SlotOnly p n m c) (hn : n < 63) (q) : pageSequence c q = pageSequence m q := by
  refine pageSequence_congr fun b hb => h _ ?_
  unfold recordAddress
  cases p <;> cases q <;> simp [NvmUnit.base, pageSize] <;> omega

theorem SlotOnly.active {n : Nat} (h : SlotOnly p n m c) (hn : n < 63) : findActive c = findActive m := by
  unfold findActive; simp only [h.valid hn, h.seq hn]

/-- A slot in use changes, and holds no good record before or after. -/
theorem NvmShows.slot {n : Nat} (h : NvmShows m v) (hp : v.activePage = some p) (hs : SlotOnly p n m c) (hn : n < 63) (hf : n < v.freeFrom)
    (h1 : ∀ r, readSlot m p n ≠ .good r) (h2 : ∀ r, readSlot c p n ≠ .good r) : NvmShows c v := by
  obtain ⟨a1, a2, a3, a4, a5⟩ := h
  have e := hs.active hn
  have e2 : findActive m = some p := a2.trans hp
  refine ⟨?_, by rw [scanned_activePage, e]; exact a2, ?_, a4, fun q k b1 b2 b3 => ?_⟩
  · rw [← a1, scanned_governing, scanned_governing, e, e2]
    dsimp only
    rw [scanRows_eq, scanRows_eq]
    refine foldl_scanSlot_congr (fun k _ z => ?_) _
    by_cases hk : k = n
    · subst hk; rw [scanSlot_of_not_good h1, scanSlot_of_not_good h2]
    · exact scanSlot_congr (hs.slot hk) z
  · rw [← a3, scanned_activeSeq, scanned_activeSeq, e, e2]; simp only [Option.map_some, hs.seq hn]
  · rw [hp] at b1; cases b1
    rw [hs.slot (by omega)]; exact a5 p k hp b2 b3

/-- A slot in use, with no good record, comes to hold one, and the slots above it hold none (R135). -/
theorem NvmShows.append {n : Nat} {r : VersionRecord} (h : NvmShows m v) (hp : v.activePage = some p) (hs : SlotOnly p n m c) (hn : n < 63)
    (hf : v.freeFrom = n + 1) (h1 : ∀ r, readSlot m p n ≠ .good r) (h2 : readSlot c p n = .good r) :
    NvmShows c { v with governing := putRow { record := r, page := p, slot := n } v.governing } := by
  obtain ⟨a1, a2, a3, a4, a5⟩ := h
  have e := hs.active hn
  have e2 : findActive m = some p := a2.trans hp
  have fr : ∀ k, n + 1 ≤ k → k < 63 → readSlot m p k = .free := fun k h h' => a5 p k hp (by omega) h'
  refine ⟨?_, by rw [scanned_activePage, e]; exact a2, ?_, a4, fun q k b1 b2 b3 => ?_⟩
  · show _ = putRow _ v.governing
    rw [← a1, scanned_governing, scanned_governing, e, e2]
    dsimp only
    rw [scanRows_upTo_good (m := m) (k := n) (by omega), scanRows_upTo_good (m := c) (k := n + 1) (by omega), List.range_succ, List.foldl_append]
    · simp only [List.foldl_cons, List.foldl_nil, scanSlot_good h2]
      congr 1
      exact foldl_scanSlot_congr (fun k hk => scanSlot_congr (hs.slot (by have := List.mem_range.mp hk; omega))) _
    · intro k b1 b2 r'; rw [hs.slot (by omega), fr k b1 b2]; simp
    · intro k b1 b2 r'
      by_cases hk : k = n
      · subst hk; exact h1 r'
      · rw [fr k (by omega) b2]; simp
  · show _ = v.activeSeq
    rw [← a3, scanned_activeSeq, scanned_activeSeq, e, e2]; simp only [Option.map_some, hs.seq hn]
  · change v.activePage = some q at b1; rw [hp] at b1; cases b1
    change v.freeFrom ≤ k at b2
    rw [hs.slot (by omega)]; exact fr k (by omega) b3

/-- Rows put in one after the other, each above the last, are the list of them. -/
theorem putRow_last {rows : List GovRow} {r : GovRow} (h : ∀ g ∈ rows, g.record.target.toNat < r.record.target.toNat) :
    putRow r rows = rows ++ [r] := by
  induction rows with
  | nil => rfl
  | cons x xs ih =>
    have := h x (by simp)
    unfold putRow
    rw [if_neg (by omega), if_neg (fun e => by rw [e] at this; omega), ih fun g hg => h g (by simp [hg])]; rfl

/-- The rows of records placed from slot 0 upward. -/
def placedRows (p : PageId) (recs : List VersionRecord) : List GovRow := recs.mapIdx fun n r => { record := r, page := p, slot := n }

theorem scanRows_formed {recs : List VersionRecord} (hl : recs.length ≤ 63) (hr : ∀ n (h : n < recs.length), readSlot c p n = .good recs[n])
    (hf : ∀ n, recs.length ≤ n → n < 63 → readSlot c p n = .free) : scanRows c p = (placedRows p recs).foldl (fun rows g => putRow g rows) [] := by
  rw [scanRows_upTo_good hl fun n h1 h2 r => by rw [hf n h1 h2]; simp]
  have : ∀ k, k ≤ recs.length → (List.range k).foldl (scanSlot c p) [] =
      ((placedRows p recs).take k).foldl (fun rows g => putRow g rows) [] := by
    intro k; induction k with
    | zero => intro _; simp
    | succ k ih =>
      intro hk
      have : (placedRows p recs).take (k + 1) = (placedRows p recs).take k ++ [{ record := recs[k], page := p, slot := k }] := by
        rw [List.take_add_one]; simp [placedRows, List.getElem?_eq_getElem (show k < recs.length by omega)]
      rw [List.range_succ, List.foldl_append, ih (by omega), this, List.foldl_append]
      simp only [List.foldl_cons, List.foldl_nil, scanSlot_good (hr k (by omega))]
  have h2 := this recs.length le_rfl
  rw [h2, List.take_of_length_le (by simp [placedRows])]

/-- Ascending rows put in one after the other, then one more. -/
theorem foldl_putRow_sorted {rows : List GovRow} (hs : SortedByTarget rows) : rows.foldl (fun z g => putRow g z) [] = rows := by
  have : ∀ (l z : List GovRow), SortedByTarget (z ++ l) → l.foldl (fun z g => putRow g z) z = z ++ l := by
    intro l; induction l with
    | nil => intro z _; simp
    | cons x xs ih =>
      intro z h
      rw [List.foldl_cons, putRow_last, ih]
      · simp
      · rw [List.append_assoc]; exact h
      · intro g hg; exact (List.pairwise_append.mp h).2.2 g hg x (by simp)
  exact this rows [] hs

theorem placedRows_append (p) (a : List VersionRecord) (r : VersionRecord) :
    placedRows p (a ++ [r]) = placedRows p a ++ [{ record := r, page := p, slot := a.length }] := by
  simp [placedRows, List.mapIdx_append]

theorem placedRows_moved (p) (rows : List GovRow) : placedRows p (rows.map GovRow.record) = rows.mapIdx fun n g => { record := g.record, page := p, slot := n : GovRow } := by
  unfold placedRows; apply List.ext_getElem <;> simp

theorem sorted_moved {rows : List GovRow} (h : SortedByTarget rows) (p) :
    SortedByTarget (rows.mapIdx fun n g => { record := g.record, page := p, slot := n : GovRow }) := by
  unfold SortedByTarget at *
  rw [List.pairwise_iff_getElem] at h ⊢
  intro i j hi hj hij
  simp only [List.length_mapIdx] at hi hj
  simpa using h i j hi hj hij

/-- A page formed with every governing record and one more takes over (R136, R137). -/
theorem NvmShows.formed {rows : List GovRow} {r : VersionRecord} {q : Word32} (hs : SortedByTarget rows) (hl : rows.length + 1 ≤ 63)
    (hv : pageValid c p = true) (hq : pageSequence c p = q) (ho : pageValid c p.other = true → (pageSequence c p.other).toNat < q.toNat)
    (hne : q ≠ 0xFFFFFFFF#32)
    (hr : ∀ n (h : n < rows.length), readSlot c p n = .good rows[n].record) (hr' : readSlot c p rows.length = .good r)
    (hf : ∀ n, rows.length + 1 ≤ n → n < 63 → readSlot c p n = .free) :
    NvmShows c { governing := putRow { record := r, page := p, slot := rows.length } (rows.mapIdx fun n g => { record := g.record, page := p, slot := n })
                 activePage := some p, activeSeq := some q, freeFrom := rows.length + 1 } := by
  have e : findActive c = some p := by
    rw [findActive_some_iff]; refine ⟨hv, fun h => ?_⟩
    have := ho h; subst hq
    cases p
    · exact Nat.le_of_lt this
    · exact this
  refine ⟨?_, e, by rw [scanned_activeSeq, e, Option.map_some, hq], by simpa using hne, fun p' n a1 a2 a3 => ?_⟩
  · rw [scanned_governing, e]; dsimp only
    rw [scanRows_formed (recs := rows.map GovRow.record ++ [r]) (by simpa using hl), placedRows_append, List.foldl_append, placedRows_moved,
      foldl_putRow_sorted (sorted_moved hs p)]
    · simp
    · intro n h
      simp only [List.length_append, List.length_map, List.length_singleton] at h
      by_cases hn : n < rows.length
      · rw [List.getElem_append_left (by simpa using hn), List.getElem_map]; exact hr n hn
      · have : n = rows.length := by omega
        subst this; simp [hr']
    · intro n h1 h2; exact hf n (by simpa using h1) h2
  · cases a1; exact hf n a2 a3

/-! ## Steps -/

theorem wf_done (h : m.wf erasedByte = true) (st : NvmStep) : (st.done m).wf erasedByte = true := by
  cases st
  · exact Memory.wf_write h _ _
  · exact Memory.wf_clear h _ _

theorem read_done_program (h : m.wf erasedByte = true) (b : Byte) (n x) :
    ((NvmStep.program n b).done m).read erasedByte x = if x = n then b else m.read erasedByte x := Memory.read_write h _ _ _

theorem pageValid_iff : pageValid m p = true ↔ m.read erasedByte (completeMarkerAddress p) = 0x3C#8 := by unfold pageValid; exact beq_iff_eq

/-- A step that ends as meant leaves what a step may leave. -/
theorem done_leaves (h : m.wf erasedByte = true) (st : NvmStep) : st.Leaves m job (st.done m) := by
  cases st with
  | program a b => intro x hx; rw [NvmStep.done, Memory.read_write h, if_neg hx]
  | erase u =>
    refine ⟨fun x hx => by rw [NvmStep.done, Memory.read_clear h, if_neg (by omega)], fun p hp hv => ?_⟩
    subst hp
    rw [pageValid_iff, NvmStep.done, Memory.read_clear h, if_pos] at hv
    · cases hv
    · show _ ≤ (NvmUnit.page p).base + 4 ∧ (NvmUnit.page p).base + 4 < (NvmUnit.page p).base + 1024; omega

/-- Steps that do not turn the view keep it safe to go on. -/
theorem StepsSafe.pre {L tail : List NvmStep} (P : Memory → Prop) (ht : ∀ st ∈ L, ∀ l, job.turns st (l ++ tail) = false)
    (hs : ∀ m st, st ∈ L → P m → m.wf erasedByte = true → (∀ c, st.Leaves m job c → NvmShows c v) ∧ P (st.done m))
    (hw : m.wf erasedByte = true) (hP : P m)
    (hr : ∀ m', m' = L.foldl (fun m st => st.done m) m → m'.wf erasedByte = true → P m' → StepsSafe job new v m' tail) :
    StepsSafe job new v m (L ++ tail) := by
  induction L generalizing m with
  | nil => exact hr m rfl hw hP
  | cons st L ih =>
    obtain ⟨h1, h2⟩ := hs m st (by simp) hP hw
    rw [List.cons_append]; unfold StepsSafe
    rw [if_neg (by rw [ht st (by simp)]; simp)]
    exact ⟨h1, h1 _ (done_leaves hw st), ih (fun s h => ht s (by simp [h])) (fun m s h => hs m s (by simp [h])) (wf_done hw st) h2 hr⟩

/-- A step outside the active page that makes no page valid keeps what the memory shows. -/
theorem NvmShows.leaves_erase {u : NvmUnit} (h : NvmShows m v) (hu : ∀ p, v.activePage = some p → u ≠ .page p)
    (hc : (NvmStep.erase u).Leaves m job c) : NvmShows c v := by
  obtain ⟨h1, h2⟩ := hc
  have same : ∀ q, u ≠ .page q → SamePage q m c := by
    intro q hq x a b; apply h1
    cases u with
    | key => cases q <;> simp only [NvmUnit.base, pageSize] at * <;> omega
    | page r =>
      have : r = q.other := by cases r <;> cases q <;> simp_all [PageId.other]
      subst this
      have := base_other q
      show x < (NvmUnit.page q.other).base ∨ (NvmUnit.page q.other).base + 1024 ≤ x
      omega
  refine h.keep (fun p hp => same p (hu p hp)) fun p _ hv => ?_
  by_cases e : u = .page p
  · obtain ⟨a, _, b⟩ := h2 p e hv; exact ⟨a, b⟩
  · exact ⟨by rw [← (same p e).valid]; exact hv, (same p e).seq⟩

theorem NvmShows.leaves_key {a : Nat} {b : Byte} (h : NvmShows m v) (ha : 2048 ≤ a) (hc : (NvmStep.program a b).Leaves m job c) : NvmShows c v := by
  have same : ∀ q, SamePage q m c := fun q x a b => hc x (by cases q <;> simp only [NvmUnit.base, pageSize] at * <;> omega)
  exact h.keep (fun p _ => same p) fun p _ hv => ⟨by rw [← (same p).valid]; exact hv, (same p).seq⟩

/-- A byte programmed in a page that is neither active nor valid, other than its marker. -/
theorem NvmShows.leaves_forming {a : Nat} {b : Byte} {x : PageId} (h : NvmShows m v) (hx : v.activePage ≠ some x) (hv : pageValid m x = false)
    (ha : (NvmUnit.page x).base ≤ a ∧ a < (NvmUnit.page x).base + 1024) (hc : (NvmStep.program a b).Leaves m job c)
    (hi : pageValid c x = false) : NvmShows c v := by
  have same : SamePage x.other m c := fun y h1 h2 => hc y (by have := base_other x; omega)
  refine h.keep (fun p hp => ?_) fun p hp hq => ?_
  · have : p = x.other := by cases p <;> cases x <;> simp_all [PageId.other]
    subst this; exact same
  · by_cases e : p = x
    · subst e; rw [hi] at hq; cases hq
    · have : p = x.other := by cases p <;> cases x <;> simp_all [PageId.other]
      subst this; exact ⟨by rw [← same.valid]; exact hq, same.seq⟩

theorem invalid_congr {a : Nat} {b : Byte} {x : PageId} (hv : pageValid m x = false) (hc : (NvmStep.program a b).Leaves m job c)
    (ha : a ≠ completeMarkerAddress x) : pageValid c x = false := by
  rw [← hv]; exact pageValid_congr (hc _ (Ne.symm ha))

/-! ## The scan and the key installation -/

theorem stepsSafe_scan {cause : StartCause} {us : List NvmUnit} (hw : m.wf erasedByte = true) (h : NvmShows m v)
    (hu : ∀ u ∈ us, ∀ p, v.activePage = some p → u ≠ .page p) : StepsSafe (.scan cause) new v m (us.map .erase) := by
  rw [← List.append_nil (us.map _)]
  refine StepsSafe.pre (P := fun m => NvmShows m v) (fun _ _ _ => rfl) (fun m st hst hm hw => ?_) hw h fun _ _ _ _ => trivial
  obtain ⟨u, hu', rfl⟩ := List.mem_map.mp hst
  have : ∀ c, (NvmStep.erase u).Leaves m (.scan cause) c → NvmShows c v := fun c hc => hm.leaves_erase (hu u hu') hc
  exact ⟨this, this _ (done_leaves hw _)⟩

theorem programSteps_cons (a : Nat) (b : Byte) (bs : List Byte) : programSteps a (b :: bs) = .program a b :: programSteps (a + 1) bs := by
  unfold programSteps; rw [List.mapIdx_cons]; congr 1; apply List.ext_getElem <;> simp; intro i _; omega

theorem mem_programSteps {a : Nat} {bs : List Byte} {st : NvmStep} (h : st ∈ programSteps a bs) : ∃ n b, n < bs.length ∧ st = .program (a + n) b := by
  unfold programSteps at h
  obtain ⟨n, hn, rfl⟩ := List.mem_iff_getElem.mp h
  simp only [List.length_mapIdx] at hn
  exact ⟨n, bs[n], hn, by simp⟩

theorem done_programSteps (a : Nat) (bs : List Byte) (m : Memory) :
    (programSteps a bs).foldl (fun m st => st.done m) m = m.writeAll erasedByte a bs := by
  induction bs generalizing a m with
  | nil => rfl
  | cons b bs ih => rw [programSteps_cons, List.foldl_cons, ih]; rfl

theorem stepsSafe_key {key : List Byte} (hw : m.wf erasedByte = true) (h : NvmShows m v) : StepsSafe .installKey new v m (keySteps key) := by
  unfold keySteps
  have : ∀ st ∈ programSteps NvmUnit.key.base key ++ [NvmStep.program keyMarkerAddress 0#8], ∃ a b, 2048 ≤ a ∧ st = .program a b := by
    intro st hst
    rcases List.mem_append.mp hst with hst | hst
    · obtain ⟨n, b, _, rfl⟩ := mem_programSteps hst; exact ⟨_, b, by simp [NvmUnit.base, pageSize], rfl⟩
    · rw [List.mem_singleton.mp hst]; exact ⟨_, _, by simp [keyMarkerAddress, NvmUnit.base, pageSize], rfl⟩
  rw [← List.append_nil (_ ++ _)]
  refine StepsSafe.pre (P := fun m => NvmShows m v) (fun _ _ _ => rfl) (fun m st hst hm hw => ?_) hw h fun _ _ _ _ => trivial
  obtain ⟨a, b, ha, rfl⟩ := this st hst
  have : ∀ c, (NvmStep.program a b).Leaves m .installKey c → NvmShows c v := fun c hc => hm.leaves_key ha hc
  exact ⟨this, this _ (done_leaves hw _)⟩

/-! ## Records -/

/-- A record's 16 bytes read back as the good record (R127). -/
theorem recordBytes_reads (r : VersionRecord) : r.count ≤ 65535 → (recordBytes r).length = 16 ∧ byteAt (recordBytes r) 15 = 0x00#8 ∧
    byteSum ((recordBytes r).take 15) % 256 = 0x5A ∧ readSlotBytes (recordBytes r) = .good r := by
  intro hc
  have l14 : (recordFields r).length = 14 := by simp [recordFields, beBytes_length]
  have sum : byteSum ((recordBytes r).take 15) % 256 = 0x5A := by
    have : (recordBytes r).take 15 = recordFields r ++ [checkByteFor (recordFields r)] := by
      unfold recordBytes; rw [show recordFields r ++ [checkByteFor (recordFields r), 0#8] = (recordFields r ++ [checkByteFor (recordFields r)]) ++ [0#8] by simp]
      rw [List.take_append_of_le_length (by simp [l14]), List.take_of_length_le (by simp [l14])]
    rw [this]; unfold byteSum checkByteFor byteSum checkTarget; simp; omega
  have b15 : byteAt (recordBytes r) 15 = 0x00#8 := by
    unfold byteAt recordBytes; rw [List.getD_eq_getElem?_getD, List.getElem?_append_right (by omega), l14]; rfl
  refine ⟨by unfold recordBytes; simp [l14], b15, sum, ?_⟩
  unfold readSlotBytes
  rw [if_neg, if_pos ⟨b15, by unfold checkSumOk checkTarget; simp [sum]⟩]
  · have h1 := r.target.isLt; have h2 := r.version.isLt; have h3 := r.floor.isLt
    obtain ⟨t, v, f, c⟩ := r
    change c ≤ 65535 at hc
    change t.toNat < _ at h1
    change v.toNat < _ at h2
    change f.toNat < _ at h3
    have e1 : fieldAt (recordBytes ⟨t, v, f, c⟩) 0 2 = t.toNat := by
      have := beBytes_fieldAt [] (beBytes 4 v.toNat ++ beBytes 4 f.toNat ++ beBytes 2 c ++ [0#8, 0#8] ++ [checkByteFor (recordFields ⟨t, v, f, c⟩), 0#8]) 2 t.toNat
      rw [Nat.mod_eq_of_lt (by omega)] at this; rw [← this]; unfold recordBytes; conv_lhs => arg 1; arg 1; unfold recordFields
      simp only [List.append_assoc, List.nil_append, List.length_nil]
    have e2 : fieldAt (recordBytes ⟨t, v, f, c⟩) 2 4 = v.toNat := by
      have := beBytes_fieldAt (beBytes 2 t.toNat) (beBytes 4 f.toNat ++ beBytes 2 c ++ [0#8, 0#8] ++ [checkByteFor (recordFields ⟨t, v, f, c⟩), 0#8]) 4 v.toNat
      rw [Nat.mod_eq_of_lt (by omega), beBytes_length] at this; rw [← this]; unfold recordBytes; conv_lhs => arg 1; arg 1; unfold recordFields
      simp only [List.append_assoc]
    have e3 : fieldAt (recordBytes ⟨t, v, f, c⟩) 6 4 = f.toNat := by
      have := beBytes_fieldAt (beBytes 2 t.toNat ++ beBytes 4 v.toNat) (beBytes 2 c ++ [0#8, 0#8] ++ [checkByteFor (recordFields ⟨t, v, f, c⟩), 0#8]) 4 f.toNat
      rw [Nat.mod_eq_of_lt (by omega), List.length_append, beBytes_length, beBytes_length] at this; rw [← this]; unfold recordBytes; conv_lhs => arg 1; arg 1; unfold recordFields
      simp only [List.append_assoc]
    have e4 : fieldAt (recordBytes ⟨t, v, f, c⟩) 10 2 = c := by
      have := beBytes_fieldAt (beBytes 2 t.toNat ++ beBytes 4 v.toNat ++ beBytes 4 f.toNat) ([0#8, 0#8] ++ [checkByteFor (recordFields ⟨t, v, f, c⟩), 0#8]) 2 c
      rw [Nat.mod_eq_of_lt (by omega), List.length_append, List.length_append, beBytes_length, beBytes_length, beBytes_length] at this; conv_rhs => rw [← this]
      unfold recordBytes; conv_lhs => arg 1; arg 1; unfold recordFields
      simp only [List.append_assoc]
    rw [e1, e2, e3, e4, BitVec.ofNat_toNat, BitVec.ofNat_toNat, BitVec.ofNat_toNat]; simp only [BitVec.setWidth_eq]
  · rw [List.all_eq_true]; intro h
    have := h (byteAt (recordBytes r) 15) (by unfold byteAt; rw [List.getD_eq_getElem _ _ (by unfold recordBytes; simp [l14])]; exact List.getElem_mem _)
    rw [b15] at this; exact absurd this (by decide)

theorem length_recordBytes (r : VersionRecord) : (recordBytes r).length = 16 := by simp [recordBytes, recordFields, beBytes_length]

/-- A slot whose 16 bytes are a record's. -/
theorem readSlot_of_bytes {r : VersionRecord} {n : Nat} (hc : r.count ≤ 65535)
    (h : ∀ b (hb : b < 16), c.read erasedByte (recordAddress p n + b) = (recordBytes r)[b]'(by rw [length_recordBytes]; exact hb)) :
    readSlot c p n = .good r := by
  unfold readSlot
  have : c.readAll erasedByte (recordAddress p n) 16 = recordBytes r := by
    apply List.ext_getElem
    · simp [Memory.readAll, length_recordBytes]
    · intro b h1 h2; simp only [Memory.readAll, List.getElem_map, List.getElem_range]
      exact h b (by rw [length_recordBytes] at h2; exact h2)
  rw [this]; exact (recordBytes_reads r hc).2.2.2

/-- A slot whose marker is not programmed holds no good record. -/
theorem not_good_of_marker {n : Nat} (h : c.read erasedByte (recordAddress p n + 15) ≠ 0#8) (r) : readSlot c p n ≠ .good r := by
  unfold readSlot readSlotBytes
  have : byteAt (c.readAll erasedByte (recordAddress p n) 16) 15 = c.read erasedByte (recordAddress p n + 15) := by
    unfold byteAt Memory.readAll; rw [List.getD_eq_getElem?_getD]; simp
  rw [this, if_neg (c := _ ∧ _) (fun h' => h h'.1)]
  split <;> simp

theorem recordBytes_split (r : VersionRecord) : recordBytes r = (recordBytes r).take 15 ++ [0#8] := by
  have h := List.take_append_drop 15 (recordBytes r)
  have l14 : (recordFields r).length = 14 := by simp [recordFields, beBytes_length]
  have : (recordBytes r).drop 15 = [0#8] := by
    unfold recordBytes; rw [List.drop_append, List.drop_eq_nil_of_le (by omega), l14]; rfl
  rw [this] at h; exact h.symm

theorem programSteps_append (a : Nat) (xs ys : List Byte) : programSteps a (xs ++ ys) = programSteps a xs ++ programSteps (a + xs.length) ys := by
  unfold programSteps; rw [List.mapIdx_append]; congr 1
  apply List.ext_getElem <;> simp; intro i _; omega

/-! ## An append (R135) -/

theorem stepsSafe_append {i : StreamNo} {r : VersionRecord} {n : Nat} (hw : m.wf erasedByte = true) (h : NvmShows m v) (hp : v.activePage = some p)
    (hn : n < 63)
    (hf : v.freeFrom = n + 1) (hs : readSlot m p n = .free) (hc : r.count ≤ 65535) :
    StepsSafe (.append i r p n) (some { v with governing := putRow { record := r, page := p, slot := n } v.governing }) v m
      (programSteps (recordAddress p n) (recordBytes r)) := by
  have free : ∀ b, b < 16 → m.read erasedByte (recordAddress p n + b) = erasedByte := by
    intro b hb
    unfold readSlot readSlotBytes at hs
    split at hs
    · rename_i ha
      have := List.all_eq_true.mp ha (m.read erasedByte (recordAddress p n + b)) (by unfold Memory.readAll; exact List.mem_map.mpr ⟨b, List.mem_range.mpr hb, rfl⟩)
      simpa using this
    · split at hs <;> cases hs
  have l15 : ((recordBytes r).take 15).length = 15 := by simp [length_recordBytes]
  rw [recordBytes_split, programSteps_append, l15]
  have within : ∀ {a b} {m c : Memory}, recordAddress p n ≤ a → a < recordAddress p n + 16 → (NvmStep.program a b).Leaves m (.append i r p n) c → SlotOnly p n m c :=
    fun h1 h2 hl x hx => hl x (by omega)
  refine StepsSafe.pre (P := fun m => NvmShows m v ∧ m.read erasedByte (recordAddress p n + 15) = erasedByte) (fun st _ l => ?_) (fun m st hst hm hw => ?_) hw
    ⟨h, free 15 (by omega)⟩ fun m' hm' hw' hP => ?_
  · show (l ++ _).isEmpty = false
    cases l <;> rfl
  · obtain ⟨k, b, hk, rfl⟩ := mem_programSteps hst
    rw [l15] at hk
    have key : ∀ c, (NvmStep.program (recordAddress p n + k) b).Leaves m (.append i r p n) c → NvmShows c v ∧ c.read erasedByte (recordAddress p n + 15) = erasedByte := by
      intro c hl
      have e : c.read erasedByte (recordAddress p n + 15) = erasedByte := by rw [hl _ (by omega)]; exact hm.2
      exact ⟨hm.1.slot hp (within (by omega) (by omega) hl) hn (by omega) (not_good_of_marker (by rw [hm.2]; decide)) (not_good_of_marker (by rw [e]; decide)), e⟩
    exact ⟨fun c hl => (key c hl).1, key _ (done_leaves hw _)⟩
  · subst hm'
    rw [done_programSteps] at *
    generalize hm'' : m.writeAll erasedByte (recordAddress p n) ((recordBytes r).take 15) = m' at *
    have rd : ∀ b (hb : b < 15), m'.read erasedByte (recordAddress p n + b) = (recordBytes r)[b]'(by rw [length_recordBytes]; omega) := by
      intro b hb
      rw [← hm'', Memory.read_writeAll hw, dif_pos (by rw [l15]; omega)]
      simp
    have made : ∀ c, (NvmStep.program (recordAddress p n + 15) 0#8).Leaves m' (.append i r p n) c → c.read erasedByte (recordAddress p n + 15) = 0#8 →
        NvmShows c { v with governing := putRow { record := r, page := p, slot := n } v.governing } := by
      intro c hl e
      refine hP.1.append hp (within (by omega) (by omega) hl) hn hf (not_good_of_marker (by rw [hP.2]; decide)) (readSlot_of_bytes hc fun b hb => ?_)
      by_cases hb' : b = 15
      · subst hb'; rw [e]
        have := (recordBytes_reads r hc).2.1
        unfold byteAt at this; rw [List.getD_eq_getElem _ _ (by rw [length_recordBytes]; omega)] at this; exact this.symm
      · rw [hl _ (by omega)]; exact rd b (by omega)
    show StepsSafe _ _ _ _ [NvmStep.program (recordAddress p n + 15 + 0) 0#8]
    rw [Nat.add_zero]
    unfold StepsSafe; rw [if_pos (by rfl)]
    refine ⟨_, rfl, fun c hl => ?_, made _ (done_leaves hw' _) (by rw [NvmStep.done, Memory.read_write hw', if_pos rfl]), trivial⟩
    by_cases e : c.read erasedByte (recordAddress p n + 15) = 0#8
    · exact .inr ⟨made c hl e, _, _, rfl, e⟩
    · exact .inl (hP.1.slot hp (within (by omega) (by omega) hl) hn (by omega) (not_good_of_marker (by rw [hP.2]; decide)) (not_good_of_marker e))

/-! ## Forming a page (R136, R137) -/

theorem unitErased_page_iff (h : m.wf erasedByte = true) (p : PageId) :
    unitErased m (.page p) = true ↔ ∀ y, (NvmUnit.page p).base ≤ y → y < (NvmUnit.page p).base + 1024 → m.read erasedByte y = erasedByte := by
  unfold unitErased; rw [Memory.isClear_iff h]
  have e : (NvmUnit.page p).size = 1024 := rfl
  rw [e]
  generalize (NvmUnit.page p).base = a
  constructor
  · intro hb y h1 h2
    have := hb (y - a) (by omega)
    rwa [Nat.add_sub_cancel' h1] at this
  · intro hb b hb'; exact hb _ (by omega) (by omega)

/-- The program steps that write records into a page's slots from slot `k` upward. -/
def formSteps (x : PageId) (k : Nat) (recs : List VersionRecord) : List NvmStep :=
  (recs.mapIdx fun n y => programSteps (recordAddress x (k + n)) (recordBytes y)).flatten

theorem formSteps_cons (k : Nat) (y : VersionRecord) (recs) :
    formSteps x k (y :: recs) = programSteps (recordAddress x k) (recordBytes y) ++ formSteps x (k + 1) recs := by
  unfold formSteps; rw [List.mapIdx_cons, List.flatten_cons, Nat.add_zero]
  refine congrArg (fun l : List (List NvmStep) => programSteps (recordAddress x k) (recordBytes y) ++ l.flatten) ?_
  apply List.ext_getElem <;> simp only [List.length_mapIdx, List.getElem_mapIdx]
  intro n _ _; rw [show k + (n + 1) = k + 1 + n by omega]

theorem mem_formSteps {k : Nat} {recs : List VersionRecord} {st : NvmStep} (h : st ∈ formSteps x k recs) :
    ∃ a b, recordAddress x k ≤ a ∧ a < recordAddress x (k + recs.length) ∧ st = .program a b := by
  induction recs generalizing k with
  | nil => simp [formSteps] at h
  | cons y recs ih =>
    rw [formSteps_cons] at h
    rcases List.mem_append.mp h with h | h
    · obtain ⟨n, b, hn, rfl⟩ := mem_programSteps h
      rw [length_recordBytes] at hn
      exact ⟨_, b, by omega, by unfold recordAddress; simp only [List.length_cons]; omega, rfl⟩
    · obtain ⟨a, b, h1, h2, rfl⟩ := ih h
      exact ⟨a, b, by unfold recordAddress at *; omega, by unfold recordAddress at *; simp only [List.length_cons]; omega, rfl⟩

theorem done_formSteps (recs : List VersionRecord) (hc : ∀ y ∈ recs, y.count ≤ 65535) : ∀ (k : Nat) (m : Memory), m.wf erasedByte = true →
    ((formSteps x k recs).foldl (fun m st => st.done m) m).wf erasedByte = true ∧
    (∀ y, y < recordAddress x k ∨ recordAddress x (k + recs.length) ≤ y →
      ((formSteps x k recs).foldl (fun m st => st.done m) m).read erasedByte y = m.read erasedByte y) ∧
    ∀ n (h : n < recs.length), readSlot ((formSteps x k recs).foldl (fun m st => st.done m) m) x (k + n) = .good recs[n] := by
  induction recs with
  | nil => intro k m hw; exact ⟨hw, fun _ _ => rfl, fun n h => absurd h (Nat.not_lt_zero n)⟩
  | cons y recs ih =>
    intro k m hw
    rw [formSteps_cons, List.foldl_append, done_programSteps]
    have hw1 := Memory.wf_writeAll hw (recordAddress x k) (recordBytes y)
    obtain ⟨i1, i2, i3⟩ := ih (fun z hz => hc z (by simp [hz])) (k + 1) _ hw1
    have out : ∀ z, z < recordAddress x k ∨ recordAddress x k + 16 ≤ z → (m.writeAll erasedByte (recordAddress x k) (recordBytes y)).read erasedByte z = m.read erasedByte z := by
      intro z hz; rw [Memory.read_writeAll hw, dif_neg (by rw [length_recordBytes]; omega)]
    refine ⟨i1, fun z hz => ?_, fun n hn => ?_⟩
    · simp only [List.length_cons] at hz
      rw [i2 z (by unfold recordAddress at *; omega), out z (by unfold recordAddress at *; omega)]
    · cases n with
      | zero =>
        refine readSlot_of_bytes (hc y (by simp)) fun b hb => ?_
        show Memory.read _ _ (recordAddress x k + b) = _
        rw [i2 _ (by unfold recordAddress; omega), Memory.read_writeAll hw, dif_pos (by rw [length_recordBytes]; omega)]
        simp
      | succ n =>
        have := i3 n (by simpa using hn)
        rw [show k + (n + 1) = k + 1 + n by omega]; simpa using this

/-- Forming a page that is not active and then giving it its marker (R136, R137). -/
theorem stepsSafe_form {rows : List GovRow} {r : VersionRecord} {q : Word32} {E tail : List NvmStep} (hw : m.wf erasedByte = true) (h : NvmShows m v)
    (hx : v.activePage ≠ some x) (hE : (E = [] ∧ unitErased m (.page x) = true) ∨ E = [.erase (.page x)])
    (hs : SortedByTarget rows) (hl : rows.length + 1 ≤ 63) (hc : ∀ y ∈ rows.map GovRow.record ++ [r], y.count ≤ 65535)
    (hq : q ≠ 0xFFFFFFFF#32) (ho : ∀ s, v.activeSeq = some s → s.toNat < q.toNat)
    (ht : ∀ st ∈ E ++ (formSteps x 0 (rows.map GovRow.record ++ [r]) ++ programSteps (NvmUnit.page x).base (beBytes 4 q.toNat)), ∀ l,
      job.turns st (l ++ .program (completeMarkerAddress x) 0x3C#8 :: tail) = false)
    (hm : job.turns (.program (completeMarkerAddress x) 0x3C#8) tail = true)
    (hr : ∀ m' w, m'.wf erasedByte = true → NvmShows m' w → w.activePage = some x → StepsSafe job none w m' tail) :
    StepsSafe job (some { governing := putRow { record := r, page := x, slot := rows.length } (rows.mapIdx fun n g => { record := g.record, page := x, slot := n })
                          activePage := some x, activeSeq := some q, freeFrom := rows.length + 1 }) v m
      (E ++ (formSteps x 0 (rows.map GovRow.record ++ [r]) ++ programSteps (NvmUnit.page x).base (beBytes 4 q.toNat)) ++
        .program (completeMarkerAddress x) 0x3C#8 :: tail) := by
  have hmk : completeMarkerAddress x = (NvmUnit.page x).base + 4 := rfl
  have hsz : (NvmUnit.page x).size = 1024 := rfl
  have hln : (rows.map GovRow.record ++ [r]).length = rows.length + 1 := by simp
  rw [List.append_assoc]
  refine StepsSafe.pre (P := fun m => NvmShows m v) (fun st hst l => ?_) (fun m st hst hm hw => ?_) hw h fun m1 hm1 hw1 h1 => ?_
  · rw [← List.append_assoc]; exact ht st (List.mem_append_left _ hst) _
  · rcases hE with ⟨rfl, _⟩ | rfl
    · cases hst
    · rw [List.mem_singleton.mp hst]
      have : ∀ c, (NvmStep.erase (.page x)).Leaves m job c → NvmShows c v := fun c hc => hm.leaves_erase (fun p hp e => hx (by cases e; exact hp)) hc
      exact ⟨this, this _ (done_leaves hw _)⟩
  have er : ∀ y, (NvmUnit.page x).base ≤ y → y < (NvmUnit.page x).base + 1024 → m1.read erasedByte y = erasedByte := by
    rcases hE with ⟨rfl, he⟩ | rfl
    · subst hm1; exact (unitErased_page_iff hw x).mp he
    · intro y a b; rw [hm1]; show (m.clear _ _).read erasedByte y = _
      rw [Memory.read_clear hw, if_pos (by rw [hsz]; omega)]
  clear hm1 hE
  have inv1 : pageValid m1 x = false := by
    unfold pageValid; rw [er _ (by omega) (by omega)]; decide
  refine StepsSafe.pre (P := fun m => NvmShows m v ∧ pageValid m x = false) (fun st hst l => ht st (List.mem_append_right _ hst) l) (fun m st hst hP hw => ?_) hw1 ⟨h1, inv1⟩ fun m2 hm2 hw2 h2 => ?_
  · have : ∃ a b, st = .program a b ∧ (NvmUnit.page x).base ≤ a ∧ a < (NvmUnit.page x).base + 1024 ∧ a ≠ completeMarkerAddress x := by
      rcases List.mem_append.mp hst with hst | hst
      · obtain ⟨a, b, h1, h2, rfl⟩ := mem_formSteps hst
        rw [hln] at h2; unfold recordAddress at h1 h2
        exact ⟨a, b, rfl, by omega, by omega, by omega⟩
      · obtain ⟨n, b, hn, rfl⟩ := mem_programSteps hst
        rw [beBytes_length] at hn
        exact ⟨_, b, rfl, by omega, by omega, by omega⟩
    obtain ⟨a, b, rfl, ha, ha', hne⟩ := this
    have key : ∀ c, (NvmStep.program a b).Leaves m job c → NvmShows c v ∧ pageValid c x = false := fun c hc =>
      have hi := invalid_congr hP.2 hc hne
      ⟨hP.1.leaves_forming hx hP.2 ⟨ha, ha'⟩ hc hi, hi⟩
    exact ⟨fun c hc => (key c hc).1, key _ (done_leaves hw _)⟩
  -- the page as it stands before its marker
  rw [List.foldl_append, done_programSteps] at hm2
  obtain ⟨f1, f2, f3⟩ := done_formSteps (x := x) (rows.map GovRow.record ++ [r]) hc 0 m1 hw1
  rw [hln, Nat.zero_add] at f2
  generalize hm3 : (formSteps x 0 (rows.map GovRow.record ++ [r])).foldl (fun m st => st.done m) m1 = m3 at hm2 f1 f2 f3
  have seqLen : (beBytes 4 q.toNat).length = 4 := beBytes_length _ _
  have above : ∀ y, (NvmUnit.page x).base + 4 ≤ y → m2.read erasedByte y = m3.read erasedByte y := fun y hy => by
    rw [hm2, Memory.read_writeAll f1, dif_neg (by rw [seqLen]; omega)]
  have made : ∀ c, (NvmStep.program (completeMarkerAddress x) 0x3C#8).Leaves m2 job c → c.read erasedByte (completeMarkerAddress x) = 0x3C#8 →
      NvmShows c { governing := putRow { record := r, page := x, slot := rows.length } (rows.mapIdx fun n g => { record := g.record, page := x, slot := n })
                   activePage := some x, activeSeq := some q, freeFrom := rows.length + 1 } := by
    intro c hc' e
    have slots : ∀ n, n < 63 → readSlot c x n = readSlot m3 x n := fun n hn => readSlot_congr fun b hb => by
      rw [hc' _ (by unfold recordAddress; omega), above _ (by unfold recordAddress; omega)]
    refine NvmShows.formed hs hl (pageValid_iff.mpr e) ?_ (fun hv => ?_) hq (fun n hn => ?_) ?_ fun n h1 h2 => ?_
    · have : c.readAll erasedByte (NvmUnit.page x).base 4 = beBytes 4 q.toNat := by
        apply List.ext_getElem
        · simp [Memory.readAll, beBytes_length]
        · intro b h1 h2; simp only [Memory.readAll, List.getElem_map, List.getElem_range]
          rw [seqLen] at h2
          rw [hc' _ (by omega), hm2, Memory.read_writeAll f1, dif_pos (by rw [seqLen]; omega)]; simp
      unfold pageSequence; rw [this, beValue_beBytes, Nat.mod_eq_of_lt (by have := q.isLt; omega), BitVec.ofNat_toNat]; simp
    · have same : SamePage x.other m2 c := fun y h1 h2 => hc' y (by have := base_other x; omega)
      rw [same.seq]
      have hv2 : pageValid m2 x.other = true := by rw [← same.valid]; exact hv
      have fa : findActive m2 = some x.other := by
        rw [findActive_some_iff]; refine ⟨hv2, fun hh => ?_⟩
        have : x.other.other = x := by cases x <;> rfl
        rw [this, h2.2] at hh; cases hh
      have := h2.1.2.2.1
      rw [scanned_activeSeq, fa, Option.map_some] at this
      exact ho _ this.symm
    · rw [slots n (by omega)]
      have := f3 n (by rw [hln]; omega)
      rw [Nat.zero_add, List.getElem_append_left (by simpa using hn)] at this; simpa using this
    · rw [slots _ (by omega)]
      have := f3 rows.length (by rw [hln]; omega)
      rw [Nat.zero_add, List.getElem_append_right (by simp)] at this; simpa using this
    · rw [slots n h2]
      have all : ∀ b, b < 16 → m3.read erasedByte (recordAddress x n + b) = erasedByte := fun b hb => by
        rw [f2 _ (by unfold recordAddress; omega), er _ (by unfold recordAddress; omega) (by unfold recordAddress; omega)]
      unfold readSlot readSlotBytes; rw [if_pos]
      rw [List.all_eq_true]; intro y hy
      obtain ⟨b, hb, rfl⟩ := List.mem_map.mp hy
      rw [all b (List.mem_range.mp hb)]; decide
  unfold StepsSafe; rw [if_pos hm]
  refine ⟨_, rfl, fun c hl => ?_, made _ (done_leaves hw2 _) (by rw [NvmStep.done, Memory.read_write hw2, if_pos rfl]), ?_⟩
  · by_cases e : c.read erasedByte (completeMarkerAddress x) = 0x3C#8
    · exact .inr ⟨made c hl e, _, _, rfl, e⟩
    · refine .inl (h2.1.leaves_forming hx h2.2 ⟨by omega, by omega⟩ hl ?_)
      by_contra hv; exact e (pageValid_iff.mp (by simpa using hv))
  · exact hr _ _ (wf_done hw2 _) (made _ (done_leaves hw2 _) (by rw [NvmStep.done, Memory.read_write hw2, if_pos rfl])) rfl

/-! ## Commits (R134 to R137) -/

theorem Store.turned_congr {t u : Store} (h1 : u.governing = t.governing) (h2 : u.activePage = t.activePage) (h3 : u.activeSeq = t.activeSeq)
    (h4 : u.appendPos = t.appendPos) (job) :
    u.turned job = t.turned job := by
  cases job <;> simp only [Store.turned, pageSwitched, h1, h2, h3, h4]

theorem Store.view_append {t : Store} {r : NvmRun} {i R p n} (h0 : t.run = some r) (h : r.job = .append i R p n) :
    t.view = { governing := t.governing, activePage := t.activePage, activeSeq := t.activeSeq, freeFrom := t.appendPos + 1 } := by
  unfold Store.view; rw [h0, Option.map_some, h]

theorem Store.view_other {t : Store} (h : ∀ r, t.run = some r → ∀ i R p n, r.job ≠ .append i R p n) :
    t.view = t.restView := by
  unfold Store.view
  cases e : t.run with
  | none => rfl
  | some r =>
    rw [Option.map_some]
    cases e2 : r.job with
    | append i R p n => exact absurd e2 (h r e i R p n)
    | _ => rfl

theorem count_of_good {n : Nat} {r : VersionRecord} (h : readSlot m p n = .good r) : r.count ≤ 65535 := by
  unfold readSlot readSlotBytes at h; split at h
  · cases h
  · split at h
    · cases h; have := fieldAt_lt (m.readAll erasedByte (recordAddress p n) 16) 10 2; simp only; omega
    · cases h

theorem NvmShows.rows (h : NvmShows m v) : (v.activePage = none → v.governing = []) ∧ (∀ p, v.activePage = some p → v.governing = scanRows m p) := by
  obtain ⟨h1, h2, _⟩ := h
  rw [scanned_activePage] at h2; rw [scanned_governing] at h1
  refine ⟨fun e => ?_, fun p e => ?_⟩
  · rw [e] at h2; rw [h2] at h1; exact h1.symm
  · rw [e] at h2; rw [h2] at h1; exact h1.symm

theorem NvmShows.sorted (h : NvmShows m v) : SortedByTarget v.governing := by
  cases e : v.activePage with
  | none => rw [h.rows.1 e]; exact List.Pairwise.nil
  | some p => rw [h.rows.2 p e]; exact sorted_scanRows m p

theorem NvmShows.counts (h : NvmShows m v) : ∀ g ∈ v.governing, g.record.count ≤ 65535 := by
  intro g hg
  cases e : v.activePage with
  | none => rw [h.rows.1 e] at hg; cases hg
  | some p => rw [h.rows.2 p e] at hg; exact count_of_good ((mem_scanRows m p g).mp hg).2.2.1

theorem NvmShows.seq_isSome (h : NvmShows m v) (hp : v.activePage = some p) : v.activeSeq = some (pageSequence m p) := by
  obtain ⟨_, h2, h3, _⟩ := h
  rw [scanned_activePage, hp] at h2
  rw [← h3, scanned_activeSeq, h2]; rfl

theorem newRecord_count {rows : List GovRow} (h : ∀ g ∈ rows, g.record.count ≤ 65535) (a : Accepted) : (newRecord rows a).count ≤ 65535 := by
  unfold newRecord; dsimp only; split
  · rename_i g hg
    have := h g (List.mem_of_find?_eq_some hg)
    unfold satInc; split <;> omega
  · omega

theorem formSteps_zero (x : PageId) (recs) : formSteps x 0 recs = (recs.mapIdx fun n y => programSteps (recordAddress x n) (recordBytes y)).flatten := by
  unfold formSteps; simp only [Nat.zero_add]

theorem ne_marker {x : PageId} {rows : List VersionRecord} {q : Word32} {E : List NvmStep} (hE : ∀ st ∈ E, ∃ u, st = .erase u) :
    ∀ st ∈ E ++ (formSteps x 0 rows ++ programSteps (NvmUnit.page x).base (beBytes 4 q.toNat)), st ≠ .program (completeMarkerAddress x) 0x3C#8 := by
  intro st hst e
  have hmk : completeMarkerAddress x = (NvmUnit.page x).base + 4 := rfl
  rcases List.mem_append.mp hst with h | h
  · obtain ⟨u, rfl⟩ := hE st h; cases e
  · rcases List.mem_append.mp h with h | h
    · obtain ⟨a, b, h1, h2, rfl⟩ := mem_formSteps h
      cases e; unfold recordAddress at h1; omega
    · obtain ⟨n, b, hn, rfl⟩ := mem_programSteps h
      rw [beBytes_length] at hn
      injection e with e1 e2; omega

theorem isEmpty_append_cons {α} (l : List α) (y : α) (z : List α) : (l ++ y :: z).isEmpty = false := by cases l <;> rfl

/-- A commit that forms page A (R137). -/
theorem newPageSteps_safe {t : Store} {i : StreamNo} {R : VersionRecord} (hw : m.wf erasedByte = true)
    (h : NvmShows m t.restView)
    (he : ∀ p, t.erasedFlag p = true → unitErased m (.page p) = true) (hR : R.count ≤ 65535) (hp : t.activePage = none) :
    StepsSafe (.newPage i R) (t.turned (.newPage i R)) t.restView m (newPageSteps t R) := by
  have hg : t.governing = [] := h.rows.1 hp
  have e : newPageSteps t R = (if t.erasedA then [] else [.erase (.page .a)]) ++ (formSteps .a 0 (t.governing.map GovRow.record ++ [R]) ++
      programSteps (NvmUnit.page .a).base (beBytes 4 (1#32).toNat)) ++ [.program (completeMarkerAddress .a) 0x3C#8] := by
    unfold newPageSteps; rw [formSteps_zero, hg]; simp
  rw [e]
  refine stepsSafe_form hw h (by simp [hp]) ?_ h.sorted (by rw [hg]; decide) ?_ (by decide) (fun s hs => ?_) (fun st _ l => isEmpty_append_cons _ _ _) rfl
      (fun _ _ _ _ _ => trivial)
  · cases e : t.erasedA
    · right; rfl
    · left; exact ⟨rfl, he .a e⟩
  · rw [hg]; simpa using hR
  · have h3 := h.2.2.1; have h2 := h.2.1
    rw [scanned_activePage] at h2; rw [scanned_activeSeq, h2] at h3
    change t.activeSeq = some s at hs
    simp only [hp, Option.map_none] at h3; rw [hs] at h3; cases h3

/-- A commit that compacts into the other page (R136). -/
theorem compactSteps_safe {t : Store} {i : StreamNo} {R : VersionRecord} {q : Word32} (hw : m.wf erasedByte = true)
    (h : NvmShows m t.restView)
    (he : ∀ p, t.erasedFlag p = true → unitErased m (.page p) = true) (hl : t.governing.length ≤ 16) (hR : R.count ≤ 65535)
    (hp : t.activePage = some x.other)
    (hq : q ≠ 0xFFFFFFFF#32) (hlt : (pageSequence m x.other).toNat < q.toNat) :
    StepsSafe (.compact i R x q) (t.turned (.compact i R x q)) t.restView m (compactSteps t x R q) := by
  have ho : t.activePage ≠ some x := by rw [hp]; cases x <;> simp [PageId.other]
  have e : compactSteps t x R q = (if t.erasedFlag x then [] else [.erase (.page x)]) ++ (formSteps x 0 (t.governing.map GovRow.record ++ [R]) ++
      programSteps (NvmUnit.page x).base (beBytes 4 q.toNat)) ++ .program (completeMarkerAddress x) 0x3C#8 :: [.erase (.page x.other)] := by
    unfold compactSteps; rw [formSteps_zero]; simp only [List.append_assoc]
  have et : t.turned (.compact i R x q) = some { governing := (pageSwitched t x q R).governing, activePage := some x, activeSeq := some q, freeFrom := t.governing.length + 1 } := if_neg ho
  rw [e, et]
  refine stepsSafe_form hw h ho ?_ h.sorted (by show t.governing.length + 1 ≤ 63; omega) ?_ hq (fun s hs => ?_) (fun st hst l => ?_) ?_ ?_
  · cases e : t.erasedFlag x
    · right; rfl
    · left; exact ⟨rfl, he _ e⟩
  · intro y hy
    rcases List.mem_append.mp hy with hy | hy
    · obtain ⟨g, hg, rfl⟩ := List.mem_map.mp hy; exact h.counts g hg
    · rw [List.mem_singleton.mp hy]; exact hR
  · rw [h.seq_isSome hp] at hs; cases hs; exact hlt
  · have := ne_marker (x := x) (q := q) (E := if t.erasedFlag x then [] else [.erase (.page x)]) (by intro st h; split at h <;> simp at h; exact ⟨_, h⟩) st hst
    show (!_ && _) = false
    rw [isEmpty_append_cons]; simpa using this
  · simp [NvmJob.turns]
  · intro m' w hw' hs' hp'
    unfold StepsSafe
    rw [if_neg (by simp [NvmJob.turns])]
    have : ∀ c, (NvmStep.erase (.page x.other)).Leaves m' (.compact i R x q) c → NvmShows c w :=
      fun c hc => hs'.leaves_erase (fun y hy e => by rw [hp'] at hy; cases hy; cases x <;> simp [PageId.other] at e) hc
    exact ⟨this, this _ (done_leaves hw' _), trivial⟩

/-- A commit as it begins (R134 to R137). -/
theorem commitRun_safe {t : Store} {i : StreamNo} {a : Accepted} {r : NvmRun} (hr0 : t.run = none) (hw : m.wf erasedByte = true)
    (h : NvmShows m t.view)
    (he : ∀ p, t.erasedFlag p = true → unitErased m (.page p) = true) (hl : t.governing.length ≤ 16) (hc : commitRun t i a = some r) :
    StepsSafe r.job (t.turned r.job) (Store.view { t with run := some r }) m r.steps ∧ NvmShows m (Store.view { t with run := some r }) := by
  rw [Store.view_other (by rw [hr0]; intro r h; cases h)] at h
  have hcnt : (newRecord t.governing a).count ≤ 65535 := newRecord_count h.counts a
  unfold commitRun at hc
  dsimp only at hc
  generalize newRecord t.governing a = R at *
  split at hc
  · rename_i hp
    injection hc with hc
    have ej : r.job = .newPage i R := by rw [← hc]
    have es : r.steps = newPageSteps t R := by rw [← hc]
    rw [Store.view_other (by intro r' h'; cases h'; rw [ej]; intros; simp), ej, es]
    exact ⟨newPageSteps_safe hw h he hcnt hp, h⟩
  · rename_i p hp
    split at hc
    · rename_i hpos
      injection hc with hc
      have ej : r.job = .append i R p t.appendPos := by rw [← hc]
      have es : r.steps = programSteps (recordAddress p t.appendPos) (recordBytes R) := by rw [← hc]
      rw [Store.view_append (r := r) rfl ej, ej, es]
      have h' : NvmShows m { governing := t.governing, activePage := t.activePage, activeSeq := t.activeSeq, freeFrom := t.appendPos + 1 } :=
        ⟨h.1, h.2.1, h.2.2.1, h.2.2.2.1, fun q n h1 h2 h3 => h.2.2.2.2 q n h1 (by change t.appendPos + 1 ≤ n at h2; show t.appendPos ≤ n; omega) h3⟩
      have hfree : readSlot m p t.appendPos = .free := h.2.2.2.2 p t.appendPos hp le_rfl hpos
      have S := stepsSafe_append (i := i) (r := R) (n := t.appendPos) (p := p) hw h' hp hpos rfl hfree hcnt
      refine ⟨?_, h'⟩
      have et : t.turned (.append i R p t.appendPos) = some { governing := putRow { record := R, page := p, slot := t.appendPos } t.governing, activePage := t.activePage, activeSeq := t.activeSeq, freeFrom := t.appendPos + 1 } := rfl
      rw [et]
      exact S
    · split at hc
      · cases hc
      · rename_i hlast
        injection hc with hc
        have hs := h.seq_isSome hp
        change t.activeSeq = _ at hs
        have hne := h.2.2.2.1
        change t.activeSeq ≠ _ at hne
        rw [hs] at hlast hne
        have n1 : (pageSequence m p).toNat ≠ 0xFFFFFFFF := fun e => hne (by congr 1; exact BitVec.eq_of_toNat_eq e)
        have n2 : (pageSequence m p).toNat ≠ 0xFFFFFFFE := fun e => hlast (by congr 1; exact BitVec.eq_of_toNat_eq e)
        have hlt := (pageSequence m p).isLt
        have q1 : (pageSequence m p + 1#32).toNat = (pageSequence m p).toNat + 1 := by
          rw [BitVec.toNat_add]; simp only [BitVec.toNat_ofNat]; omega
        rw [hs, Option.getD_some] at hc
        generalize hq : pageSequence m p + 1#32 = q at *
        have ej : r.job = .compact i R p.other q := by rw [← hc]
        have es : r.steps = compactSteps t p.other R q := by rw [← hc]
        rw [Store.view_other (by intro r' h'; cases h'; rw [ej]; intros; simp), ej, es]
        have hoo : p.other.other = p := by cases p <;> rfl
        refine ⟨compactSteps_safe hw h he hl hcnt (by rw [hoo]; exact hp) (fun e => ?_) (by rw [hoo]; omega), h⟩
        rw [e] at q1; have : (0xFFFFFFFF#32 : BitVec 32).toNat = 4294967295 := by decide
        omega

/-! ## What the model's steps leave (R126, R138, R139) -/

/-- What a step's byte or unit is left as, before its markers are settled. -/
def Unsettled (m : Memory) (st : NvmStep) (d : Memory) : Prop :=
  d.wf erasedByte = true ∧ match st with
  | .program a _ => ∀ x, x ≠ a → d.read erasedByte x = m.read erasedByte x
  | .erase u => ∀ x, x < u.base ∨ u.base + u.size ≤ x → d.read erasedByte x = m.read erasedByte x

theorem leaves_settled {st : NvmStep} (h : Unsettled m st d) : st.Leaves m job (settleStep m job st d) := by
  obtain ⟨hw, h⟩ := h
  match st with
  | .program a b => exact h
  | .erase .key =>
    refine ⟨fun x hx => ?_, fun p hp => by cases hp⟩
    show (settleKey m d).read erasedByte x = _
    rw [read_settleKey hw, if_neg, h x hx]
    rintro ⟨_, _, rfl⟩
    have e1 : NvmUnit.key.base = 2048 := rfl
    have e2 : NvmUnit.key.size = 64 := rfl
    unfold keyMarkerAddress at hx; omega
  | .erase (.page p) =>
    have hsz : (NvmUnit.page p).size = 1024 := rfl
    have hmk : completeMarkerAddress p = (NvmUnit.page p).base + 4 := rfl
    have R := fun x => read_settlePage (m := m) hw job p x
    refine ⟨fun x hx => ?_, fun p' hp hv => ?_⟩
    · show (settlePage m job p d).read erasedByte x = _
      rw [R x]; rw [hsz] at hx
      have := h x (by rw [hsz]; exact hx)
      repeat' split
      all_goals first | exact this | omega
    · cases hp
      rw [pageValid_iff] at hv
      change (settlePage m job p d).read erasedByte _ = _ at hv
      rw [R] at hv
      by_cases h1 : d.read erasedByte (completeMarkerAddress p) = 0x3C#8
      · rw [if_neg (by simpa using h1)] at hv
        by_cases h2 : m.read erasedByte (completeMarkerAddress p) = 0x3C#8 ∧ job.forms ≠ some p
        · refine ⟨pageValid_iff.mpr h2.1, h2.2, pageSequence_congr fun b hb => ?_⟩
          show (settlePage m job p d).read erasedByte _ = _
          rw [R, if_neg (by simpa using h1), if_pos h2, if_pos (by omega)]
        · rw [if_neg h2, if_pos rfl] at hv; exact absurd hv (by decide)
      · rw [if_pos h1] at hv; exact absurd hv h1

theorem wf_settled {st : NvmStep} (h : Unsettled m st d) : (settleStep m job st d).wf erasedByte = true := wf_settleStep h.1 job st

theorem leaves_traced {st : NvmStep} (hw : c.wf erasedByte = true) (h : st.Leaves m job c) : st.Leaves m job (leaveTrace job st c) := by
  match st with
  | .program a b =>
    intro x hx
    rw [read_leaveTrace hw, if_neg (fun h' => hx h'.2.2)]; exact h x hx
  | .erase u =>
    have hne : u.base + u.size - 1 < u.base + u.size := by
      have : 0 < u.size := by cases u <;> simp [NvmUnit.size, pageSize, keyAreaSize]
      omega
    refine ⟨fun x hx => ?_, fun p hp hv => ?_⟩
    · rw [read_leaveTrace hw, if_neg, h.1 x hx]
      rintro ⟨_, _, rfl⟩
      have : 0 < u.size := by cases u <;> simp [NvmUnit.size, pageSize, keyAreaSize]
      change u.base + u.size - 1 < _ ∨ _ ≤ u.base + u.size - 1 at hx; omega
    · subst hp
      have hsz : (NvmUnit.page p).size = 1024 := rfl
      have hl : (NvmStep.erase (.page p)).lastAddress = (NvmUnit.page p).base + 1023 := rfl
      have low : ∀ y, y < (NvmUnit.page p).base + 1023 → (leaveTrace job (.erase (.page p)) c).read erasedByte y = c.read erasedByte y := fun y hy => by
        rw [read_leaveTrace hw, if_neg]; rintro ⟨_, _, e⟩; rw [hl] at e; omega
      have e1 : pageValid (leaveTrace job (.erase (.page p)) c) p = pageValid c p := pageValid_congr (low _ (by unfold completeMarkerAddress; omega))
      have e2 : pageSequence (leaveTrace job (.erase (.page p)) c) p = pageSequence c p := pageSequence_congr fun b hb => low _ (by omega)
      rw [e2]; exact h.2 p rfl (e1 ▸ hv)

theorem unsettled_unknown (hw : m.wf erasedByte = true) (n : Nat) (st : NvmStep) : Unsettled m st (unknownStep m n st) := by
  refine ⟨wf_unknownStep hw n st, ?_⟩
  match st with
  | .program a b => intro x hx; rw [read_unknownProgram hw, if_neg hx]
  | .erase u => intro x hx; rw [read_unknownErase hw, if_neg (by omega)]

/-- What a reset leaves of a step is what a step may leave (R126, R139). -/
theorem leaves_cutStep (hw : m.wf erasedByte = true) (n : Nat) (st : NvmStep) : st.Leaves m job (cutStep m n job st) :=
  leaves_traced (wf_settled (unsettled_unknown hw n st)) (leaves_settled (unsettled_unknown hw n st))

theorem unsettled_result {st : NvmStep} {rb ok} (hw : m.wf erasedByte = true) (h : stepResult m st rb = some (d, ok)) : Unsettled m st d := by
  refine ⟨wf_stepResult h hw, ?_⟩
  unfold stepResult at h
  split at h
  · cases h; intro x hx; rw [Memory.read_write hw, if_neg hx]
  · split at h
    · cases h; intro x hx; rw [Memory.read_write hw, if_neg hx]
    · cases h
  · cases h; intro x hx; rw [Memory.read_clear hw, if_neg (by omega)]
  · split at h
    · rename_i hl
      cases h; intro x hx; rw [Memory.read_writeAll (Memory.wf_clear hw _ _), dif_neg (by rw [hl]; omega), Memory.read_clear hw, if_neg (by omega)]
    · cases h

theorem write_default {d : Byte} {m : Memory} {a : Nat} (h : ∀ c ∈ m, c.1 ≠ a) : m.write d a d = m := by
  induction m with
  | nil => simp [Memory.write]
  | cons x m ih =>
    obtain ⟨k, w⟩ := x
    have h1 := h (k, w) (by simp)
    simp only [Memory.write, if_true]
    split
    · rfl
    · rw [if_neg (fun e => h1 e.symm), ih fun c hc => h c (by simp [hc])]

theorem writeAll_default {d : Byte} {m : Memory} {a : Nat} {bs : List Byte} (hb : ∀ b ∈ bs, b = d) (h : ∀ c ∈ m, c.1 < a ∨ a + bs.length ≤ c.1) :
    m.writeAll d a bs = m := by
  induction bs generalizing a with
  | nil => rfl
  | cons b bs ih =>
    simp only [List.length_cons] at h
    rw [Memory.writeAll, hb b (by simp), write_default fun c hc => by have := h c hc; omega]
    exact ih (fun b h => hb b (by simp [h])) fun c hc => by have := h c hc; omega

/-- A step that succeeded leaves what it means (R126). -/
theorem result_done {st : NvmStep} {rb} (h : stepResult m st rb = some (d, true)) : d = st.done m := by
  unfold stepResult at h
  split at h
  · cases h; rfl
  · split at h
    · injection h with h; injection h with h1 h2
      rw [← h1, beq_iff_eq.mp h2]; rfl
    · cases h
  · cases h; rfl
  · rename_i u bs
    split at h
    · rename_i hl
      injection h with h; injection h with h1 h2
      rw [← h1]
      refine writeAll_default (fun b hb => by simpa using List.all_eq_true.mp h2 b hb) fun c hc => ?_
      have := (List.mem_filter.mp hc).2
      rw [hl]
      simp only [Bool.not_eq_true', Bool.and_eq_false_iff, decide_eq_false_iff_not] at this
      omega
    · cases h

/-- A step that failed leaves what a step may leave, when what a scan's scrub reads back is sound, and not what it means (R126, R131, R138). -/
theorem leaves_failed {st : NvmStep} {rb} (hw : m.wf erasedByte = true) (h : stepResult m st rb = some (d, false))
    (hs : job.isScan = true → ∀ p, st = .erase (.page p) → pageValid d p = true → pageValid m p = true ∧ pageSequence d p = pageSequence m p) :
    st.Leaves m job (stepLeaves m job st d false) ∧ (stepLeaves m job st d false).wf erasedByte = true ∧
      ¬ st.ReadsAsMeant (stepLeaves m job st d false) := by
  have hu := unsettled_result hw h
  have hm : ¬ st.ReadsAsMeant d := by
    rintro ⟨a, b, rfl, hm⟩
    match rb with
    | .asMeant => cases h
    | .reads [] => cases h
    | .reads (_ :: _ :: _) => cases h
    | .reads [e] =>
      injection h with h; injection h with h1 h2
      subst h1
      change Memory.read erasedByte (m.write erasedByte a e) a = b at hm
      rw [Memory.read_write hw, if_pos rfl] at hm
      subst hm; simp at h2
  by_cases hj : job.isScan = true
  · have e : stepLeaves m job st d false = d := by unfold stepLeaves; rw [hj]; rfl
    rw [e]
    refine ⟨?_, hu.1, hm⟩
    match st with
    | .program a b => exact hu.2
    | .erase u =>
      refine ⟨hu.2, fun p hp hv => ?_⟩
      obtain ⟨k1, k2⟩ := hs hj p (by rw [hp]) hv
      refine ⟨k1, ?_, k2⟩
      cases job <;> first | (cases hj; done) | exact fun h => by cases h
  · have e : stepLeaves m job st d false = settleStep m job st d := by
      unfold stepLeaves; rw [if_neg (by simpa using hj)]
    rw [e]
    refine ⟨leaves_settled hu, wf_settled hu, ?_⟩
    rintro ⟨a, b, rfl, h'⟩
    exact hm ⟨a, b, rfl, h'⟩

end Sys2Proof.Machine
end

