-- ==== Sys2Proof/Laws/Release.lean ====
section
/-! SUPPORT. The laws of slots, windows, jobs and releases as ONE inductive invariant, `Flow`: each elementary update of the state with the
conditions under which it keeps them, and what stopping a stream keeps of them. -/

namespace Sys2Proof.Machine

-- One proof at a time: elaborated all at once, the proofs of the package as one text ask for more threads than memory allows.
set_option Elab.async false

variable {b : StreamNo → Nat} {x : Option SlotNo} {s t u : State}

/-- A frame not yet answered occupies a transmit position. -/
def Sends (s : State) (f : TxPosition) : Prop := (∃ p : Port, s.ports[p].position = some f) ∧ f.answered = false
/-- A slot held for `h` has work in flight (R85): its job is in the FIFO, or a frame of its block is in transmission. -/
def HasWork (s : State) (k : SlotNo) (h : Holder) : Prop :=
  .block k ∈ s.engine.fifo ∨ ∃ f, Sends s f ∧ f.stream = h.stream ∧ f.block = h.block

/-- A descriptor whose window takes in block `c` (R31). -/
def WindowTakes (y : Stream) (c : Nat) : Prop :=
  y.state.started = true ∧ y.lowEdge ≤ c ∧ c < y.lowEdge + y.window ∧ c < y.blockCount
/-- Slot `k` is held for block `c` of stream `i`. -/
def Held (s : State) (k : SlotNo) (i : StreamNo) (c : Nat) : Prop := ∃ h, s.slots[k].holder = some h ∧ h.stream = i ∧ h.block = c
/-- What the stage of a descriptor `y` of stream `i` says, as `StageLaw` has it. -/
def StageOk (s : State) (i : StreamNo) (y : Stream) : Prop :=
  ∀ g, y.state = .active → y.stage = some g → g.block = y.lowEdge ∧ ∃ k, Held s k i y.lowEdge ∧ s.slots[k].state.inRelease = true
/-- What a frame in transmission says of its stream's descriptor `y`, as `TransmissionLaw` has it. -/
def FrameOk (s : State) (y : Stream) (f : TxPosition) : Prop :=
  y.state.started = true ∧ (∀ k, Held s k f.stream f.block → s.slots[k].state.inRelease = true) ∧
    (y.state = .active → f.block < y.lowEdge ∨ (f.block = y.lowEdge ∧ ∃ k, Held s k f.stream f.block))

/-- `ReleaseLaws` as one invariant, with a floor `b` on every low edge while its stream exists, and with one slot `x` excused from having work in
flight (the slot whose job or frame has just ended). -/
structure Flow (b : StreamNo → Nat) (x : Option SlotNo) (s : State) : Prop where
  free : ∀ k : SlotNo, s.slots[k].HeldUnlessFree
  uniq : ∀ (k q : SlotNo) i c, Held s k i c → Held s q i c → k = q
  nodup : s.engine.fifo.Nodup
  macs : ∀ i j, .mac i ∈ s.engine.fifo → .mac j ∈ s.engine.fifo → i = j
  jobs : ∀ k, .block k ∈ s.engine.fifo → s.slots[k].state = .complete ∨ s.slots[k].state = .hashing
  man : ∀ (i : StreamNo) m, s.streams[i].manifest = some m → m.segmentCount ≤ m.blockCount * m.perBlock
  idle : ∀ i : StreamNo, s.streams[i].state.started = false → s.streams[i].lowEdge = 0 ∧ s.streams[i].stage = none
  low : ∀ i : StreamNo, s.streams[i].lowEdge ≤ s.streams[i].blockCount
  base : ∀ i : StreamNo, s.streams[i].state = .vacant ∨ b i ≤ s.streams[i].lowEdge
  win : ∀ (k : SlotNo) h, s.slots[k].holder = some h → WindowTakes s.streams[h.stream] h.block
  busy : ∀ (k : SlotNo) h, x ≠ some k → s.slots[k].holder = some h → s.streams[h.stream].state.stopped = true → HasWork s k h
  stage : ∀ i : StreamNo, StageOk s i s.streams[i]
  resend : ∀ i : StreamNo, s.contexts[i].resendHeld = true → s.streams[i].state = .active ∧ s.streams[i].stage.isSome = true
  start : ∀ i : StreamNo, s.contexts[i].startHeld = true → s.streams[i].state = .ending
  frames : ∀ f, Sends s f → FrameOk s s.streams[f.stream] f

/-- A descriptor read after an update. -/
theorem streams_set (s : State) (i : StreamNo) (y) (j : StreamNo) : (s.setStream i y).streams[j] = if j = i then y else s.streams[j] := by
  simp only [State.setStream_streams, Fin.getElem_fin, Vector.getElem_set, Fin.ext_iff, eq_comm]
/-- A slot read after an update. -/
theorem slots_set (s : State) (i : SlotNo) (y) (j : SlotNo) : (s.setSlot i y).slots[j] = if j = i then y else s.slots[j] := by
  simp only [State.setSlot_slots, Fin.getElem_fin, Vector.getElem_set, Fin.ext_iff, eq_comm]
/-- A release context read after an update. -/
theorem contexts_set (s : State) (i : StreamNo) (y) (j : StreamNo) : (s.setCtx i y).contexts[j] = if j = i then y else s.contexts[j] := by
  simp only [State.setCtx_contexts, Fin.getElem_fin, Vector.getElem_set, Fin.ext_iff, eq_comm]
/-- A branch port read after an update. -/
theorem ports_set (s : State) (i : Port) (y) (j : Port) : (s.setPort i y).ports[j] = if j = i then y else s.ports[j] := by
  simp only [State.setPort_ports, Fin.getElem_fin, Vector.getElem_set, Fin.ext_iff, eq_comm]

/-! ## Congruence -/

/-- Two states that read the same as far as `Flow` goes. -/
structure SameFlow (s t : State) : Prop where
  streams : ∀ i : StreamNo, t.streams[i].state = s.streams[i].state ∧ t.streams[i].manifest = s.streams[i].manifest ∧
    t.streams[i].window = s.streams[i].window ∧ t.streams[i].lowEdge = s.streams[i].lowEdge ∧ t.streams[i].stage = s.streams[i].stage
  slots : ∀ k : SlotNo, t.slots[k].state = s.slots[k].state ∧ t.slots[k].holder = s.slots[k].holder
  ctx : ∀ i : StreamNo, t.contexts[i].resendHeld = s.contexts[i].resendHeld ∧ t.contexts[i].startHeld = s.contexts[i].startHeld
  fifo : t.engine.fifo = s.engine.fifo
  ports : ∀ p : Port, t.ports[p].position = s.ports[p].position

theorem SameFlow.sends (h : SameFlow s t) (f) : Sends t f ↔ Sends s f := by
  unfold Sends; simp only [h.ports]
theorem SameFlow.held (h : SameFlow s t) (k i c) : Held t k i c ↔ Held s k i c := by
  unfold Held; simp only [(h.slots k).2]
theorem SameFlow.inWin (h : SameFlow s t) (i : StreamNo) (c) : WindowTakes t.streams[i] c ↔ WindowTakes s.streams[i] c := by
  obtain ⟨h1, h2, h3, h4, h5⟩ := h.streams i
  unfold WindowTakes Stream.blockCount; rw [h1, h2, h3, h4]
theorem SameFlow.flow (h : SameFlow s t) (f : Flow b x s) : Flow b x t where
  free k := by have := f.free k; unfold Slot.HeldUnlessFree at *; rw [(h.slots k).1, (h.slots k).2]; exact this
  uniq k q i c h1 h2 := f.uniq k q i c ((h.held ..).mp h1) ((h.held ..).mp h2)
  nodup := h.fifo ▸ f.nodup
  macs i j := by rw [h.fifo]; exact f.macs i j
  jobs k := by rw [h.fifo, (h.slots k).1]; exact f.jobs k
  man i m := by rw [(h.streams i).2.1]; exact f.man i m
  idle i := by obtain ⟨h1, h2, h3, h4, h5⟩ := h.streams i; rw [h1, h4, h5]; exact f.idle i
  low i := by obtain ⟨h1, h2, h3, h4, h5⟩ := h.streams i; unfold Stream.blockCount; rw [h2, h4]; exact f.low i
  base i := by obtain ⟨h1, h2, h3, h4, h5⟩ := h.streams i; rw [h1, h4]; exact f.base i
  win k g hg := (h.inWin _ _).mpr (f.win k g ((h.slots k).2 ▸ hg))
  busy k g hx hg hs := by
    have := f.busy k g hx ((h.slots k).2 ▸ hg) ((h.streams _).1 ▸ hs)
    unfold HasWork at *; rw [h.fifo]; simpa only [h.sends] using this
  stage i := by
    obtain ⟨h1, h2, h3, h4, h5⟩ := h.streams i
    have := f.stage i; unfold StageOk at *; rw [h1, h4, h5]
    simpa only [h.held, (h.slots _).1] using this
  resend i := by rw [(h.ctx i).1, (h.streams i).1, (h.streams i).2.2.2.2]; exact f.resend i
  start i := by rw [(h.ctx i).2, (h.streams i).1]; exact f.start i
  frames g hg := by
    obtain ⟨h1, h2, h3, h4, h5⟩ := h.streams g.stream
    have := f.frames g ((h.sends g).mp hg); unfold FrameOk at *
    rw [h1, h4]; simpa only [h.held, (h.slots _).1] using this

/-- An operation that leaves streams, slots, contexts, engine and ports alone keeps `Flow`. -/
theorem Flow.of_touches {ps : List Part} (f : Flow b x s) (h : Touches ps s t)
    (hp : ∀ p ∈ ps, p ∉ [Part.streams, .slots, .contexts, .engine, .ports] := by decide) : Flow b x t := by
  have g (p : Part) (hm : p ∈ [Part.streams, .slots, .contexts, .engine, .ports]) : p.Same s t := h p fun hn => hp p hn hm
  have e1 : t.streams = s.streams := g .streams (by decide)
  have e2 : t.slots = s.slots := g .slots (by decide)
  have e3 : t.contexts = s.contexts := g .contexts (by decide)
  have e4 : t.engine = s.engine := g .engine (by decide)
  have e5 : t.ports = s.ports := g .ports (by decide)
  exact SameFlow.flow (s := s) ⟨by simp [e1], by simp [e2], by simp [e3], by rw [e4], by simp [e5]⟩ f

/-! ## Updates -/

/-- A descriptor is replaced by one that meets every condition. -/
theorem Flow.setStream {i : StreamNo} {y : Stream} (f : Flow b x s)
    (man : ∀ m, y.manifest = some m → m.segmentCount ≤ m.blockCount * m.perBlock)
    (idle : y.state.started = false → y.lowEdge = 0 ∧ y.stage = none) (low : y.lowEdge ≤ y.blockCount)
    (base : y.state = .vacant ∨ b i ≤ y.lowEdge) (win : ∀ k c, Held s k i c → WindowTakes y c)
    (busy : ∀ k h, x ≠ some k → s.slots[k].holder = some h → h.stream = i → y.state.stopped = true → HasWork s k h)
    (stage : StageOk s i y)
    (resend : s.contexts[i].resendHeld = true → y.state = .active ∧ y.stage.isSome = true)
    (start : s.contexts[i].startHeld = true → y.state = .ending)
    (frames : ∀ g, Sends s g → g.stream = i → FrameOk s y g) : Flow b x (s.setStream i y) where
  free := f.free
  uniq := f.uniq
  nodup := f.nodup
  macs := f.macs
  jobs := f.jobs
  man j m := by rw [streams_set]; split; exacts [man m, f.man j m]
  idle j := by rw [streams_set]; split; exacts [idle, f.idle j]
  low j := by rw [streams_set]; split; exacts [low, f.low j]
  base j := by rw [streams_set]; split; rename_i e; subst e; exacts [base, f.base j]
  win k h hh := by
    rw [streams_set]; split
    · rename_i e; exact win k _ ⟨h, hh, e, rfl⟩
    · exact f.win k h hh
  busy k h hx hh := by
    rw [streams_set]; split
    · rename_i e; exact busy k h hx hh e
    · exact f.busy k h hx hh
  stage j := by
    rw [streams_set]; split
    · rename_i e; subst e; exact stage
    · exact f.stage j
  resend j := by
    rw [streams_set]; split
    · rename_i e; subst e; exact resend
    · exact f.resend j
  start j := by
    rw [streams_set]; split
    · rename_i e; subst e; exact start
    · exact f.start j
  frames g hg := by
    rw [streams_set]; split
    · rename_i e; exact frames g hg e
    · exact f.frames g hg

/-- The descriptor's view kept. -/
theorem Flow.setStreamSame {i : StreamNo} {y : Stream} (f : Flow b x s) (h1 : y.state = s.streams[i].state := by rfl)
    (h2 : y.manifest = s.streams[i].manifest := by rfl) (h3 : y.window = s.streams[i].window := by rfl)
    (h4 : y.lowEdge = s.streams[i].lowEdge := by rfl) (h5 : y.stage = s.streams[i].stage := by rfl) : Flow b x (s.setStream i y) := by
  refine SameFlow.flow (s := s) ⟨fun j => ?_, fun k => ⟨rfl, rfl⟩, fun k => ⟨rfl, rfl⟩, rfl, fun p => rfl⟩ f
  rw [streams_set]; split
  · rename_i e; subst e; exact ⟨h1, h2, h3, h4, h5⟩
  · exact ⟨rfl, rfl, rfl, rfl, rfl⟩

/-- A stream that goes on to a state that is neither ACTIVE nor stopped. -/
theorem Flow.setStreamOn {i : StreamNo} {y : Stream} (f : Flow b x s) (hs : s.streams[i].state.started = true) (hy : y.state.started = true)
    (ha : y.state ≠ .active) (hp : y.state.stopped = false)
    (h2 : y.manifest = s.streams[i].manifest := by rfl) (h3 : y.window = s.streams[i].window := by rfl)
    (h4 : y.lowEdge = s.streams[i].lowEdge := by rfl)
    (hr : s.contexts[i].resendHeld = false) (hst : s.contexts[i].startHeld = true → y.state = .ending) : Flow b x (s.setStream i y) := by
  refine f.setStream ?_ ?_ ?_ ?_ ?_ ?_ ?_ ?_ hst ?_
  · rw [h2]; exact f.man i
  · rw [hy]; intro h; cases h
  · unfold Stream.blockCount; rw [h2, h4]; exact f.low i
  · rw [h4]; rcases f.base i with h | h
    · rw [h] at hs; cases hs
    · exact .inr h
  · rintro k c ⟨h, hh, rfl, rfl⟩
    obtain ⟨a1, a2, a3, a4⟩ := f.win k h hh
    unfold WindowTakes Stream.blockCount; rw [h2, h3, h4]; exact ⟨hy, a2, a3, a4⟩
  · intro k h _ _ _ hq; rw [hp] at hq; cases hq
  · intro g hq; exact absurd hq ha
  · rw [hr]; intro h; cases h
  · rintro g hg rfl
    exact ⟨hy, (f.frames g hg).2.1, fun hq => absurd hq ha⟩

/-- A slot keeps its state and holder. -/
theorem Flow.setSlotSame {k : SlotNo} {y : Slot} (f : Flow b x s) (h1 : y.state = s.slots[k].state := by rfl)
    (h2 : y.holder = s.slots[k].holder := by rfl) : Flow b x (s.setSlot k y) := by
  refine SameFlow.flow (s := s) ⟨fun j => ⟨rfl, rfl, rfl, rfl, rfl⟩, fun q => ?_, fun k => ⟨rfl, rfl⟩, rfl, fun p => rfl⟩ f
  rw [slots_set]; split
  · rename_i e; subst e; exact ⟨h1, h2⟩
  · exact ⟨rfl, rfl⟩

/-- A held slot's turn to another state. -/
theorem Flow.setSlotTurn {k : SlotNo} {y : Slot} (f : Flow b x s) (hh : y.holder = s.slots[k].holder := by rfl)
    (hf : y.HeldUnlessFree) (hr : s.slots[k].state.inRelease = true → y.state.inRelease = true)
    (hj : .block k ∈ s.engine.fifo → y.state = .complete ∨ y.state = .hashing) : Flow b x (s.setSlot k y) := by
  have hld : ∀ q i c, Held (s.setSlot k y) q i c ↔ Held s q i c := by
    intro q i c; unfold Held; rw [slots_set]; split
    · rename_i e; subst e; rw [hh]
    · rfl
  have hrel : ∀ q : SlotNo, s.slots[q].state.inRelease = true → (s.setSlot k y).slots[q].state.inRelease = true := by
    intro q; rw [slots_set]; split
    · rename_i e; subst e; exact hr
    · exact id
  have hhd : ∀ q : SlotNo, (s.setSlot k y).slots[q].holder = s.slots[q].holder := by
    intro q; rw [slots_set]; split
    · rename_i e; subst e; exact hh
    · rfl
  exact {
    free := fun q => by rw [slots_set]; split; exacts [hf, f.free q]
    uniq := fun p q i c h1 h2 => f.uniq p q i c ((hld ..).mp h1) ((hld ..).mp h2)
    nodup := f.nodup, macs := f.macs
    jobs := fun q hq => by
      rw [slots_set]; split
      · rename_i e; subst e; exact hj hq
      · exact f.jobs q hq
    man := f.man, idle := f.idle, low := f.low, base := f.base
    win := fun q h hq => f.win q h (hhd q ▸ hq)
    busy := fun q h hx hq hs => f.busy q h hx (hhd q ▸ hq) hs
    stage := fun i g ha hg => by
      obtain ⟨h1, q, h2, h3⟩ := f.stage i g ha hg
      exact ⟨h1, q, (hld ..).mpr h2, hrel q h3⟩
    resend := f.resend, start := f.start
    frames := fun g hg => by
      obtain ⟨h1, h2, h3⟩ := f.frames g hg
      refine ⟨h1, fun q hq => hrel q (h2 q ((hld ..).mp hq)), fun ha => ?_⟩
      rcases h3 ha with h | ⟨h, q, hq⟩
      · exact .inl h
      · exact .inr ⟨h, q, (hld ..).mpr hq⟩ }

/-- A release context is replaced. -/
theorem Flow.setCtx {i : StreamNo} {c : ReleaseCtx} (f : Flow b x s)
    (resend : c.resendHeld = true → s.streams[i].state = .active ∧ s.streams[i].stage.isSome = true)
    (start : c.startHeld = true → s.streams[i].state = .ending) : Flow b x (s.setCtx i c) :=
  { f with
    resend := fun j => by
      rw [contexts_set]; split
      · rename_i e; subst e; exact resend
      · exact f.resend j
    start := fun j => by
      rw [contexts_set]; split
      · rename_i e; subst e; exact start
      · exact f.start j }

/-- Flags at most dropped. -/
theorem Flow.setCtxLess {i : StreamNo} {c : ReleaseCtx} (f : Flow b x s)
    (resend : c.resendHeld = true → s.contexts[i].resendHeld = true := by simp)
    (start : c.startHeld = true → s.contexts[i].startHeld = true := by simp) : Flow b x (s.setCtx i c) :=
  f.setCtx (fun h => f.resend i (resend h)) (fun h => f.start i (start h))

theorem sends_setPort {p : Port} {y : BranchPort} {g} (h : Sends (s.setPort p y) g) :
    (y.position = some g ∧ g.answered = false) ∨ ∃ q : Port, q ≠ p ∧ s.ports[q].position = some g ∧ g.answered = false := by
  obtain ⟨⟨q, hq⟩, ha⟩ := h
  rw [ports_set] at hq; split at hq
  · exact .inl ⟨hq, ha⟩
  · rename_i e; exact .inr ⟨q, e, hq, ha⟩

/-- An empty position is filled. -/
theorem Flow.fillPort {p : Port} {y : BranchPort} {g : TxPosition} (f : Flow b x s) (he : s.ports[p].position = none)
    (hy : y.position = some g) (_ : g.answered = false) (hf : FrameOk s s.streams[g.stream] g) : Flow b x (s.setPort p y) :=
  { f with
    busy := fun k h hx hh hs => by
      rcases f.busy k h hx hh hs with h1 | ⟨e, ⟨⟨q, hq⟩, he2⟩, h3⟩
      · exact .inl h1
      · refine .inr ⟨e, ⟨⟨q, ?_⟩, he2⟩, h3⟩
        rw [ports_set, if_neg]; exact hq
        rintro rfl; rw [he] at hq; cases hq
    frames := fun e he' => by
      rcases sends_setPort he' with ⟨h1, h2⟩ | ⟨q, h1, h2, h3⟩
      · rw [hy] at h1; cases h1; exact hf
      · exact f.frames e ⟨⟨q, h2⟩, h3⟩ }

/-- A position's frame is emptied or answered: the slots it kept busy are given. -/
theorem Flow.lessPort {p : Port} {y : BranchPort} (f : Flow b none s) (hy : ∀ g, y.position = some g → g.answered = false → s.ports[p].position = some g)
    (hk : ∀ (k : SlotNo) h, x ≠ some k → s.slots[k].holder = some h → s.streams[h.stream].state.stopped = true → HasWork (s.setPort p y) k h) :
    Flow b x (s.setPort p y) :=
  { f with
    busy := hk
    frames := fun e he' => by
      rcases sends_setPort he' with ⟨h1, h2⟩ | ⟨q, h1, h2, h3⟩
      · exact f.frames e ⟨⟨p, hy e h1 h2⟩, h2⟩
      · exact f.frames e ⟨⟨q, h2⟩, h3⟩ }

/-- A slot of a stream that is not ACTIVE is freed once its job has left. -/
theorem Flow.free_setSlot {k : SlotNo} (f : Flow b x s) (hj : .block k ∉ s.engine.fifo) (hx : x = none ∨ x = some k)
    (ha : ∀ h, s.slots[k].holder = some h → s.streams[h.stream].state ≠ .active) : Flow b none (s.setSlot k Slot.free) := by
  have hld : ∀ q i c, Held (s.setSlot k Slot.free) q i c ↔ q ≠ k ∧ Held s q i c := by
    intro q i c; unfold Held; rw [slots_set]; split
    · rename_i e; subst e; simp [Slot.free]
    · rename_i e; simp [e]
  have hhd : ∀ (q : SlotNo) h, (s.setSlot k Slot.free).slots[q].holder = some h → q ≠ k ∧ s.slots[q].holder = some h := by
    intro q h; rw [slots_set]; split
    · rename_i e; subst e; simp [Slot.free]
    · rename_i e; simp [e]
  have hst : ∀ q : SlotNo, q ≠ k → (s.setSlot k Slot.free).slots[q] = s.slots[q] := by
    intro q hq; rw [slots_set, if_neg hq]
  have keep : ∀ i c (q : SlotNo), s.streams[i].state = .active → Held s q i c → q ≠ k := by
    rintro i c q hi ⟨h, hh, rfl, rfl⟩ rfl; exact ha h hh hi
  exact {
    free := fun q => by rw [slots_set]; split; exacts [Slot.free_heldUnlessFree, f.free q]
    uniq := fun p q i c h1 h2 => f.uniq p q i c ((hld ..).mp h1).2 ((hld ..).mp h2).2
    nodup := f.nodup, macs := f.macs
    jobs := fun q hq => by
      rw [hst q (by rintro rfl; exact hj hq)]; exact f.jobs q hq
    man := f.man, idle := f.idle, low := f.low, base := f.base
    win := fun q h hq => f.win q h (hhd q h hq).2
    busy := fun q h _ hq hs => f.busy q h (by rcases hx with rfl | rfl <;> simp [(hhd q h hq).1.symm]) (hhd q h hq).2 hs
    stage := fun i g hi hg => by
      obtain ⟨h1, q, h2, h3⟩ := f.stage i g hi hg
      have := keep _ _ q hi h2
      exact ⟨h1, q, (hld ..).mpr ⟨this, h2⟩, by rw [hst q this]; exact h3⟩
    resend := f.resend, start := f.start
    frames := fun g hg => by
      obtain ⟨h1, h2, h3⟩ := f.frames g hg
      refine ⟨h1, fun q hq => ?_, fun hi => ?_⟩
      · obtain ⟨e, hq⟩ := (hld ..).mp hq
        rw [hst q e]; exact h2 q hq
      · rcases h3 hi with h | ⟨h, q, hq⟩
        · exact .inl h
        · exact .inr ⟨h, q, (hld ..).mpr ⟨keep _ _ q hi hq, hq⟩⟩ }

/-- The FIFO changed. -/
theorem Flow.withEngine {e : Engine} (f : Flow b none s) (h1 : e.fifo.Nodup) (h2 : ∀ i j, .mac i ∈ e.fifo → .mac j ∈ e.fifo → i = j)
    (h3 : ∀ k, .block k ∈ e.fifo → s.slots[k].state = .complete ∨ s.slots[k].state = .hashing)
    (h4 : ∀ k, x ≠ some k → .block k ∈ s.engine.fifo → .block k ∈ e.fifo) : Flow b x (s.withEngine e) :=
  { f with
    nodup := h1, macs := h2, jobs := h3
    busy := fun k h hx hh hs => (f.busy k h (by simp) hh hs).imp (h4 k hx) id }

theorem Flow.withEngineSame {e : Engine} (f : Flow b x s) (h : e.fifo = s.engine.fifo := by rfl) : Flow b x (s.withEngine e) :=
  SameFlow.flow (s := s) ⟨fun _ => ⟨rfl, rfl, rfl, rfl, rfl⟩, fun _ => ⟨rfl, rfl⟩, fun _ => ⟨rfl, rfl⟩, h, fun _ => rfl⟩ f

theorem heldBy_eq {y : Slot} {h : Holder} (hh : y.holder = some h) (i) : y.heldBy i = (h.stream == i) := by unfold Slot.heldBy; rw [hh]
theorem holds_eq {y : Slot} {h : Holder} (hh : y.holder = some h) (i c) : y.holds i c = (h.stream == i && h.block == c) := by unfold Slot.holds; rw [hh]
theorem held_of_slotOf {s : State} {i c k} (h : slotOf s i c = some k) : Held s k i c := by
  have := List.find?_some h
  unfold Slot.holds at this; split at this
  · rename_i g hg; simp at this; exact ⟨g, hg, this⟩
  · cases this
theorem not_held_of_slotOf {s : State} {i c} (h : slotOf s i c = none) (k) : ¬ Held s k i c := by
  rintro ⟨g, hg, rfl, rfl⟩
  have := (List.find?_eq_none.mp h) k (List.mem_finRange k)
  rw [holds_eq hg] at this; simp at this
/-- `slotBusy` spelled out. -/
theorem busy_iff {k : SlotNo} {h : Holder} (hh : s.slots[k].holder = some h) : slotBusy s k = true ↔ HasWork s k h := by
  unfold slotBusy HasWork Sends; rw [hh]; simp only [Bool.or_eq_true, List.contains_iff_mem, blockInTransmission_iff]
  refine or_congr Iff.rfl (exists_congr fun f => ?_)
  constructor
  · rintro ⟨⟨a, b, c⟩, d⟩; exact ⟨⟨a, c⟩, b, d⟩
  · rintro ⟨⟨a, c⟩, b, d⟩; exact ⟨⟨a, b, c⟩, d⟩

/-- A slot whose stream is not stopped needs no excuse. -/
theorem Flow.drop {k : SlotNo} (f : Flow b (some k) s) (h : ∀ h, s.slots[k].holder = some h → s.streams[h.stream].state.stopped = false) : Flow b none s :=
  { f with
    busy := fun q g _ hg hs => by
      by_cases e : k = q
      · subst e; rw [h g hg] at hs; cases hs
      · exact f.busy q g (by simpa using e) hg hs }
theorem Flow.weaken (f : Flow b none s) : Flow b x s := { f with busy := fun q g _ hg hs => f.busy q g (by simp) hg hs }

theorem Flow.notActive {i : StreamNo} (f : Flow b x s) (h : s.streams[i].state ≠ .active) : s.contexts[i].resendHeld = false := by
  by_contra hc; exact h (f.resend i (by simpa using hc)).1
theorem Flow.notEnding {i : StreamNo} (f : Flow b x s) (h : s.streams[i].state ≠ .ending) : s.contexts[i].startHeld = false := by
  by_contra hc; exact h (f.start i (by simpa using hc))
theorem Flow.notInFifo {k : SlotNo} (f : Flow b x s) (h1 : s.slots[k].state ≠ .complete) (h2 : s.slots[k].state ≠ .hashing) : Job.block k ∉ s.engine.fifo :=
  fun h => (f.jobs k h).elim h1 h2
theorem inRelease_iff {y : SlotState} : y.inRelease = true ↔ y = .sending ∨ y = .awaiting := by cases y <;> simp [SlotState.inRelease]

/-! ## Records and reservations -/

theorem Flow.queueRecord (f : Flow b x s) (r) : Flow b x (queueRecord r s) := f.of_touches (touches_queueRecord s r)
theorem Flow.queueWindow (f : Flow b x s) (i l w) : Flow b x (queueWindow i l w s) := f.of_touches (touches_queueWindow s i l w)
theorem Flow.countStream (f : Flow b x s) (i k) : Flow b x (countStream i k s) := f.of_touches (touches_countStream s i k)
theorem Flow.countLane (f : Flow b x s) (i k) : Flow b x (countLane i k s) := f.of_touches (touches_countLane s i k)
theorem Flow.returnReservation (f : Flow b x s) (i) : Flow b x (returnReservation i s) := by
  unfold Machine.returnReservation; dsimp only; split
  · exact f.setStreamSame
  · exact f
theorem Flow.stopQuietIfDone (f : Flow b x s) (i) : Flow b x (stopQuietIfDone i s) := by
  unfold Machine.stopQuietIfDone; split
  · exact f
  · exact f.setStreamSame
/-- A slot of a stream that is not ACTIVE is freed once its job has left, and its reservation judged. -/
theorem Flow.freeSlot {k : SlotNo} (f : Flow b x s) (hj : .block k ∉ s.engine.fifo) (hx : x = none ∨ x = some k)
    (ha : ∀ h, s.slots[k].holder = some h → s.streams[h.stream].state ≠ .active) : Flow b none (freeSlot k s) := by
  unfold Machine.freeSlot; split
  · exact (f.free_setSlot hj hx ha).returnReservation _
  · exact f.free_setSlot hj hx ha

/-! ## Stopping a stream -/

/-- A stream is stopped: its slots with no work in flight are freed. -/
theorem Flow.stop {i : StreamNo} (f : Flow b x s) (hx : ∀ k h, x = some k → s.slots[k].holder = some h → h.stream = i)
    (hs : s.streams[i].state.started = true)
    (e1 : t.engine = s.engine) (e2 : t.ports = s.ports) (e3 : ∀ j, j ≠ i → t.streams[j] = s.streams[j])
    (e4 : ∀ j, j ≠ i → t.contexts[j] = s.contexts[j]) (c1 : t.contexts[i].resendHeld = false) (c2 : t.contexts[i].startHeld = false)
    (h1 : t.streams[i].state.stopped = true) (h2 : t.streams[i].manifest = s.streams[i].manifest) (h3 : t.streams[i].window = s.streams[i].window)
    (h4 : t.streams[i].lowEdge = s.streams[i].lowEdge)
    (hk : ∀ k : SlotNo, t.slots[k] = if s.slots[k].heldBy i && !slotBusy s k then Slot.free else s.slots[k]) : Flow b none t := by
  have st : t.streams[i].state.started = true := by cases e : t.streams[i].state <;> simp_all [StreamState.stopped, StreamState.started]
  have na : t.streams[i].state ≠ .active := by intro e; rw [e] at h1; cases h1
  have nv : t.streams[i].state ≠ .vacant := by intro e; rw [e] at h1; cases h1
  have send : ∀ g, Sends t g ↔ Sends s g := fun g => by unfold Sends; rw [e2]
  have hld : ∀ q j c, Held t q j c → Held s q j c ∧ t.slots[q] = s.slots[q] := by
    rintro q j c ⟨h, hh, r⟩
    rw [hk] at hh; split at hh
    · cases hh
    · rename_i e; exact ⟨⟨h, hh, r⟩, by rw [hk, if_neg e]⟩
  have keep : ∀ q j c, j ≠ i → Held s q j c → Held t q j c ∧ t.slots[q] = s.slots[q] := by
    rintro q j c hj ⟨h, hh, rfl, rfl⟩
    have : t.slots[q] = s.slots[q] := by rw [hk, heldBy_eq hh, if_neg]; simp [hj]
    exact ⟨⟨h, by rw [this]; exact hh, rfl, rfl⟩, this⟩
  have hst : ∀ (P : Stream → Prop) (j : StreamNo), P s.streams[j] → (P t.streams[i]) → P t.streams[j] := by
    intro P j h h'; by_cases e : j = i
    · rw [e]; exact h'
    · rw [e3 j e]; exact h
  exact {
    free := fun k => by rw [hk]; split; exacts [Slot.free_heldUnlessFree, f.free k]
    uniq := fun k q j c a d => f.uniq k q j c (hld _ _ _ a).1 (hld _ _ _ d).1
    nodup := e1 ▸ f.nodup
    macs := fun a c => by rw [e1]; exact f.macs a c
    jobs := fun k hq => by
      rw [e1] at hq
      have : slotBusy s k = true := by unfold slotBusy; rw [List.contains_iff_mem.mpr hq]; rfl
      rw [hk, this]; simpa using f.jobs k hq
    man := fun j m hm => by
      by_cases e : j = i
      · subst e; exact f.man j m (h2 ▸ hm)
      · exact f.man j m (e3 j e ▸ hm)
    idle := fun j hj => by
      by_cases e : j = i
      · subst e; rw [st] at hj; cases hj
      · rw [e3 j e] at hj ⊢; exact f.idle j hj
    low := fun j => by
      by_cases e : j = i
      · subst e; unfold Stream.blockCount; rw [h2, h4]; exact f.low j
      · rw [e3 j e]; exact f.low j
    base := fun j => by
      by_cases e : j = i
      · subst e; rw [h4]; rcases f.base j with h | h
        · rw [h] at hs; cases hs
        · exact .inr h
      · rw [e3 j e]; exact f.base j
    win := fun k h hh => by
      obtain ⟨⟨g, hg, hg1, hg2⟩, hq⟩ := hld k h.stream h.block ⟨h, hh, rfl, rfl⟩
      have := f.win k g hg; simp only [hg1, hg2] at this
      by_cases e : h.stream = i
      · simp only [e] at this ⊢
        obtain ⟨a1, a2, a3, a4⟩ := this
        unfold WindowTakes Stream.blockCount; rw [h2, h3, h4]; exact ⟨st, a2, a3, a4⟩
      · rw [e3 _ e]; exact this
    busy := fun k h _ hh hs' => by
      have e : t.slots[k] = s.slots[k] := (hld k h.stream h.block ⟨h, hh, rfl, rfl⟩).2
      have hh' : s.slots[k].holder = some h := by rw [← e]; exact hh
      have : HasWork s k h := by
        by_cases e' : h.stream = i
        · have hq := hk k
          by_contra hb
          have hb' : slotBusy s k = false := by
            cases hc : slotBusy s k
            · rfl
            · exact absurd ((busy_iff hh').mp hc) hb
          rw [heldBy_eq hh', if_pos (by simp [e', hb'])] at hq
          rw [hq] at hh; cases hh
        · refine f.busy k h ?_ hh' (by rw [e3 _ e'] at hs'; exact hs')
          intro hx'; exact e' (hx k h hx' hh')
      unfold HasWork at *; rw [e1]; simpa only [send] using this
    stage := fun j g ha hg => by
      by_cases e : j = i
      · subst e; exact absurd ha na
      · rw [e3 j e] at ha hg ⊢
        obtain ⟨a1, q, a2, a3⟩ := f.stage j g ha hg
        obtain ⟨a4, a5⟩ := keep _ _ _ e a2
        exact ⟨a1, q, a4, by rw [a5]; exact a3⟩
    resend := fun j hj => by
      by_cases e : j = i
      · subst e; rw [c1] at hj; cases hj
      · rw [e4 j e] at hj; rw [e3 j e]; exact f.resend j hj
    start := fun j hj => by
      by_cases e : j = i
      · subst e; rw [c2] at hj; cases hj
      · rw [e4 j e] at hj; rw [e3 j e]; exact f.start j hj
    frames := fun g hg => by
      obtain ⟨a1, a2, a3⟩ := f.frames g ((send g).mp hg)
      have hr : ∀ k, Held t k g.stream g.block → t.slots[k].state.inRelease = true := fun k hq => by
        obtain ⟨a, c⟩ := hld _ _ _ hq; rw [c]; exact a2 k a
      by_cases e : g.stream = i
      · subst e; exact ⟨st, hr, fun ha => absurd ha na⟩
      · rw [e3 _ e]; refine ⟨a1, hr, fun ha => ?_⟩
        rcases a3 ha with h | ⟨h, q, hq⟩
        · exact .inl h
        · exact .inr ⟨h, q, (keep _ _ _ e hq).1⟩ }

theorem timersStopped_same (y : Stream) : y.timersStopped.state = y.state ∧ y.timersStopped.manifest = y.manifest ∧
    y.timersStopped.window = y.window ∧ y.timersStopped.lowEdge = y.lowEdge ∧ y.timersStopped.stage = y.stage := ⟨rfl, rfl, rfl, rfl, rfl⟩

/-- What of stream `i` an operation keeps that drops its holds. -/
structure Dropped (i : StreamNo) (s t : State) : Prop where
  engine : t.engine = s.engine
  ports : t.ports = s.ports
  streams : ∀ j, j ≠ i → t.streams[j] = s.streams[j]
  contexts : ∀ j, j ≠ i → t.contexts[j] = s.contexts[j]
  resend : t.contexts[i].resendHeld = false
  start : t.contexts[i].startHeld = false
  same : t.streams[i].state = s.streams[i].state ∧ t.streams[i].manifest = s.streams[i].manifest ∧
    t.streams[i].window = s.streams[i].window ∧ t.streams[i].lowEdge = s.streams[i].lowEdge

theorem dropped_stopRelease (i : StreamNo) (s : State) : Dropped i s (stopRelease i s) ∧ (stopRelease i s).slots = s.slots := by
  unfold stopRelease; dsimp only; split
  · refine ⟨⟨rfl, rfl, fun j _ => rfl, fun j hj => ?_, ?_, ?_, rfl, rfl, rfl, rfl⟩, rfl⟩
    · rw [contexts_set, if_neg hj]
    · rw [contexts_set, if_pos rfl]
    · rw [contexts_set, if_pos rfl]
  · refine ⟨⟨rfl, rfl, fun j hj => ?_, fun j hj => ?_, ?_, ?_, ?_⟩, rfl⟩
    · rw [streams_set, if_neg hj]; rfl
    · rw [State.setStream_contexts, contexts_set, if_neg hj]
    · rw [State.setStream_contexts, contexts_set, if_pos rfl]
    · rw [State.setStream_contexts, contexts_set, if_pos rfl]
    · rw [streams_set, if_pos rfl]; exact ⟨rfl, rfl, rfl, rfl⟩

theorem freeIdleSlots_get (i : StreamNo) (s : State) (k : SlotNo) :
    (freeIdleSlots i s).slots[k] = if s.slots[k].heldBy i && !slotBusy s k then Slot.free else s.slots[k] := by
  unfold freeIdleSlots; simp only [State.withSlots_slots, Fin.getElem_fin, Vector.getElem_ofFn, Fin.eta]

theorem slotBusy_congr {s t : State} (h1 : t.engine = s.engine) (h2 : t.ports = s.ports) (h3 : t.slots = s.slots) (k) : slotBusy t k = slotBusy s k := by
  unfold slotBusy blockInTransmission; rw [h1, h2, h3]

theorem freeIdleSlots_parts (i : StreamNo) (s : State) : (freeIdleSlots i s).engine = s.engine ∧ (freeIdleSlots i s).ports = s.ports ∧
    (freeIdleSlots i s).streams = s.streams ∧ (freeIdleSlots i s).contexts = s.contexts :=
  ⟨touches_freeIdleSlots s i .engine (by decide), touches_freeIdleSlots s i .ports (by decide),
    touches_freeIdleSlots s i .streams (by decide), touches_freeIdleSlots s i .contexts (by decide)⟩

theorem Dropped.of_same {i : StreamNo} {s t u : State} (d : Dropped i s t) (h1 : u.engine = t.engine) (h2 : u.ports = t.ports)
    (h3 : u.streams = t.streams) (h4 : u.contexts = t.contexts) : Dropped i s u := by
  refine ⟨h1.trans d.engine, h2.trans d.ports, ?_, ?_, ?_, ?_, ?_⟩
  · rw [h3]; exact d.streams
  · rw [h4]; exact d.contexts
  · rw [h4]; exact d.resend
  · rw [h4]; exact d.start
  · rw [h3]; exact d.same

/-- What stopping a stream leaves of it. -/
theorem stopStream_parts (i : StreamNo) (s : State) : Dropped i s (stopStream i s) ∧
    ∀ k : SlotNo, (stopStream i s).slots[k] = if s.slots[k].heldBy i && !slotBusy s k then Slot.free else s.slots[k] := by
  have hv : ∃ v, stopStream i s = freeIdleSlots i (stopRelease i v) ∧ v = s.setStream i s.streams[i].timersStopped := ⟨_, rfl, rfl⟩
  obtain ⟨v, hs, hv⟩ := hv
  obtain ⟨d, e⟩ := dropped_stopRelease i v
  have w1 : v.engine = s.engine := by rw [hv]; rfl
  have w2 : v.ports = s.ports := by rw [hv]; rfl
  have w3 : v.slots = s.slots := by rw [hv]; rfl
  have w4 : ∀ j, j ≠ i → v.streams[j] = s.streams[j] := fun j hj => by rw [hv, streams_set, if_neg hj]
  have w5 : v.contexts = s.contexts := by rw [hv]; rfl
  have w6 : v.streams[i] = s.streams[i].timersStopped := by rw [hv, streams_set, if_pos rfl]
  clear hv
  obtain ⟨y1, y2, y3, y4, _⟩ := timersStopped_same s.streams[i]
  rw [hs]
  generalize stopRelease i v = w at *
  have d' : Dropped i s w := by
    refine ⟨d.engine.trans w1, d.ports.trans w2, fun j hj => (d.streams j hj).trans (w4 j hj), fun j hj => (d.contexts j hj).trans (by rw [w5]), d.resend, d.start, ?_⟩
    obtain ⟨z1, z2, z3, z4⟩ := d.same
    rw [w6] at z1 z2 z3 z4
    exact ⟨z1.trans y1, z2.trans y2, z3.trans y3, z4.trans y4⟩
  obtain ⟨p1, p2, p3, p4⟩ := freeIdleSlots_parts i w
  refine ⟨d'.of_same p1 p2 p3 p4, fun k => ?_⟩
  rw [freeIdleSlots_get, slotBusy_congr d'.engine d'.ports (e.trans w3), e, w3]

/-- A stream is stopped and enters a stopped state. -/
theorem Flow.stopTo {i : StreamNo} (f : Flow b x s) (hx : ∀ k h, x = some k → s.slots[k].holder = some h → h.stream = i)
    (hs : s.streams[i].state.started = true) {y : Stream} (hy : y.state.stopped = true) (h2 : y.manifest = (stopStream i s).streams[i].manifest)
    (h3 : y.window = (stopStream i s).streams[i].window) (h4 : y.lowEdge = (stopStream i s).streams[i].lowEdge) :
    Flow b none ((stopStream i s).setStream i y) := by
  obtain ⟨d, hk⟩ := stopStream_parts i s
  obtain ⟨z1, z2, z3, z4⟩ := d.same
  generalize stopStream i s = v at *
  refine f.stop (t := v.setStream i y) hx hs d.engine d.ports (fun j hj => by rw [streams_set, if_neg hj, d.streams j hj]) d.contexts d.resend d.start ?_ ?_ ?_ ?_ hk
  all_goals rw [streams_set, if_pos rfl]
  · exact hy
  · rw [h2, z2]
  · rw [h3, z3]
  · rw [h4, z4]

/-- A stream that enters FAULTED is FAULTED, and no stream's state or manifest is otherwise changed (R40). -/
theorem enterFaulted_stream (i : StreamNo) (c : Cause) (s : State) (j : StreamNo) :
    (enterFaulted i c s).streams[j].state = (if j = i then .faulted else s.streams[j].state) ∧
      (enterFaulted i c s).streams[j].manifest = s.streams[j].manifest := by
  obtain ⟨d, _⟩ := stopStream_parts i s
  unfold enterFaulted; dsimp only
  generalize stopStream i s = v at d
  have hr : ∀ u : State, (returnReservation i u).streams[j].state = u.streams[j].state ∧
      (returnReservation i u).streams[j].manifest = u.streams[j].manifest := fun u => by
    unfold returnReservation; dsimp only; split
    · rw [streams_set]; split
      · rename_i e; subst e; exact ⟨rfl, rfl⟩
      · exact ⟨rfl, rfl⟩
    · exact ⟨rfl, rfl⟩
  rw [show ∀ r u, (queueRecord r u).streams = u.streams from fun r u => touches_queueRecord u r .streams (by decide),
    (hr _).1, (hr _).2, streams_set]
  split
  · rename_i e; subst e; exact ⟨rfl, d.same.2.1⟩
  · rename_i e; rw [d.streams j e]; exact ⟨rfl, rfl⟩

/-- A started stream enters FAULTED. -/
theorem Flow.enterFaulted {i : StreamNo} (f : Flow b x s) (hx : ∀ k h, x = some k → s.slots[k].holder = some h → h.stream = i)
    (hs : s.streams[i].state.started = true) (c) : Flow b none (enterFaulted i c s) := by
  unfold Machine.enterFaulted
  exact ((f.stopTo hx hs (y := { (stopStream i s).streams[i] with state := .faulted, cause := some c }) rfl rfl rfl rfl).returnReservation i).queueRecord _

theorem Flow.enterFaulted' {i : StreamNo} (f : Flow b none s) (hs : s.streams[i].state.started = true) (c) : Flow b none (Machine.enterFaulted i c s) :=
  f.enterFaulted (fun _ _ h => by cases h) hs c

/-- A stream with no slot and no frame becomes VACANT. -/
theorem Flow.vacate {i : StreamNo} (f : Flow b x s) (hk : ∀ (k : SlotNo) h, s.slots[k].holder = some h → h.stream ≠ i)
    (hf : ∀ g, Sends s g → g.stream ≠ i) : Flow b x ((s.setStream i Stream.vacant).setCtx i ReleaseCtx.idle) := by
  have f1 : Flow b x (s.setCtx i ReleaseCtx.idle) := f.setCtx (fun h => by cases h) (fun h => by cases h)
  have f2 : Flow b x ((s.setCtx i ReleaseCtx.idle).setStream i Stream.vacant) := by
    refine f1.setStream (fun m h => by cases h) (fun _ => ⟨rfl, rfl⟩) (Nat.le_refl 0) (.inl rfl) ?_ ?_ ?_ ?_ ?_ ?_
    · rintro k c ⟨h, hh, rfl, rfl⟩; exact absurd rfl (hk k h hh)
    · intro k h _ hh e; exact absurd e (hk k h hh)
    · intro g ha; cases ha
    · rw [contexts_set, if_pos rfl]; intro h; cases h
    · rw [contexts_set, if_pos rfl]; intro h; cases h
    · intro g hg e; exact absurd e (hf g hg)
  exact f2

theorem Flow.enterVacant {i : StreamNo} (f : Flow b x s) (hk : ∀ (k : SlotNo) h, s.slots[k].holder = some h → h.stream ≠ i)
    (hf : ∀ g, Sends s g → g.stream ≠ i) (c) : Flow b x (enterVacant i c s) := by
  unfold Machine.enterVacant
  refine Flow.queueRecord (Flow.vacate (f.of_touches (touches_releaseExtents s i)) ?_ ?_) _
  · have e : (releaseExtents i s).slots = s.slots := touches_releaseExtents s i .slots (by decide)
    rw [e]; exact hk
  · have e : (releaseExtents i s).ports = s.ports := touches_releaseExtents s i .ports (by decide)
    intro g hg; apply hf g; unfold Sends at *; rw [← e]; exact hg

/-- A stream not yet started holds no slot and sends nothing. -/
theorem Flow.unstarted {i : StreamNo} (f : Flow b x s) (hs : s.streams[i].state.started = false) :
    (∀ (k : SlotNo) h, s.slots[k].holder = some h → h.stream ≠ i) ∧ ∀ g, Sends s g → g.stream ≠ i := by
  refine ⟨fun k h hh e => ?_, fun g hg e => ?_⟩
  · have := (f.win k h hh).1; subst e; rw [hs] at this; cases this
  · have := (f.frames g hg).1; subst e; rw [hs] at this; cases this

/-- A stopped stream with nothing in flight holds no slot and sends nothing. -/
theorem Flow.settled {i : StreamNo} (f : Flow b none s) (hs : s.streams[i].state.stopped = true) (hi : inFlight s i = false) :
    (∀ (k : SlotNo) h, s.slots[k].holder = some h → h.stream ≠ i) ∧ ∀ g, Sends s g → g.stream ≠ i := by
  have hn : ∀ g, Sends s g → g.stream ≠ i := fun g hg e => by
    have : frameInFlight s i = true := (frameInFlight_iff s i).mpr ⟨g, hg.1, e, hg.2⟩
    simp [inFlight, this] at hi
  refine ⟨fun k h hh e => ?_, hn⟩
  rcases f.busy k h (by simp) hh (by subst e; exact hs) with hj | ⟨g, hg, e', _⟩
  · have : jobInFlight s i = true := (jobInFlight_iff s i).mpr (.inr ⟨k, h, hj, hh, e⟩)
    simp [inFlight, this] at hi
  · exact hn g hg (e'.trans e)

/-- An ABORTING stream resolves. -/
theorem Flow.resolveAbort (f : Flow b none s) (i) : Flow b none (resolveAbort i s) := by
  unfold Machine.resolveAbort; split
  · rename_i h
    obtain ⟨a, c⟩ := f.settled (by rw [h.1]; rfl) h.2
    exact f.enterVacant a c _
  · exact f

theorem Flow.enterAborting {i : StreamNo} (f : Flow b none s) (hs : s.streams[i].state.started = false) (hv : s.streams[i].state ≠ .vacant) (c) :
    Flow b none (enterAborting i c s) := by
  unfold Machine.enterAborting
  refine Flow.returnReservation ?_ _
  obtain ⟨a, d⟩ := f.unstarted hs
  refine f.setStream (f.man i) (fun h => by cases h) (f.low i) ?_ ?_ ?_ ?_ ?_ ?_ ?_
  · exact .inr ((f.base i).resolve_left hv)
  · rintro k c ⟨h, hh, rfl, rfl⟩; exact absurd rfl (a k h hh)
  · intro k h _ hh e; exact absurd e (a k h hh)
  · intro g ha; cases ha
  · rw [f.notActive (by intro e; rw [e] at hs; cases hs)]; intro h; cases h
  · rw [f.notEnding (by intro e; rw [e] at hs; cases hs)]; intro h; cases h
  · intro g hg e; exact absurd e (d g hg)

theorem enterVacant_parts (i : StreamNo) (c) (u : State) : (enterVacant i c u).streams = u.streams.set i Stream.vacant ∧
    (enterVacant i c u).contexts = u.contexts.set i ReleaseCtx.idle ∧
    (enterVacant i c u).slots = u.slots ∧ (enterVacant i c u).engine = u.engine ∧ (enterVacant i c u).ports = u.ports := by
  refine ⟨?_, ?_, touches_enterVacant u i c .slots (by decide), touches_enterVacant u i c .engine (by decide), touches_enterVacant u i c .ports (by decide)⟩
  · unfold enterVacant; rw [touches_queueRecord _ _ .streams (by decide)]; rfl
  · unfold enterVacant; rw [touches_queueRecord _ _ .contexts (by decide)]; rfl

theorem Flow.vacantOfStopped {i : StreamNo} {y : Stream} (f : Flow b none (s.setStream i y)) (hy : y.state.stopped = true) (hi : inFlight s i = false) (c) :
    Flow b none (Machine.enterVacant i c s) := by
  obtain ⟨a, d⟩ := f.settled (i := i) (by rw [streams_set, if_pos rfl]; exact hy) hi
  have g := f.enterVacant a d c
  obtain ⟨w1, w2, w3, w4, w5⟩ := enterVacant_parts i c (s.setStream i y)
  obtain ⟨v1, v2, v3, v4, v5⟩ := enterVacant_parts i c s
  have es : (Machine.enterVacant i c s).streams = (Machine.enterVacant i c (s.setStream i y)).streams := by
    rw [v1, w1, State.setStream_streams]; simp
  refine SameFlow.flow (s := Machine.enterVacant i c (s.setStream i y)) ⟨?_, ?_, ?_, ?_, ?_⟩ g
  · intro j; rw [es]; exact ⟨rfl, rfl, rfl, rfl, rfl⟩
  · intro k; rw [v3, w3]; exact ⟨rfl, rfl⟩
  · intro j; rw [v2, w2]; exact ⟨rfl, rfl⟩
  · rw [v4, w4]; rfl
  · intro p; rw [v5, w5]; rfl

theorem Flow.releaseStream {i : StreamNo} (f : Flow b none s) (hs : s.streams[i].state.started = true) (c) : Flow b none (releaseStream i c s).2 := by
  have f1 := f.stopTo (i := i) (fun _ _ h => by cases h) hs (y := { (stopStream i s).streams[i] with state := .aborting, cause := some c }) rfl rfl rfl rfl
  unfold Machine.releaseStream; dsimp only; split
  · exact f1.returnReservation i
  · rename_i hi
    exact f1.vacantOfStopped rfl (by simpa using hi) c

end Sys2Proof.Machine
end

