-- ==== Sys2Proof/Laws/ReleaseSteps.lean ====
section
/-! SUPPORT. Every operation and every command keeps `Flow`: releases, acknowledgements, the digest engine, the store, the intake,
manifests and streams, and resets; and what follows from it. -/

namespace Sys2Proof.Machine

-- One proof at a time: elaborated all at once, the proofs of the package as one text ask for more threads than memory allows.
set_option Elab.async false

variable {b : StreamNo → Nat} {x : Option SlotNo} {s t u : State}

/-! ## Release -/

/-- The stage of an ACTIVE stream names its low-edge block. -/
theorem Flow.setStage {i : StreamNo} {y : Stream} {g : Stage} {k : SlotNo} (f : Flow b x s) (ha : s.streams[i].state = .active)
    (h1 : y.state = .active) (h2 : y.manifest = s.streams[i].manifest) (h3 : y.window = s.streams[i].window)
    (h4 : y.lowEdge = s.streams[i].lowEdge) (h5 : y.stage = some g) (hb : g.block = s.streams[i].lowEdge) (hk : Held s k i s.streams[i].lowEdge)
    (hr : s.slots[k].state.inRelease = true) : Flow b x (s.setStream i y) := by
  refine f.setStream ?_ ?_ ?_ ?_ ?_ ?_ ?_ ?_ ?_ ?_
  · rw [h2]; exact f.man i
  · rw [h1]; intro h; cases h
  · unfold Stream.blockCount; rw [h2, h4]; exact f.low i
  · rw [h4]; exact .inr ((f.base i).resolve_left (by rw [ha]; simp))
  · rintro q c ⟨h, hh, rfl, rfl⟩
    obtain ⟨a1, a2, a3, a4⟩ := f.win q h hh
    unfold WindowTakes Stream.blockCount; rw [h1, h2, h3, h4]; exact ⟨rfl, a2, a3, a4⟩
  · rw [h1]; intro _ _ _ _ _ h; cases h
  · intro e _ he; rw [h5] at he; cases he
    rw [h4]; exact ⟨hb, k, hk, hr⟩
  · intro _; rw [h1, h5]; exact ⟨rfl, rfl⟩
  · intro h; have := f.start i h; rw [ha] at this; cases this
  · intro e he hs
    obtain ⟨a1, a2, a3⟩ := f.frames e he
    subst hs
    unfold FrameOk; rw [h1, h4]; exact ⟨rfl, a2, fun _ => a3 ha⟩

/-- The release of the low-edge block goes on in a slot that is in release or was VERIFIED. -/
theorem Flow.releaseTurn {i : StreamNo} {k : SlotNo} {y : Slot} {z : Stream} {g : Stage} (f : Flow b x s) (ha : s.streams[i].state = .active)
    (hk : Held s k i s.streams[i].lowEdge) (hs : s.slots[k].state = .verified ∨ s.slots[k].state.inRelease = true)
    (y1 : y.holder = s.slots[k].holder) (y2 : y.state.inRelease = true)
    (h1 : z.state = .active) (h2 : z.manifest = s.streams[i].manifest) (h3 : z.window = s.streams[i].window)
    (h4 : z.lowEdge = s.streams[i].lowEdge) (h5 : z.stage = some g) (hb : g.block = s.streams[i].lowEdge) :
    Flow b x ((s.setSlot k y).setStream i z) := by
  have hn : Job.block k ∉ s.engine.fifo := by
    apply f.notInFifo
    · rcases hs with h | h
      · rw [h]; simp
      · intro e; rw [e] at h; cases h
    · rcases hs with h | h
      · rw [h]; simp
      · intro e; rw [e] at h; cases h
  have f1 : Flow b x (s.setSlot k y) := by
    refine f.setSlotTurn y1 ?_ (fun _ => y2) (fun h => absurd h hn)
    obtain ⟨h, hh, _⟩ := hk
    unfold Slot.HeldUnlessFree; rw [y1, hh]; constructor
    · intro e; rw [e] at y2; cases y2
    · intro e; cases e
  refine f1.setStage (k := k) ha h1 h2 h3 h4 h5 hb ?_ ?_
  · obtain ⟨h, hh, r⟩ := hk
    exact ⟨h, by rw [slots_set, if_pos rfl, y1]; exact hh, r⟩
  · rw [slots_set, if_pos rfl]; exact y2

theorem Flow.startRelease (f : Flow b x s) (i) : Flow b x (startRelease i s) := by
  unfold Machine.startRelease; split
  · rename_i k h
    obtain ⟨a1, a2, a3, a4, a5⟩ := (releaseDue_eq_some_iff s i k).mp h
    exact f.releaseTurn a1 (held_of_slotOf a4) (.inl a5) rfl rfl a1 rfl rfl rfl rfl rfl
  · exact f

theorem Flow.startResend {i : StreamNo} {c : Nat} {g : Stage} (f : Flow b x s) (ha : s.streams[i].state = .active) (hg : s.streams[i].stage = some g)
    (hc : g.block = c) : Flow b x (startResend i c s) := by
  unfold Machine.startResend; split
  · rename_i k h
    obtain ⟨a1, q, a2, a3⟩ := f.stage i g ha hg
    have hk := held_of_slotOf h
    rw [← hc, a1] at hk
    have e := f.uniq k q _ _ hk a2; subst e
    exact f.releaseTurn ha hk (.inr a3) rfl rfl ha rfl rfl rfl rfl (by rw [← hc]; exact a1)
  · exact f

theorem Flow.startEnd {i : StreamNo} (f : Flow b x s) (he : s.streams[i].state = .ending) : Flow b x (startEnd i s) := by
  unfold Machine.startEnd
  exact f.setStreamOn (by rw [he]; rfl) (by show s.streams[i].state.started = true; rw [he]; rfl) (by show s.streams[i].state ≠ .active; rw [he]; simp)
    (by show s.streams[i].state.stopped = false; rw [he]; rfl) rfl rfl rfl (f.notActive (by rw [he]; simp)) (fun _ => he)

/-- The arbiter hands a frame over. -/
theorem Flow.handFrame {i : StreamNo} {p : Port} (f : Flow b x s) (he : s.ports[p].position = none) (hr : FrameReady s p i) : Flow b x (handFrame i p s) := by
  unfold Machine.handFrame; split
  · rename_i m g hm hg
    split
    · rename_i hend
      unfold handEndFrame
      have hm' : m.blockCount = s.streams[i].blockCount := by unfold Stream.blockCount; rw [hm]; rfl
      generalize hP : BranchPort.mk _ _ = P
      have f1 : Flow b x (s.setPort p P) := by
        refine f.fillPort he (y := P) (by rw [← hP]) rfl ⟨?_, ?_, ?_⟩
        · show s.streams[i].state.started = true; rw [hend]; rfl
        · rintro k ⟨h, hh, h1, h2⟩
          have := (f.win k h hh).2.2.2
          have h1' : h.stream = i := h1
          have h2' : h.block = m.blockCount := h2
          subst h1'; rw [h2', hm'] at this; exact absurd this (Nat.lt_irrefl _)
        · show s.streams[i].state = .active → _; rw [hend]; intro h; cases h
      refine f1.setStreamOn (by show s.streams[i].state.started = true; rw [hend]; rfl) (by show s.streams[i].state.started = true; rw [hend]; rfl) (by show s.streams[i].state ≠ .active; rw [hend]; simp)
        (by show s.streams[i].state.stopped = false; rw [hend]; rfl) rfl rfl rfl (f.notActive (by rw [hend]; simp)) (fun _ => hend)
    · rename_i hend
      have ha : s.streams[i].state = .active := hr.1.resolve_right hend
      split
      · rename_i k hk
        obtain ⟨a1, q, a2, a3⟩ := f.stage i g ha hg
        have hk := held_of_slotOf hk
        rw [a1] at hk
        have e := f.uniq k q _ _ hk a2; subst e
        unfold handBlockFrame; dsimp only
        generalize hP : BranchPort.mk _ _ = P
        have f1 : Flow b x (s.setPort p P) := by
          refine f.fillPort he (y := P) (by rw [← hP]) rfl ⟨?_, ?_, ?_⟩
          · show s.streams[i].state.started = true; rw [ha]; rfl
          · intro q' hq'
            have : Held s q' i g.block := hq'
            rw [a1] at this
            have := f.uniq k q' _ _ hk this; subst this; exact a3
          · intro _; exact .inr ⟨a1, k, by show Held s k i g.block; rw [a1]; exact hk⟩
        split
        · exact f1.releaseTurn (g := ⟨.awaiting, g.block⟩) ha hk (.inr a3) rfl rfl ha rfl rfl rfl rfl a1
        · exact f1.setSlotSame
      · exact f
  · exact f

theorem Flow.servePort (f : Flow b x s) (p) : Flow b x (servePort p s) := by
  unfold Machine.servePort; split
  · exact f
  · rename_i hp
    split
    · rename_i i hi
      exact f.handFrame (by simpa using hp) ((frameReady_iff s p i).mp (List.find?_some hi))
    · exact f

theorem Flow.serveStreamPort (f : Flow b x s) (i) : Flow b x (serveStreamPort i s) := by
  unfold Machine.serveStreamPort; split
  · exact f.servePort _
  · exact f
theorem Flow.tryRelease (f : Flow b x s) (i) : Flow b x (tryRelease i s) := (f.startRelease i).serveStreamPort i

theorem Flow.enterEnding {i : StreamNo} (f : Flow b x s) (hc : s.streams[i].state = .committing) : Flow b x (enterEnding i s) := by
  unfold Machine.enterEnding; dsimp only
  have f1 : Flow b x (s.setStream i { s.streams[i] with state := .ending }) :=
    f.setStreamOn (by rw [hc]; rfl) rfl (by simp) rfl rfl rfl rfl (f.notActive (by rw [hc]; simp)) (fun _ => rfl)
  have he : (s.setStream i { s.streams[i] with state := .ending }).streams[i].state = .ending := by rw [streams_set, if_pos rfl]
  generalize s.setStream i { s.streams[i] with state := .ending } = v at f1 he
  split
  · exact ((f1.setCtxLess).startEnd (by exact he)).serveStreamPort i
  · exact f1.setCtx (fun h => f1.resend i h) (fun _ => he)

theorem Flow.startHeldWork (f : Flow b x s) (i) : Flow b x (startHeldWork i s) := by
  unfold Machine.startHeldWork; dsimp only; split
  · rename_i h
    obtain ⟨a1, a2⟩ := f.resend i h
    obtain ⟨g, hg⟩ := Option.isSome_iff_exists.mp a2
    rw [hg]
    exact Flow.startResend (s := s.setCtx i _) (f.setCtxLess) a1 hg rfl
  · split
    · rename_i h
      exact Flow.startEnd (s := s.setCtx i _) (f.setCtxLess) (f.start i h)
    · exact f.startRelease i

theorem Flow.fold {α : Type} {g : State → α → State} (hg : ∀ t a, Flow b x t → Flow b x (g t a)) (l : List α) : ∀ s, Flow b x s → Flow b x (l.foldl g s) := by
  induction l with
  | nil => exact fun s f => f
  | cons a l ih => exact fun s f => ih _ (hg s a f)

theorem Flow.startAllHeld (f : Flow b x s) : Flow b x (startAllHeld s) :=
  Flow.fold (fun _ p f => f.servePort p) _ _ (Flow.fold (fun _ i f => f.startHeldWork i) _ _ f)
theorem Flow.startStep (f : Flow b x s) : Flow b x (startStep s) := f.of_touches (touches_startStep s)
theorem Flow.changeSupply (f : Flow b x s) : Flow b x (changeSupply s) := by
  unfold Machine.changeSupply resumeWork; dsimp only
  have f1 := (f.of_touches (touches_withSupply s { state := s.supply.state.flipped, filter := none })).queueRecord (.supply s.supply.state.flipped)
  split
  · exact f1.startAllHeld.startStep
  · exact f1
theorem Flow.compareSupply (f : Flow b x s) : Flow b x (compareSupply s) := by
  unfold Machine.compareSupply; repeat' split
  · exact f
  · exact f.changeSupply
  · exact f.of_touches (touches_withSupply s _)
  · exact f.of_touches (touches_withSupply s _)

/-! ## The store -/

theorem Flow.withStore (f : Flow b x s) (y) : Flow b x (s.withStore y) := f.of_touches (touches_withStore s y)
theorem Flow.storeFailed (f : Flow b none s) (i) : Flow b none (storeFailed i s) := by
  unfold Machine.storeFailed; repeat' split
  · rename_i h; exact f.enterFaulted' (by rw [h]; rfl) _
  · exact (f.setStreamSame).resolveAbort i
  · exact f
theorem Flow.commitEnded (f : Flow b none s) (i r) : Flow b none (commitEnded i r s) := by
  unfold Machine.commitEnded; dsimp only; split
  · rename_i h; exact (f.queueRecord _).enterEnding h
  · exact (f.queueRecord _).resolveAbort i
theorem Flow.commitDone (f : Flow b none s) (i r) : Flow b none (commitDone i r s) := (f.withStore _).commitEnded i r
theorem Flow.beginOps : ∀ (n : Nat) {s : State}, Flow b none s → Flow b none (beginOps n s)
  | 0, _, f => f
  | n + 1, s, f => by
    unfold Machine.beginOps; repeat' split
    · exact f
    · exact f
    · exact f.withStore _
    · exact f.withStore _
    · exact Flow.beginOps n ((f.withStore _).storeFailed _)
    · exact Flow.beginOps n (f.withStore _)
theorem Flow.runStore (f : Flow b none s) : Flow b none (runStore s) := (f.beginOps _).startStep
theorem Flow.joinOps (f : Flow b none s) (op) : Flow b none (joinOps op s) := (f.withStore _).runStore
theorem Flow.finishScan (f : Flow b x s) (c r) : Flow b x (finishScan c r s) := (f.queueRecord _).of_touches (touches_withPhase _ _)
theorem Flow.afterGoodStep (f : Flow b none s) (r st rest) : Flow b none (afterGoodStep r st rest s) := by
  unfold Machine.afterGoodStep; dsimp only; repeat' split
  all_goals first
    | exact (f.withStore _).finishScan _ _
    | exact (f.withStore _).commitDone _ _
    | exact f.commitDone _ _
    | exact f.withStore _
theorem Flow.afterBadStep (f : Flow b none s) (r st rest) : Flow b none (afterBadStep r st rest s) := by
  unfold Machine.afterBadStep; dsimp only; repeat' split
  all_goals first
    | exact (f.withStore _).finishScan _ _
    | exact (f.withStore _).storeFailed _
    | exact f.commitDone _ _
    | exact f.withStore _

/-! ## The digest engine -/

theorem Flow.mac_tail {rest : List Job} {j : Job} (f : Flow b none s) (e : s.engine.fifo = j :: rest) : (∀ i i', .mac i ∈ rest → .mac i' ∈ rest → i = i') ∧ rest.Nodup ∧
    (∀ k, .block k ∈ rest → s.slots[k].state = .complete ∨ s.slots[k].state = .hashing) := by
  refine ⟨fun i i' h h' => f.macs i i' (by rw [e]; exact List.mem_cons_of_mem _ h) (by rw [e]; exact List.mem_cons_of_mem _ h'), ?_, fun k h => f.jobs k (by rw [e]; exact List.mem_cons_of_mem _ h)⟩
  have := f.nodup; rw [e] at this; exact (List.nodup_cons.mp this).2

theorem Flow.popBlock {rest : List Job} {k : SlotNo} (f : Flow b none s) (e : s.engine.fifo = .block k :: rest) (y : Bool) :
    Flow b (some k) (s.withEngine { fifo := rest, busy := y }) := by
  obtain ⟨h1, h2, h3⟩ := f.mac_tail e
  refine f.withEngine h2 h1 h3 fun q hq h => ?_
  rw [e] at h; rcases List.mem_cons.mp h with h | h
  · cases h; exact absurd rfl hq
  · exact h
theorem Flow.popMac {rest : List Job} {i : StreamNo} (f : Flow b none s) (e : s.engine.fifo = .mac i :: rest) (y : Bool) :
    Flow b none (s.withEngine { fifo := rest, busy := y }) := by
  obtain ⟨h1, h2, h3⟩ := f.mac_tail e
  refine f.withEngine h2 h1 h3 fun q hq h => ?_
  rw [e] at h; rcases List.mem_cons.mp h with h | h
  · cases h
  · exact h
theorem not_in_tail {rest : List Job} {j : Job} (f : Flow b x s) (e : s.engine.fifo = j :: rest) : j ∉ rest := by
  have := f.nodup; rw [e] at this; exact (List.nodup_cons.mp this).1

theorem Flow.freeEnded {k : SlotNo} (f : Flow b (some k) s) (hj : .block k ∉ s.engine.fifo)
    (ha : ∀ h, s.slots[k].holder = some h → s.streams[h.stream].state ≠ .active) (i) : Flow b none (freeEndedSlot k i s) :=
  (f.freeSlot hj (.inr rfl) ha).resolveAbort i

/-- The idle engine judges heads. -/
theorem Flow.judgeHeads : ∀ (n : Nat) {s : State}, Flow b none s → Flow b none (judgeHeads n s)
  | 0, _, f => f
  | n + 1, s, f => by
    unfold Machine.judgeHeads; split
    · exact f
    · split
      · exact f
      · rename_i j rest e
        dsimp only
        split
        · rename_i i hi
          split
          · rename_i ha
            refine Flow.judgeHeads n ?_
            cases j with
            | block k =>
              refine (f.popBlock e s.engine.busy).freeEnded (not_in_tail f e) ?_ i
              intro h hh
              have hh' : s.slots[k].holder = some h := hh
              simp only [jobStream, hh', Option.map_some, Option.some.injEq] at hi
              subst hi
              show s.streams[h.stream].state ≠ .active; rw [ha]; simp
            | mac i' => exact (f.popMac e s.engine.busy).resolveAbort i
          · unfold startJob
            cases j with
            | block k =>
              have hin : Job.block k ∈ s.engine.fifo := by rw [e]; exact List.mem_cons_self
              have f1 : Flow b none (s.withEngine { s.engine with busy := true }) := f.withEngineSame
              refine f1.setSlotTurn (k := k) rfl ?_ ?_ (fun _ => .inr rfl)
              · simp only [jobStream] at hi
                cases hh : s.slots[k].holder with
                | none => rw [hh] at hi; cases hi
                | some h => unfold Slot.HeldUnlessFree; show (SlotState.hashing = .free ↔ s.slots[k].holder = none); rw [hh]; simp
              · intro h
                have h' : s.slots[k].state.inRelease = true := h
                rcases f.jobs k hin with e' | e' <;> rw [e'] at h' <;> cases h'
            | mac i' => exact f.withEngineSame
        · rename_i hi
          refine Flow.judgeHeads n ?_
          cases j with
          | block k =>
            refine (f.popBlock e s.engine.busy).drop ?_
            intro h hh
            have hh' : s.slots[k].holder = some h := hh
            simp only [jobStream, hh', Option.map_some] at hi; cases hi
          | mac i' => simp [jobStream] at hi
theorem Flow.judgeHead (f : Flow b none s) : Flow b none (judgeHead s) := f.judgeHeads _

/-- A job joins the FIFO. -/
theorem Flow.appendJob {j : Job} (f : Flow b none s) (hj : j ∉ s.engine.fifo) (hm : ∀ i, j = .mac i → ∀ i', .mac i' ∉ s.engine.fifo)
    (hb : ∀ k, j = .block k → s.slots[k].state = .complete ∨ s.slots[k].state = .hashing) : Flow b none (appendJob j s) := by
  unfold Machine.appendJob
  refine (f.withEngine (x := none) ?_ ?_ ?_ ?_).judgeHead
  · show (s.engine.fifo ++ [j]).Nodup
    rw [List.nodup_append]; exact ⟨f.nodup, List.nodup_singleton j, fun a ha c hc => by simp at hc; subst hc; rintro rfl; exact hj ha⟩
  · intro i i' h h'
    rcases List.mem_append.mp h with h | h <;> rcases List.mem_append.mp h' with h' | h'
    · exact f.macs i i' h h'
    · exact absurd h (hm i' (List.mem_singleton.mp h').symm i)
    · exact absurd h' (hm i (List.mem_singleton.mp h).symm i')
    · have e1 := List.mem_singleton.mp h; have e2 := List.mem_singleton.mp h'; rw [← e2] at e1; cases e1; rfl
  · intro k h
    rcases List.mem_append.mp h with h | h
    · exact f.jobs k h
    · exact hb k (List.mem_singleton.mp h).symm
  · intro k _ h; exact List.mem_append.mpr (.inl h)

/-! ## Completed jobs -/

theorem heldUnless {y : Slot} {h : Holder} (hh : y.holder = some h) (hs : y.state ≠ .free) : y.HeldUnlessFree := by
  unfold Slot.HeldUnlessFree; rw [hh]; exact ⟨fun e => absurd e hs, fun e => by cases e⟩

/-- A slot whose job has left the FIFO turns to another state of its life. -/
theorem Flow.outcomeTurn {k : SlotNo} {h : Holder} {y : Slot} (f : Flow b x s) (hh : s.slots[k].holder = some h) (hy : y.holder = some h)
    (hf : y.state ≠ .free) (hs : s.slots[k].state = .complete ∨ s.slots[k].state = .hashing) (hj : .block k ∉ s.engine.fifo) :
    Flow b x (s.setSlot k y) :=
  f.setSlotTurn (hy.trans hh.symm) (heldUnless hy hf) (fun e => by rcases hs with e' | e' <;> rw [e'] at e <;> cases e) (fun e => absurd e hj)

/-- The outcome of a block job whose slot has just left the FIFO. -/
theorem Flow.blockOutcome {k : SlotNo} (f : Flow b (some k) s) (hs : s.slots[k].state = .complete ∨ s.slots[k].state = .hashing)
    (hj : .block k ∉ s.engine.fifo) : Flow b none (blockOutcome k s) := by
  unfold Machine.blockOutcome; split
  · rename_i hh; exact f.drop (fun h e => by rw [hh] at e; cases e)
  · rename_i h hh
    have hd : s.streams[h.stream].state.stopped = false → Flow b none s := fun e => f.drop (fun g hg => by rw [hh] at hg; cases hg; exact e)
    split
    · rename_i m ha hm
      have f0 := hd (by rw [ha]; rfl)
      split
      · unfold blockMatch
        exact (f0.outcomeTurn (y := { s.slots[k] with state := .verified }) hh hh (by simp) hs hj).tryRelease _
      · unfold blockMismatch; dsimp only
        split
        · unfold clearSlot; dsimp only
          have f1 : Flow b none ((Machine.countStream h.stream .digestFailures s).setSlot k
              { (Machine.countStream h.stream .digestFailures s).slots[k] with state := .filling, filled := 0, byteCount := 0, failCount := (Machine.countStream h.stream .digestFailures s).slots[k].failCount + 1 }) :=
            (f0.countStream h.stream .digestFailures).outcomeTurn hh hh (by intro e; cases e) hs hj
          split
          · exact f1.queueRecord _
          · exact (f1.setStreamSame).queueRecord _
        · exact (f0.countStream h.stream .digestFailures).enterFaulted' (by show s.streams[h.stream].state.started = true; rw [ha]; rfl) _
    · rename_i hn
      refine f.freeEnded hj (fun g hg ha => ?_) _
      rw [hh] at hg; cases hg
      cases hm : s.streams[h.stream].manifest with
      | none =>
        have := (f.win k h hh).2.2.2
        unfold Stream.blockCount at this; rw [hm] at this; simp at this
      | some m => exact hn m ha hm

/-- The parts of at most `p` that a count is divided into hold all of it. -/
theorem ceilDiv_mul {t p : Nat} (h : 1 ≤ p) : t ≤ ceilDiv t p * p := by
  unfold ceilDiv
  by_contra hc
  have : t + p - 1 < ((t + p - 1) / p + 1) * p := Nat.lt_mul_of_div_lt (Nat.lt_succ_self _) h
  rw [Nat.succ_mul] at this
  omega

theorem accepted_fits {u : State} {i : StreamNo} {h : HeaderFields} (hc : acceptanceFailure u i h = none) :
    h.accepted.segmentCount ≤ h.accepted.blockCount * h.accepted.perBlock := by
  have hm : manifestConsistent u i h = true := by
    unfold acceptanceFailure at hc; dsimp only at hc; split at hc
    · cases hc
    · rename_i e; simpa using e
  have : 1 ≤ h.perBlock := by
    unfold manifestConsistent at hm; dsimp only at hm
    have h1 : headerConsistent h (u.manifests[i].declaredBlocks.getD 0) = true := (Bool.and_eq_true_iff.mp hm).1
    unfold headerConsistent at h1; simp only [Bool.and_eq_true, decide_eq_true_eq] at h1; omega
  exact ceilDiv_mul this

/-- A stream not yet started goes on to another state in which it has not. -/
theorem Flow.setStreamPrep {i : StreamNo} {y : Stream} (f : Flow b x s) (hs : s.streams[i].state.started = false) (_ : y.state.started = false)
    (man : ∀ m, y.manifest = some m → m.segmentCount ≤ m.blockCount * m.perBlock)
    (h4 : y.lowEdge = s.streams[i].lowEdge := by rfl) (h5 : y.stage = s.streams[i].stage := by rfl) (base : s.streams[i].state = .vacant → b i = 0) :
    Flow b x (s.setStream i y) := by
  obtain ⟨a, d⟩ := f.unstarted hs
  obtain ⟨l, g⟩ := f.idle i hs
  rw [l] at h4; rw [g] at h5
  refine f.setStream man (fun _ => ⟨h4, h5⟩) (by rw [h4]; exact Nat.zero_le _) ?_ ?_ ?_ ?_ ?_ ?_ ?_
  · rw [h4]; rcases f.base i with e | e
    · exact .inr (Nat.le_of_eq (base e))
    · rw [l] at e; exact .inr e
  · rintro k c ⟨h, hh, rfl, rfl⟩; exact absurd rfl (a k h hh)
  · intro k h _ hh e; exact absurd e (a k h hh)
  · intro g _ hg; rw [h5] at hg; cases hg
  · rw [f.notActive (by intro e; rw [e] at hs; cases hs)]; intro h; cases h
  · rw [f.notEnding (by intro e; rw [e] at hs; cases hs)]; intro h; cases h
  · intro g hg e; exact absurd e (d g hg)

theorem Flow.macOutcome (f : Flow b none s) (i) : Flow b none (macOutcome i s) := by
  unfold Machine.macOutcome; split
  · rename_i hs
    have hu : s.streams[i].state.started = false := by rw [hs]; rfl
    obtain ⟨a, d⟩ := f.unstarted hu
    split
    · unfold judgeAcceptance; dsimp only; split
      · exact f.enterVacant a d _
      · rename_i hc
        unfold acceptManifest
        refine Flow.queueRecord (f.setStreamPrep hu ?_ ?_ ?_ ?_ (by rw [hs]; intro h; cases h)) _
        · rfl
        · intro m hm; cases hm; exact accepted_fits hc
        · rfl
        · rfl
    · exact f.enterVacant a d _
  · exact f.resolveAbort i

/-! ## The end of a frame -/

/-- A stopped stream keeps its view but for the stage. -/
theorem Flow.setStreamStopped {i : StreamNo} {y : Stream} (f : Flow b x s) (hs : s.streams[i].state.stopped = true)
    (h1 : y.state = s.streams[i].state := by rfl)
    (h2 : y.manifest = s.streams[i].manifest := by rfl) (h3 : y.window = s.streams[i].window := by rfl)
    (h4 : y.lowEdge = s.streams[i].lowEdge := by rfl) : Flow b x (s.setStream i y) := by
  have st : s.streams[i].state.started = true := by cases e : s.streams[i].state <;> simp_all [StreamState.stopped, StreamState.started]
  have na : s.streams[i].state ≠ .active := by intro e; rw [e] at hs; cases hs
  refine f.setStream ?_ ?_ ?_ ?_ ?_ ?_ ?_ ?_ ?_ ?_
  · rw [h2]; exact f.man i
  · rw [h1, st]; intro h; cases h
  · unfold Stream.blockCount; rw [h2, h4]; exact f.low i
  · rw [h1, h4]; exact f.base i
  · rintro k c ⟨h, hh, rfl, rfl⟩
    obtain ⟨a1, a2, a3, a4⟩ := f.win k h hh
    unfold WindowTakes Stream.blockCount; rw [h1, h2, h3, h4]; exact ⟨a1, a2, a3, a4⟩
  · intro k h hx hh e hq; subst e; exact f.busy k h hx hh hs
  · intro g hq; rw [h1] at hq; exact absurd hq na
  · rw [f.notActive na]; intro h; cases h
  · rw [h1]; exact f.start i
  · rintro g hg rfl
    obtain ⟨a1, a2, a3⟩ := f.frames g hg
    exact ⟨by rw [h1]; exact st, a2, fun hq => absurd (h1 ▸ hq) na⟩

/-- A transmit position empties: the slot its frame kept busy is excused. -/
theorem Flow.emptyPort {p : Port} {g : TxPosition} (f : Flow b none s) (hp : s.ports[p].position = some g) :
    Flow b (if g.answered then none else slotOf s g.stream g.block) (s.setPort p { s.ports[p] with position := none }) := by
  refine f.lessPort (fun _ h => by cases h) ?_
  intro k h hx hh hs
  rcases f.busy k h (by simp) hh hs with hj | ⟨e, ⟨⟨q, hq⟩, ha⟩, h1, h2⟩
  · exact .inl hj
  · by_cases hqp : q = p
    · subst hqp; rw [hp] at hq; cases hq
      exfalso; apply hx
      rw [if_neg (by simpa using ha)]
      have hk : Held s k g.stream g.block := ⟨h, hh, h1.symm, h2.symm⟩
      cases hq : slotOf s g.stream g.block with
      | none => exact absurd hk (not_held_of_slotOf hq k)
      | some k' => rw [f.uniq k k' _ _ hk (held_of_slotOf hq)]
    · refine .inr ⟨e, ⟨⟨q, ?_⟩, ha⟩, h1, h2⟩
      rw [ports_set, if_neg hqp]; exact hq

/-- The end of a frame's transmission. -/
theorem Flow.frameEnded {p : Port} {g : TxPosition} (f : Flow b none s) (hp : s.ports[p].position = some g) :
    Flow b none (frameEnded g (s.setPort p { s.ports[p] with position := none })) := by
  have f1 := f.emptyPort hp
  have hg : g.answered = false → FrameOk s s.streams[g.stream] g := fun ha => f.frames g ⟨⟨p, hp⟩, ha⟩
  unfold Machine.frameEnded; dsimp only
  split
  · rename_i ha; rw [ha] at f1; exact f1
  · rename_i ha
    have ha' : g.answered = false := by simpa using ha
    rw [if_neg ha] at f1
    have hfr := hg ha'
    obtain ⟨a1, a2, a3⟩ := hfr
    have hdrop : s.streams[g.stream].state.stopped = false → Flow b none (s.setPort p { s.ports[p] with position := none }) := by
      intro e
      cases hq : slotOf s g.stream g.block with
      | none => rw [hq] at f1; exact f1
      | some k =>
        rw [hq] at f1
        refine f1.drop fun h hh => ?_
        obtain ⟨h', hh', e1, e2⟩ := held_of_slotOf hq
        have : s.slots[k].holder = some h := hh
        obtain rfl : h' = h := Option.some.inj (hh'.symm.trans this)
        simp only [e1]; exact e
    split
    · rename_i hst
      have hst' : s.streams[g.stream].state.stopped = true := by
        rcases hst with e | e
        · show StreamState.stopped _ = true; have e' : s.streams[g.stream].state = .faulted := e; rw [e']; rfl
        · show StreamState.stopped _ = true; have e' : s.streams[g.stream].state = .aborting := e; rw [e']; rfl
      have f2 : Flow b none (freeKeptSlot g.stream g.block (s.setPort p { s.ports[p] with position := none })) := by
        unfold freeKeptSlot
        have es : slotOf (s.setPort p { s.ports[p] with position := none }) g.stream g.block = slotOf s g.stream g.block := rfl
        rw [es]
        cases hq : slotOf s g.stream g.block with
        | none => rw [hq] at f1; exact f1
        | some k =>
          rw [hq] at f1
          have hk := held_of_slotOf hq
          have hr := a2 k hk
          have hr' : (s.setPort p { s.ports[p] with position := none }).slots[k].state.inRelease = true := hr
          simp only [hr', if_true]
          refine f1.freeSlot ?_ (.inr rfl) ?_
          · apply f1.notInFifo
            · intro e; rw [e] at hr'; cases hr'
            · intro e; rw [e] at hr'; cases hr'
          · intro h hh hact
            obtain ⟨h', hh', e1, e2⟩ := hk
            have : s.slots[k].holder = some h := hh
            obtain rfl : h' = h := Option.some.inj (hh'.symm.trans this)
            have hact' : s.streams[h'.stream].state = .active := hact
            simp only [e1] at hact'; rw [hact'] at hst'; cases hst'
      have hv : (freeKeptSlot g.stream g.block (s.setPort p { s.ports[p] with position := none })).streams[g.stream].state.stopped = true := by
        have hfs : ∀ (u : State) k, (Machine.freeSlot k u).streams[g.stream].state = u.streams[g.stream].state := by
          intro u k
          have hrr : ∀ j (v : State), (Machine.returnReservation j v).streams[g.stream].state = v.streams[g.stream].state := by
            intro j v; unfold Machine.returnReservation; dsimp only; split
            · rw [streams_set]; split
              · rename_i e; subst e; rfl
              · rfl
            · rfl
          unfold Machine.freeSlot; split
          · rw [hrr]; rfl
          · rfl
        unfold freeKeptSlot; split
        · split
          · rw [hfs]; exact hst'
          · exact hst'
        · exact hst'
      exact (f2.setStreamStopped hv).resolveAbort _
    · rename_i hst
      have hns : s.streams[g.stream].state.stopped = false := by
        cases e : s.streams[g.stream].state
        case faulted => exact absurd (.inl e) hst
        case aborting => exact absurd (.inr e) hst
        all_goals rfl
      split
      · exact (hdrop hns).setCtxLess
      · exact hdrop hns

/-! ## Acknowledgements -/

theorem ackSubject_block {i : StreamNo} {c : Nat} {k : SlotNo} {l : Nat} (h : ackSubject s i c = .block k l) :
    s.streams[i].state = .active ∧ s.streams[i].stage = some ⟨.awaiting, c⟩ ∧ slotOf s i c = some k := by
  unfold ackSubject at h; dsimp only at h
  split at h
  · split at h
    · rename_i hs
      split at h
      · rename_i ha
        split at h
        · rename_i q hq; cases h; exact ⟨ha, hs, hq⟩
        · cases h
      · split at h <;> cases h
    · cases h
  · cases h
theorem ackSubject_end {i : StreamNo} {c : Nat} {l : Nat} (h : ackSubject s i c = .endFrame l) : s.streams[i].state = .ending := by
  unfold ackSubject at h; dsimp only at h
  split at h
  · split at h
    · split at h
      · split at h <;> cases h
      · split at h
        · rename_i e; exact e.1
        · cases h
    · cases h
  · cases h

theorem Flow.serveResend (f : Flow b none s) (i c) : Flow b none (serveResend i c s) := by
  unfold Machine.serveResend; split
  · exact f
  · exact f.serveStreamPort i
theorem Flow.untimelyAnswer (f : Flow b none s) (i c) : Flow b none (untimelyAnswer i c s) := by
  unfold Machine.untimelyAnswer untimely; dsimp only; split
  · exact (f.countStream i .untimely).serveResend i c
  · exact f.countStream i .untimely
theorem Flow.blockTimeout {i : StreamNo} {c : Nat} {k : SlotNo} (f : Flow b none s) (ha : s.streams[i].state = .active)
    (hg : s.streams[i].stage = some ⟨.awaiting, c⟩) (l) : Flow b none (blockTimeout i c k l s) := by
  unfold Machine.blockTimeout; split
  · dsimp only
    have f1 : Flow b none (stopAckTimer i (Machine.countStream i .releaseRetries
        (s.setSlot k { s.slots[k] with retryCount := s.slots[k].retryCount + 1, busyCount := 0 }))) := by
      unfold stopAckTimer
      exact ((f.setSlotSame).countStream i .releaseRetries).setCtxLess
    generalize hv : stopAckTimer i _ = v at *
    have e1 : v.streams = s.streams := by rw [← hv]; rfl
    split
    · exact (f1.startResend (by rw [e1]; exact ha) (by rw [e1]; exact hg) rfl).serveResend i c
    · exact f1.setCtx (fun _ => by rw [e1]; exact ⟨ha, by rw [hg]; rfl⟩) (fun h => f1.start i h)
  · exact f.enterFaulted' (by rw [ha]; rfl) _

theorem Flow.endTimeout {i : StreamNo} (f : Flow b none s) (he : s.streams[i].state = .ending) (l) : Flow b none (endTimeout i l s) := by
  unfold Machine.endTimeout; dsimp only; split
  · have f1 : Flow b none ((Machine.countStream i .releaseRetries s).setCtx i
        { s.contexts[i] with endRetry := s.contexts[i].endRetry + 1, endBusy := 0, ackTimer := none }) :=
      (f.countStream i .releaseRetries).setCtxLess (fun h => h) (fun h => h)
    generalize hv : State.setCtx _ i _ = v at f1 ⊢
    have e1 : v.streams = s.streams := by rw [← hv]; rfl
    split
    · exact (f1.startEnd (by rw [e1]; exact he)).serveStreamPort i
    · exact f1.setCtx (fun h => f1.resend i h) (fun _ => by rw [e1]; exact he)
  · exact f.enterFaulted' (by rw [he]; rfl) _

theorem Flow.enterCommitting {i : StreamNo} (f : Flow b none s) (ha : s.streams[i].state = .active) (hr : s.contexts[i].resendHeld = false) :
    Flow b none (enterCommitting i s) := by
  unfold Machine.enterCommitting; dsimp only
  have f1 : Flow b none (s.setStream i { s.streams[i].timersStopped with state := .committing, stage := none }) :=
    f.setStreamOn (by rw [ha]; rfl) rfl (by intro e; cases e) rfl rfl rfl rfl hr
      (by rw [f.notEnding (by rw [ha]; intro e; cases e)]; intro h; cases h)
  exact (f1.returnReservation i).joinOps _

/-- The low-edge block is written: its slot is freed and the low edge moves. -/
theorem Flow.written {i : StreamNo} {k : SlotNo} {y : Stream} {g : Stage} (f : Flow b none s) (ha : s.streams[i].state = .active)
    (hg : s.streams[i].stage = some g) (hk : Held s k i s.streams[i].lowEdge) (hr : s.contexts[i].resendHeld = false)
    (h1 : y.state = .active) (h2 : y.manifest = s.streams[i].manifest) (h3 : y.window = s.streams[i].window)
    (h4 : y.lowEdge = s.streams[i].lowEdge + 1) (h5 : y.stage = none) : Flow b none ((s.setSlot k Slot.free).setStream i y) := by
  obtain ⟨w1, w2, w3, w4⟩ : WindowTakes s.streams[i] s.streams[i].lowEdge := by
    obtain ⟨h, hh, e1, e2⟩ := hk
    have := f.win k h hh; simp only [e1, e2] at this; exact this
  obtain ⟨_, q, hq, hrel⟩ := f.stage i g ha hg
  have hn : Job.block k ∉ s.engine.fifo := by
    obtain rfl := f.uniq q k _ _ hq hk
    apply f.notInFifo <;> (intro e; rw [e] at hrel; cases hrel)
  have hld : ∀ q j c, Held ((s.setSlot k Slot.free).setStream i y) q j c ↔ q ≠ k ∧ Held s q j c := by
    intro q j c; unfold Held; rw [State.setStream_slots, slots_set]; split
    · rename_i e; subst e; simp [Slot.free]
    · rename_i e; simp [e]
  have hhd : ∀ (q : SlotNo) h, ((s.setSlot k Slot.free).setStream i y).slots[q].holder = some h → q ≠ k ∧ s.slots[q].holder = some h := by
    intro q h; rw [State.setStream_slots, slots_set]; split
    · rename_i e; subst e; simp [Slot.free]
    · rename_i e; simp [e]
  have hst : ∀ q : SlotNo, q ≠ k → ((s.setSlot k Slot.free).setStream i y).slots[q] = s.slots[q] := by
    intro q hq; rw [State.setStream_slots, slots_set, if_neg hq]
  have hstr : ∀ j, ((s.setSlot k Slot.free).setStream i y).streams[j] = if j = i then y else s.streams[j] := fun j => streams_set _ i y j
  have other : ∀ {q j c}, j ≠ i → Held s q j c → q ≠ k := by
    rintro q j c hj ⟨h, hh, rfl, rfl⟩ rfl
    obtain ⟨h', hh', e1, _⟩ := hk
    rw [hh] at hh'; cases hh'; exact hj e1
  exact {
    free := fun q => by rw [State.setStream_slots, slots_set]; split; exacts [Slot.free_heldUnlessFree, f.free q]
    uniq := fun p q j c h1 h2 => f.uniq p q j c ((hld ..).mp h1).2 ((hld ..).mp h2).2
    nodup := f.nodup, macs := f.macs
    jobs := fun q hq => by
      rw [hst q (by rintro rfl; exact hn hq)]; exact f.jobs q hq
    man := fun j m => by
      rw [hstr]; split
      · rename_i e; subst e; rw [h2]; exact f.man j m
      · exact f.man j m
    idle := fun j => by
      rw [hstr]; split
      · rw [h1]; intro h; cases h
      · exact f.idle j
    low := fun j => by
      rw [hstr]; split
      · unfold Stream.blockCount; rw [h2, h4]; exact w4
      · exact f.low j
    base := fun j => by
      rw [hstr]; split
      · rename_i e; subst e; rw [h4]; rcases f.base j with h | h
        · rw [h] at ha; cases ha
        · exact .inr (Nat.le_succ_of_le h)
      · exact f.base j
    win := fun q h hq => by
      obtain ⟨e1, e2⟩ := hhd q h hq
      have := f.win q h e2
      rw [hstr]; split
      · rename_i e
        obtain ⟨a1, a2, a3, a4⟩ := this
        have hne : h.block ≠ s.streams[i].lowEdge := fun e' => e1 (f.uniq q k _ _ ⟨h, e2, e, e'⟩ hk)
        simp only [e] at a2 a3 a4
        unfold WindowTakes Stream.blockCount at *; rw [h1, h2, h3, h4]; exact ⟨rfl, by omega, by omega, a4⟩
      · exact this
    busy := fun q h hx hq hs => by
      rw [hstr] at hs; split at hs
      · rw [h1] at hs; cases hs
      · exact f.busy q h hx (hhd q h hq).2 hs
    stage := fun j e hj he => by
      rw [hstr] at hj he ⊢; split at hj
      · rename_i e; rw [if_pos e, h5] at he; cases he
      · rename_i e'
        rw [if_neg e'] at he ⊢
        obtain ⟨a1, q, a2, a3⟩ := f.stage j e hj he
        exact ⟨a1, q, (hld ..).mpr ⟨other e' a2, a2⟩, by rw [hst q (other e' a2)]; exact a3⟩
    resend := fun j hj => by
      rw [hstr]; split
      · rename_i e; subst e
        have hj' : s.contexts[j].resendHeld = true := hj
        rw [hr] at hj'; cases hj'
      · exact f.resend j hj
    start := fun j hj => by
      rw [hstr]; split
      · rename_i e; subst e
        have := f.start j hj; rw [ha] at this; cases this
      · exact f.start j hj
    frames := fun e he => by
      obtain ⟨a1, a2, a3⟩ := f.frames e he
      have hr : ∀ q, Held ((s.setSlot k Slot.free).setStream i y) q e.stream e.block → ((s.setSlot k Slot.free).setStream i y).slots[q].state.inRelease = true := by
        intro q hq; obtain ⟨c1, c2⟩ := (hld ..).mp hq; rw [hst q c1]; exact a2 q c2
      rw [hstr]; split
      · rename_i e'
        refine ⟨by rw [h1]; rfl, hr, fun _ => .inl ?_⟩
        simp only [e'] at a3
        rw [h4]; rcases a3 ha with h | ⟨h, _⟩ <;> omega
      · rename_i e'
        refine ⟨a1, hr, fun hi => ?_⟩
        rcases a3 hi with h | ⟨h, q, hq⟩
        · exact .inl h
        · exact .inr ⟨h, q, (hld ..).mpr ⟨other e' hq, hq⟩⟩ }

theorem Flow.acceptWritten {i : StreamNo} {c : Nat} {k : SlotNo} {l : Nat} (f : Flow b none s) (h : ackSubject s i c = .block k l) :
    Flow b none (acceptWritten i k s) := by
  obtain ⟨ha, hg, hk⟩ := ackSubject_block h
  have hk' := held_of_slotOf hk
  obtain ⟨hc, _⟩ := f.stage i _ ha hg
  have hc' : c = s.streams[i].lowEdge := hc
  rw [hc'] at hk'
  unfold Machine.acceptWritten; dsimp only
  have f1 : Flow b none (s.setCtx i { s.contexts[i] with ackTimer := none, resendHeld := false }) := f.setCtxLess
  have ef : Machine.freeSlot k (s.setCtx i { s.contexts[i] with ackTimer := none, resendHeld := false })
      = (s.setCtx i { s.contexts[i] with ackTimer := none, resendHeld := false }).setSlot k Slot.free := by
    obtain ⟨h', hh', e1, _⟩ := hk'
    unfold Machine.freeSlot
    have : (s.setCtx i { s.contexts[i] with ackTimer := none, resendHeld := false }).slots[k].holder = some h' := hh'
    rw [this]; dsimp only
    exact returnReservation_active (by simp only [e1]; exact ha)
  rw [ef]
  have f2 : Flow b none (((s.setCtx i { s.contexts[i] with ackTimer := none, resendHeld := false }).setSlot k Slot.free).setStream i
      { ((s.setCtx i { s.contexts[i] with ackTimer := none, resendHeld := false }).setSlot k Slot.free).streams[i] with
        lowEdge := s.streams[i].lowEdge + 1, stage := none }) :=
    f1.written (g := ⟨.awaiting, c⟩) ha hg hk' (by rw [contexts_set, if_pos rfl]) ha rfl rfl rfl rfl
  have f3 := f2.queueWindow i (s.streams[i].lowEdge + 1) s.streams[i].window
  split
  · refine f3.enterCommitting ?_ ?_
    · rw [touches_queueWindow _ i _ _ .streams (by decide), streams_set, if_pos rfl]; exact ha
    · rw [touches_queueWindow _ i _ _ .contexts (by decide), State.setStream_contexts, State.setSlot_contexts, contexts_set, if_pos rfl]
  · exact f3.tryRelease i

theorem Flow.acceptActivated {i : StreamNo} (f : Flow b none s) (he : s.streams[i].state = .ending) : Flow b none (acceptActivated i s) := by
  unfold Machine.acceptActivated; dsimp only
  have f1 : Flow b none (s.setCtx i { s.contexts[i] with ackTimer := none, startHeld := false }) := f.setCtxLess
  have f2 : Flow b none ((s.setCtx i { s.contexts[i] with ackTimer := none, startHeld := false }).setStream i
      { (s.setCtx i { s.contexts[i] with ackTimer := none, startHeld := false }).streams[i] with state := .done, stage := none }) := by
    refine f1.setStreamOn ?_ rfl (by intro e; cases e) rfl rfl rfl rfl (f1.notActive ?_) ?_
    · show s.streams[i].state.started = true; rw [he]; rfl
    · show s.streams[i].state ≠ .active; rw [he]; intro e; cases e
    · rw [contexts_set, if_pos rfl]; intro h; cases h
  refine Flow.queueRecord ?_ _
  have hd : ((s.setCtx i { s.contexts[i] with ackTimer := none, startHeld := false }).setStream i
      { (s.setCtx i { s.contexts[i] with ackTimer := none, startHeld := false }).streams[i] with state := .done, stage := none }).streams[i].state = .done := by
    rw [streams_set, if_pos rfl]
  generalize State.setStream _ i _ = v at f2 hd ⊢
  split
  · rename_i m hm
    refine f2.lessPort ?_ ?_
    · intro g hg ha
      unfold BranchPort.answeredFor at hg
      cases hp : v.ports[m.port].position with
      | none => simp only [hp, Option.map_none] at hg; cases hg
      | some e =>
        simp only [hp, Option.map_some, Option.some.injEq] at hg
        split at hg
        · subst hg; cases ha
        · rw [hg]
    · intro k h _ hh hs
      have hne : h.stream ≠ i := by rintro e; simp only [e] at hs; rw [hd] at hs; cases hs
      rcases f2.busy k h (by simp) hh hs with hj | ⟨e, ⟨⟨q, hq⟩, ha⟩, e1, e2⟩
      · exact .inl hj
      · refine .inr ⟨e, ⟨⟨q, ?_⟩, ha⟩, e1, e2⟩
        rw [ports_set]; split
        · rename_i eq; subst eq
          unfold BranchPort.answeredFor
          simp only [hq, Option.map_some, if_neg (show ¬ e.stream = i from fun c => hne (e1.symm.trans c))]
        · exact hq
  · exact f2

theorem Flow.judgeAck (f : Flow b none s) (i c r) : Flow b none (judgeAck i c r s) := by
  unfold Machine.judgeAck; split
  · unfold ackWritten; split
    · rename_i h; exact f.acceptWritten h
    · exact f.countStream _ _
    · exact f.untimelyAnswer _ _
  · unfold ackBusy; split
    · rename_i k l h
      obtain ⟨ha, hg, hk⟩ := ackSubject_block h
      dsimp only; split
      · exact f.countStream _ _
      · split
        · unfold restartLong
          exact Flow.setCtxLess (Flow.setSlotSame (f.countStream i .busy))
        · exact (f.countStream i .busy).blockTimeout ha hg _
    · rename_i l h
      dsimp only; split
      · exact f.countStream _ _
      · split
        · unfold restartLong
          exact Flow.setCtxLess (Flow.setCtxLess (f.countStream i .busy))
        · exact (f.countStream i .busy).endTimeout (ackSubject_end h) _
    · exact f.untimelyAnswer _ _
  · unfold ackRejected; split
    · rename_i h; exact f.enterFaulted' (by rw [(ackSubject_block h).1]; rfl) _
    · rename_i h; exact f.enterFaulted' (by rw [ackSubject_end h]; rfl) _
    · exact f.untimelyAnswer _ _
  · unfold ackActivated; split
    · exact f.countStream _ _
    · rename_i h; exact f.acceptActivated (ackSubject_end h)
    · exact f.countStream _ _
theorem Flow.takeAck (f : Flow b none s) (p d c r) : Flow b none (takeAck p d c r s) := by
  unfold Machine.takeAck; split
  · exact f.judgeAck _ _ _
  · exact f

/-! ## Intake -/

theorem Flow.serveMember (f : Flow b x s) (i l) : Flow b x (serveMember i l s) := by
  unfold Machine.serveMember; dsimp only; repeat' split
  · exact f
  all_goals first | exact f.setStreamSame | exact Flow.queueRecord (f.setStreamSame) _

theorem Flow.completeSlot {k : SlotNo} (f : Flow b none s) (hs : s.slots[k].state = .filling) (i) : Flow b none (completeSlot k i s) := by
  have hn : Job.block k ∉ s.engine.fifo := f.notInFifo (by rw [hs]; intro e; cases e) (by rw [hs]; intro e; cases e)
  unfold Machine.completeSlot
  have f1 : Flow b none (s.setSlot k { s.slots[k] with state := .complete }) := by
    refine f.setSlotTurn rfl ?_ (by rw [hs]; intro e; cases e) (fun h => absurd h hn)
    have := f.free k
    unfold Slot.HeldUnlessFree at *; rw [hs] at this
    constructor
    · intro e; cases e
    · intro e; cases this.mpr e
  refine (f1.appendJob hn (fun i' e => by cases e) ?_).stopQuietIfDone i
  rintro q e; cases e
  rw [slots_set, if_pos rfl]; exact .inl rfl

theorem Flow.placeSegment {k : SlotNo} (f : Flow b none s) (hs : s.slots[k].state = .filling) (l i p n bs) : Flow b none (placeSegment l i k p n bs s) := by
  unfold Machine.placeSegment; dsimp only
  have f1 : Flow b none (s.withStaging (s.staging.writeAll 0 (stagingAddress k (p * n)) bs)) := f.of_touches (touches_withStaging s _)
  have h1 : (s.withStaging (s.staging.writeAll 0 (stagingAddress k (p * n)) bs)).slots = s.slots := rfl
  generalize s.withStaging _ = v at f1 h1 ⊢
  have f2 : Flow b none (v.setSlot k (v.slots[k].fill p bs.length)) := f1.setSlotSame
  have h2 : (v.setSlot k (v.slots[k].fill p bs.length)).slots[k].state = .filling := by
    rw [slots_set, if_pos rfl, h1]; exact hs
  generalize v.setSlot k _ = w at f2 h2 ⊢
  have f3 := f2.countStream i .placed
  have h3 : (Machine.countStream i .placed w).slots[k].state = .filling := h2
  generalize Machine.countStream i .placed w = w' at f3 h3 ⊢
  have f4 : Flow b none (w'.setStream i { w'.streams[i] with stallCount := 0, stallTimer := some (stallInterval w') }) := f3.setStreamSame
  have h4 : (w'.setStream i { w'.streams[i] with stallCount := 0, stallTimer := some (stallInterval w') }).slots[k].state = .filling := h3
  generalize w'.setStream i _ = w'' at f4 h4 ⊢
  have f5 := f4.serveMember i l
  have h5 : (Machine.serveMember i l w'').slots[k].state = .filling := by
    rw [touches_serveMember w'' i l .slots (by decide)]; exact h4
  split
  · exact f5.completeSlot h5 i
  · exact f5

/-- A FREE slot is allocated for a block of the window that has none. -/
theorem Flow.allocateSlot {k : SlotNo} {i : StreamNo} {c : Nat} (f : Flow b none s) (hk : s.slots[k].state = .free) (hn : slotOf s i c = none)
    (ha : s.streams[i].state = .active) (hw : WindowTakes s.streams[i] c) (e) : Flow b none (allocateSlot k i c e s) := by
  unfold Machine.allocateSlot
  generalize hy : ({ Slot.free with state := .filling, holder := some { stream := i, block := c, expected := e } } : Slot) = y
  have y1 : y.state = .filling := by rw [← hy]
  have y2 : y.holder = some { stream := i, block := c, expected := e } := by rw [← hy]
  clear hy
  have hk' : s.slots[k].holder = none := (f.free k).mp hk
  have hj : Job.block k ∉ s.engine.fifo := f.notInFifo (by rw [hk]; intro e; cases e) (by rw [hk]; intro e; cases e)
  have hld : ∀ q j d, Held (s.setSlot k y) q j d → (q = k ∧ j = i ∧ d = c) ∨ (q ≠ k ∧ Held s q j d) := by
    rintro q j d ⟨h, hh, e1, e2⟩
    rw [slots_set] at hh; split at hh
    · rename_i e; rw [y2] at hh; cases hh; exact .inl ⟨e, e1.symm, e2.symm⟩
    · rename_i e; exact .inr ⟨e, h, hh, e1, e2⟩
  have hst : ∀ q : SlotNo, q ≠ k → (s.setSlot k y).slots[q] = s.slots[q] := by
    intro q hq; rw [slots_set, if_neg hq]
  have hne : ∀ {q j d}, Held s q j d → q ≠ k := by
    rintro q j d ⟨h, hh, _⟩ rfl; rw [hk'] at hh; cases hh
  have keep : ∀ {q j d}, Held s q j d → Held (s.setSlot k y) q j d := by
    intro q j d hq
    have := hst q (hne hq)
    obtain ⟨h, hh, r⟩ := hq
    exact ⟨h, by rw [this]; exact hh, r⟩
  exact {
    free := fun q => by
      rw [slots_set]; split
      · exact heldUnless y2 (by rw [y1]; intro e; cases e)
      · exact f.free q
    uniq := fun p q j d h1 h2 => by
      rcases hld _ _ _ h1 with ⟨a1, a2, a3⟩ | ⟨a1, a2⟩ <;> rcases hld _ _ _ h2 with ⟨c1, c2, c3⟩ | ⟨c1, c2⟩
      · rw [a1, c1]
      · rw [a2, a3] at c2; exact absurd c2 (not_held_of_slotOf hn q)
      · rw [c2, c3] at a2; exact absurd a2 (not_held_of_slotOf hn p)
      · exact f.uniq _ _ _ _ a2 c2
    nodup := f.nodup, macs := f.macs
    jobs := fun q hq => by
      rw [hst q (by rintro rfl; exact hj hq)]; exact f.jobs q hq
    man := f.man, idle := f.idle, low := f.low, base := f.base
    win := fun q h hq => by
      rw [slots_set] at hq; split at hq
      · rw [y2] at hq; cases hq; exact hw
      · exact f.win q h hq
    busy := fun q h hx hq hs => by
      rw [slots_set] at hq; split at hq
      · rw [y2] at hq; cases hq
        have : s.streams[i].state.stopped = true := hs
        rw [ha] at this; cases this
      · exact f.busy q h hx hq hs
    stage := fun j g h1 h2 => by
      obtain ⟨a1, q, a2, a3⟩ := f.stage j g h1 h2
      exact ⟨a1, q, keep a2, by rw [hst q (hne a2)]; exact a3⟩
    resend := f.resend, start := f.start
    frames := fun g hg => by
      obtain ⟨a1, a2, a3⟩ := f.frames g hg
      refine ⟨a1, fun q hq => ?_, fun hi => ?_⟩
      · rcases hld _ _ _ hq with ⟨c1, c2, c3⟩ | ⟨c1, c2⟩
        · exfalso
          simp only [c2] at a3
          rcases a3 ha with h | ⟨h, q', hq'⟩
          · have := hw.2.1; omega
          · rw [c3] at hq'; exact not_held_of_slotOf hn q' hq'
        · rw [hst q c1]; exact a2 q c2
      · rcases a3 hi with h | ⟨h, q, hq⟩
        · exact .inl h
        · exact .inr ⟨h, q, keep hq⟩ }

theorem segmentOutcome_place {l : Lane} {i : StreamNo} {k n : Nat} {q : SlotNo} {p v : Nat} (h : segmentOutcome s l i k n = .place q p v) :
    ∃ c, slotOf s i c = some q ∧ s.slots[q].state.reachedComplete = false := by
  unfold segmentOutcome at h; dsimp only at h
  repeat' split at h
  all_goals cases h
  rename_i hq hr
  simp only [Bool.or_eq_true, not_or, Bool.not_eq_true] at hr
  exact ⟨_, hq, hr.1⟩

theorem segmentOutcome_allocate {l : Lane} {i : StreamNo} {k n : Nat} {q : SlotNo} {c e p v : Nat}
    (hm : ∀ m, s.streams[i].manifest = some m → m.segmentCount ≤ m.blockCount * m.perBlock)
    (h : segmentOutcome s l i k n = .allocate q c e p v) :
    s.streams[i].state = .active ∧ WindowTakes s.streams[i] c ∧ slotOf s i c = none ∧ s.slots[q].state = .free := by
  unfold segmentOutcome at h; dsimp only at h
  repeat' split at h
  all_goals cases h
  rename_i m hman ha _ hseg _ hlow hwin _ hn _ hq
  have ha' : s.streams[i].state = .active := by simpa using ha
  refine ⟨ha', ⟨by rw [ha']; rfl, by omega, by omega, ?_⟩, hn, free_of_lowestFree hq⟩
  unfold Stream.blockCount; rw [hman]; show k / m.perBlock < m.blockCount
  have := hm m hman
  apply Nat.div_lt_of_lt_mul
  rw [Nat.mul_comm]; omega

theorem Flow.assemble (f : Flow b none s) (l i k bs) : Flow b none (assemble l i k bs s) := by
  unfold Machine.assemble; split
  · exact f.countLane _ _
  · exact f.countLane _ _
  · exact f.countStream _ _
  · exact f.countStream _ _
  · exact f.countStream _ _
  · exact (f.countStream _ _).queueWindow _ _ _
  · exact f.countStream _ _
  · rename_i q p v h
    obtain ⟨c, hc, hr⟩ := segmentOutcome_place h
    refine f.placeSegment ?_ _ _ _ _ _
    obtain ⟨g, hg, _⟩ := held_of_slotOf hc
    cases e : s.slots[q].state
    case filling => rfl
    case free => rw [(f.free q).mp e] at hg; cases hg
    all_goals rw [e] at hr; cases hr
  · rename_i q c e p v h
    obtain ⟨ha, hw, hn, hf⟩ := segmentOutcome_allocate (f.man i) h
    refine (f.allocateSlot hf hn ha hw e).placeSegment ?_ _ _ _ _ _
    unfold Machine.allocateSlot; rw [slots_set, if_pos rfl]

theorem Flow.takeSegment (f : Flow b none s) (l d) : Flow b none (takeSegment l d s) := by
  unfold Machine.takeSegment; dsimp only; split
  · exact (f.countLane _ _).countLane _ _
  · exact (f.countLane _ _).of_touches (touches_laneFault _ _ _)
  · exact (f.countLane _ _).of_touches (touches_laneFault _ _ _)
  · exact (f.countLane _ _).of_touches (touches_laneFault _ _ _)
  · exact (((f.countLane _ _).countLane _ _).of_touches (touches_laneGood _ _)).assemble _ _ _ _

theorem Flow.receiveFrame (f : Flow b none s) (l d g) : Flow b none (receiveFrame l d g s) := by
  unfold Machine.receiveFrame; repeat' split
  · exact f
  · exact f
  · exact f.takeSegment _ _
  · exact f.of_touches (touches_takeControl _ _ _)
  · exact f

/-! ## Manifests and streams -/

theorem Flow.manifestBegin (f : Flow b none s) (hb : ∀ i : StreamNo, s.streams[i].state = .vacant → b i = 0) (g) : Flow b none (manifestBeginReply g s).state := by
  unfold manifestBeginReply; dsimp only; repeat' split
  all_goals first | exact f | skip
  rename_i i _ hv _ _ _ _ _
  have hv' : s.streams[i].state = .vacant := by simpa using hv
  unfold beginLoad; dsimp only
  refine Flow.setStreamPrep (Flow.of_touches (Flow.of_touches f (touches_withEntries s _ _)) (touches_setManifest _ _ _)) ?_ rfl ?_ rfl rfl ?_
  · show s.streams[i].state.started = false; rw [hv']; rfl
  · exact f.man i
  · exact fun _ => hb i hv'

theorem Flow.manifestEnd (f : Flow b none s) (g) : Flow b none (manifestEndReply g s).state := by
  unfold manifestEndReply; dsimp only; repeat' split
  all_goals first | exact f | skip
  rename_i i _ hl _ hm _
  have hl' : s.streams[i].state = .loading := by simpa using hl
  have hm' : ∀ i', Job.mac i' ∉ s.engine.fifo := by
    intro i' hi; apply hm; rw [List.any_eq_true]; exact ⟨_, hi, rfl⟩
  unfold beginAuthentication; dsimp only
  refine Flow.appendJob (Flow.setStreamPrep (f.of_touches (touches_setManifest s i _)) ?_ rfl (f.man i) rfl rfl ?_) (hm' i) (fun _ _ => hm') (fun k e => by cases e)
  · show s.streams[i].state.started = false; rw [hl']; rfl
  · show s.streams[i].state = .vacant → _; rw [hl']; intro e; cases e

theorem Flow.startStream {i : StreamNo} (f : Flow b none s) (hs : s.streams[i].state = .ready) (lanes w) : Flow b none (startStream i lanes w s) := by
  unfold Machine.startStream; dsimp only
  refine Flow.queueWindow (Flow.queueRecord ?_ _) _ _ _
  have hu : s.streams[i].state.started = false := by rw [hs]; rfl
  obtain ⟨a, d⟩ := f.unstarted hu
  obtain ⟨l, g⟩ := f.idle i hu
  refine f.setStream (f.man i) (fun h => by cases h) (Nat.zero_le _) (.inr ?_) ?_ ?_ ?_ ?_ ?_ ?_
  · rcases f.base i with e | e
    · rw [e] at hs; cases hs
    · rw [l] at e; exact e
  · rintro k c ⟨h, hh, rfl, rfl⟩; exact absurd rfl (a k h hh)
  · intro k h _ hh e; exact absurd e (a k h hh)
  · intro e _ he; have he' : s.streams[i].stage = some e := he; rw [g] at he'; cases he'
  · rw [f.notActive (by rw [hs]; intro e; cases e)]; intro h; cases h
  · rw [f.notEnding (by rw [hs]; intro e; cases e)]; intro h; cases h
  · intro g hg e; exact absurd e (d g hg)

theorem Flow.streamStart (f : Flow b none s) (g) : Flow b none (streamStartReply g s).state := by
  unfold streamStartReply; dsimp only; repeat' split
  all_goals first
    | exact f
    | exact f.startStream (by simp_all) _ _

theorem Flow.abortStream (f : Flow b none s) (i) : Flow b none (abortStream i s).2 := by
  have un (h : s.streams[i].state.started = false) : Flow b none (Machine.enterVacant i .aborted s) :=
    f.enterVacant (f.unstarted h).1 (f.unstarted h).2 _
  unfold Machine.abortStream; split
  all_goals rename_i h
  · exact f
  · exact un (by rw [h]; rfl)
  · exact f.enterAborting (by rw [h]; rfl) (by rw [h]; intro e; cases e) _
  · exact un (by rw [h]; rfl)
  · exact f.releaseStream (by rw [h]; rfl) _
  · exact f.releaseStream (by rw [h]; rfl) _
  · exact f.releaseStream (by rw [h]; rfl) _
  · exact f.releaseStream (by rw [h]; rfl) _
  · exact f.releaseStream (by rw [h]; rfl) _
  · exact f

theorem Flow.closeStream (f : Flow b none s) (i) : Flow b none (closeStream i s).2 := by
  unfold Machine.closeStream; split
  all_goals rename_i h
  · exact f.releaseStream (by rw [h]; rfl) _
  · exact f.releaseStream (by rw [h]; rfl) _
  all_goals exact f

theorem Flow.stallGap {i : StreamNo} (f : Flow b none s) (ha : s.streams[i].state = .active) (c) : Flow b none (stallGap i c s) := by
  unfold Machine.stallGap restartStall; dsimp only
  have f1 := f.queueRecord (gapRecord s i c)
  have h1 : (Machine.queueRecord (gapRecord s i c) s).streams = s.streams := touches_queueRecord _ _ .streams (by decide)
  split
  · exact Flow.setStreamSame (f1.setStreamSame)
  · exact f1.enterFaulted' (by rw [h1, ha]; rfl) _

/-! ## Every command -/

theorem Flow.respond (f : Flow b x s) (l g) : Flow b x (respond l g s) := f.of_touches (touches_respond s l g)
theorem Flow.judge {l g held n o} (f : Flow b x s) (fo : Flow b x o.state) (h : judgeRequest l g held n s o = .next t) : Flow b x t := by
  rcases (judgeRequest_next h).2.2 with ⟨_, rfl⟩ | ⟨_, rfl⟩
  · exact f.respond _ _
  · exact fo.respond _ _
theorem Flow.moveSense {mv : Nat} (f : Flow b none s) (hm : ¬ mv < resetLevelMv) (h : moveSense mv s = .next t) : Flow b none t := by
  unfold Machine.moveSense at h; rw [if_neg hm] at h; split at h <;> cases h
  · exact f.of_touches (touches_withPins s _)
  · exact (f.of_touches (touches_withPins s _)).compareSupply
theorem Flow.afterParam (f : Flow b none s) (n) : Flow b none (afterParam n s) := by
  unfold Machine.afterParam; split
  · exact f.of_touches (touches_emit s)
  · exact f.compareSupply
  · exact f

/-- Every command that is no reset keeps `Flow`; a VACANT stream's floor is 0. -/
theorem flow_exec (c : Instr) (hc : isReset c = false) (h : exec c s = .next t) (f : Flow b none s)
    (hb : ∀ i : StreamNo, s.streams[i].state = .vacant → b i = 0) : Flow b none t := by
  have rd (m) (l) (g) (h : judgeTableRead m l g s = .next t) : Flow b none t := by
    refine f.judge ?_ h
    unfold tableReadReply; dsimp only; repeat' split
    all_goals first | exact f | exact f.of_touches (touches_withInterp s _)
  cases c with
  | powerOnReset mv low => cases hc
  | startUp mv => cases hc
  | segmentFrame l g => cases h; exact f.receiveFrame _ _ _
  | controlFrame l g => cases h; exact f.receiveFrame _ _ _
  | otherTrunkFrame l d g => cases h; exact f.receiveFrame _ _ _
  | quarantineExpiry l =>
    simp only [exec, execQuarantineExpiry] at h; split at h <;> cases h
    · exact (f.of_touches (touches_setLane s _ _)).queueRecord _
    · exact f
  | manifestBegin l g => exact f.judge (f.manifestBegin hb _) h
  | manifestData l g =>
    refine f.judge ?_ h
    unfold manifestDataReply; dsimp only; repeat' split
    all_goals first | exact f | exact f.of_touches (touches_takeManifestData s _ _ _)
  | manifestEnd l g => exact f.judge (f.manifestEnd _) h
  | streamStart l g => exact f.judge (f.streamStart _) h
  | streamLanes l g =>
    refine f.judge ?_ h
    unfold streamLanesReply; dsimp only; repeat' split
    all_goals first | exact f | exact f.setStreamSame
  | streamAbort l g =>
    refine f.judge ?_ h
    unfold streamReply; dsimp only; split
    · exact f
    · exact f.abortStream _
  | streamClose l g =>
    refine f.judge ?_ h
    unfold streamReply; dsimp only; split
    · exact f
    · exact f.closeStream _
  | keyInstall l g =>
    refine f.judge ?_ h
    unfold keyInstallReply; dsimp only; split
    · exact (f.withStore _).joinOps _
    · exact f
  | flush l g =>
    exact f.judge ((f.of_touches (touches_withReport s _)).of_touches (touches_beginDrain _)) h
  | snapshot l g => exact f.judge (f.of_touches (touches_takeSnapshot s)) h
  | paramWrite l g =>
    refine f.judge ?_ h
    unfold paramWriteReply; dsimp only; repeat' split
    all_goals first | exact f | exact (f.of_touches (touches_withParams s _)).afterParam _
  | paramRead l g => exact f.judge f h
  | tableSelect l g =>
    refine f.judge ?_ h
    unfold tableSelectReply; dsimp only; split
    · exact f.of_touches (touches_withInterp s _)
    · exact f
  | cursorSet l g =>
    refine f.judge ?_ h
    unfold cursorSetReply; dsimp only; split
    · exact f.of_touches (touches_withInterp s _)
    · exact f
  | direct l g => exact rd _ _ _ h
  | atCursor l g => exact rd _ _ _ h
  | postInc l g => exact rd _ _ _ h
  | preInc l g => exact rd _ _ _ h
  | offset l g => exact rd _ _ _ h
  | restart l g => exact f.judge (f.of_touches (touches_withInterp s _)) h
  | unknownCode l g => exact f.judge f h
  | noCodeFrame l g => exact f.judge f h
  | trunkTxEnd l o =>
    simp only [exec, execTrunkTxEnd] at h; repeat' split at h
    all_goals cases h
    · exact f
    all_goals refine Flow.of_touches (Flow.of_touches (Flow.of_touches (Flow.of_touches ?_ (touches_setTrunk _ _ _)) (touches_handOver _ _)) (touches_serveLane _)) (touches_emit _)
    · exact f.of_touches (touches_withInterp s _)
    · exact f
  | blockJobDone =>
    simp only [exec, execBlockJobDone] at h; repeat' split at h
    all_goals cases h
    all_goals first | exact f | skip
    rename_i k rest e
    have f1 := f.popBlock e false
    have e' : jobLeft s = s.withEngine { fifo := rest, busy := false } := by unfold jobLeft; rw [e]; rfl
    rw [e']
    exact (f1.blockOutcome (f.jobs k (by rw [e]; exact List.mem_cons_self)) (not_in_tail f e)).judgeHead
  | macJobDone =>
    simp only [exec, execMacJobDone] at h; repeat' split at h
    all_goals cases h
    all_goals first | exact f | skip
    rename_i k rest e
    have e' : jobLeft s = s.withEngine { fifo := rest, busy := false } := by unfold jobLeft; rw [e]; rfl
    rw [e']
    exact ((f.popMac e false).macOutcome k).judgeHead
  | branchTxEnd p o =>
    simp only [exec, execBranchTxEnd] at h; split at h <;> cases h
    · exact f
    · rename_i g hg
      exact (f.frameEnded hg).servePort p
  | branchFrame p d g =>
    simp only [exec, execBranchFrame] at h; repeat' split at h
    all_goals cases h
    · exact f
    · exact f.countStream _ _
    · exact f.countStream _ _
    · exact f.judgeAck _ _ _
  | written p d c => cases h; exact f.takeAck _ _ _ _
  | busy p d c => cases h; exact f.takeAck _ _ _ _
  | rejected p d c => cases h; exact f.takeAck _ _ _ _
  | activated p d c => cases h; exact f.takeAck _ _ _ _
  | ackTimeout i =>
    simp only [exec, execAckTimeout] at h; repeat' split at h
    all_goals cases h
    · rename_i hk; exact f.blockTimeout (ackSubject_block hk).1 (ackSubject_block hk).2.1 _
    · rename_i hk; exact f.endTimeout (ackSubject_end hk) _
    all_goals exact f
  | nvmStepDone rb =>
    simp only [exec, execNvmStepDone] at h; repeat' split at h
    all_goals cases h
    · exact ((((f.of_touches (touches_withNvm s _)).withStore _)).afterGoodStep _ _ _).runStore
    · exact ((((f.of_touches (touches_withNvm s _)).withStore _)).afterBadStep _ _ _).runStore
  | stallExpiry i =>
    simp only [exec, execStallExpiry] at h; repeat' split at h
    all_goals cases h
    · rename_i hs _ _ _; exact f.stallGap hs.2 _
    · exact f.setStreamSame
    · exact f
  | quietExpiry i l =>
    simp only [exec, execQuietExpiry] at h; repeat' split at h
    all_goals cases h
    all_goals first
      | exact f
      | exact Flow.queueRecord (f.setStreamSame) _
  | departureBegin mv => exact f.moveSense (by simpa [isReset] using hc) h
  | departureEnd mv => exact f.moveSense (by simpa [isReset] using hc) h
  | filterExpiry =>
    simp only [exec, execFilterExpiry] at h; split at h <;> cases h
    · exact f.changeSupply
    · exact f
  | packetTimerExpiry =>
    simp only [exec, execPacketTimerExpiry] at h; split at h <;> cases h
    · exact f.of_touches (touches_beginDrain s)
    · exact f
  | absoluteTimerExpiry =>
    simp only [exec, execAbsoluteTimerExpiry] at h; split at h <;> cases h
    · exact f.of_touches (touches_beginDrain s)
    · exact f

/-- `Slot.holds` spelled out. -/
theorem holds_iff {k : SlotNo} {i c} : s.slots[k].holds i c = true ↔ Held s k i c := by
  unfold Slot.holds Held; split
  · rename_i h hh
    simp only [Bool.and_eq_true, beq_iff_eq]
    exact ⟨fun e => ⟨h, hh, e⟩, fun ⟨h', hh', e⟩ => by obtain rfl := Option.some.inj (hh.symm.trans hh'); exact e⟩
  · rename_i hh
    constructor
    · intro e; cases e
    · rintro ⟨h', hh', _⟩; rw [hh] at hh'; cases hh'

/-- The low edges of the streams that exist. -/
def edgesOf (s : State) (i : StreamNo) : Nat := if s.streams[i].state = .vacant then 0 else s.streams[i].lowEdge

/-- The laws as the invariant, each low edge its own floor. -/
theorem ReleaseLaws.flow (h : ReleaseLaws s) : Flow (edgesOf s) none s := by
  obtain ⟨⟨f1, f2⟩, ⟨f3, f4, f5⟩, f6, f7, f8, f9⟩ := h
  exact {
    free := f1
    uniq := fun k q i c h1 h2 => f2 k q i c (holds_iff.mpr h1) (holds_iff.mpr h2)
    nodup := f3, macs := f4, jobs := f5
    man := fun i m hm => (f7 i).2.2 m hm
    idle := fun i => (f7 i).2.1
    low := fun i => (f7 i).1
    base := fun i => by unfold edgesOf; split; exacts [.inl ‹_›, .inr (Nat.le_refl _)]
    win := fun k h hh => (f6 k h hh).1
    busy := fun k h _ hh hs => (busy_iff hh).mp ((f6 k h hh).2 hs)
    stage := fun i g h1 h2 => by simpa only [holds_iff] using (f8 i).1 g h1 h2
    resend := fun i => (f8 i).2.1
    start := fun i => (f8 i).2.2
    frames := fun g ⟨⟨p, hp⟩, ha⟩ => by unfold FrameOk; simpa only [holds_iff] using f9 p g hp ha }

/-- The invariant gives the laws. -/
theorem Flow.laws (f : Flow b none s) : ReleaseLaws s :=
  ⟨⟨f.free, fun k q i c h1 h2 => f.uniq k q i c (holds_iff.mp h1) (holds_iff.mp h2)⟩, ⟨f.nodup, f.macs, f.jobs⟩,
    fun k h hh => ⟨f.win k h hh, fun hs => (busy_iff hh).mpr (f.busy k h (by simp) hh hs)⟩,
    fun i => ⟨f.low i, f.idle i, f.man i⟩,
    fun i => ⟨fun g h1 h2 => by simpa only [holds_iff] using f.stage i g h1 h2, f.resend i, f.start i⟩,
    fun p g hp ha => by have := f.frames g ⟨⟨p, hp⟩, ha⟩; unfold FrameOk at this; simpa only [holds_iff] using this⟩

/-! ## Resets -/

/-- The reset state has it, over any floors. -/
theorem flow_reset (b : StreamNo → Nat) : Flow b none State.reset := by
  have h1 : ∀ i : StreamNo, State.reset.streams[i] = Stream.vacant := by intro i; simp [State.reset]
  have h2 : ∀ k : SlotNo, State.reset.slots[k] = Slot.free := by intro k; simp [State.reset]
  have h3 : ∀ i : StreamNo, State.reset.contexts[i] = ReleaseCtx.idle := by intro i; simp [State.reset]
  have h4 : ∀ p : Port, State.reset.ports[p].position = none := by intro i; simp [State.reset]; rfl
  have h5 : State.reset.engine.fifo = [] := rfl
  have hh : ∀ k i c, ¬ Held State.reset k i c := by
    rintro k i c ⟨h, hh, _⟩; rw [h2] at hh; cases hh
  have hn : ∀ g, ¬ Sends State.reset g := by
    rintro g ⟨⟨p, hp⟩, _⟩; rw [h4] at hp; cases hp
  exact {
    free := fun k => by rw [h2]; exact Slot.free_heldUnlessFree
    uniq := fun k q i c h => absurd h (hh k i c)
    nodup := by rw [h5]; exact List.nodup_nil
    macs := fun i j h => by rw [h5] at h; cases h
    jobs := fun k h => by rw [h5] at h; cases h
    man := fun i m h => by rw [h1] at h; cases h
    idle := fun i _ => by rw [h1]; exact ⟨rfl, rfl⟩
    low := fun i => by rw [h1]; exact Nat.zero_le _
    base := fun i => by rw [h1]; exact .inl rfl
    win := fun k h e => by rw [h2] at e; cases e
    busy := fun k h _ e => by rw [h2] at e; cases e
    stage := fun i g e => by rw [h1] at e; cases e
    resend := fun i e => by rw [h3] at e; cases e
    start := fun i e => by rw [h3] at e; cases e
    frames := fun g h => absurd h (hn g) }

theorem flow_volatileReset (b : StreamNo → Nat) (s : State) (ph pins ps) : Flow b none (volatileReset s ph pins ps) :=
  SameFlow.flow (s := State.reset) ⟨fun _ => ⟨rfl, rfl, rfl, rfl, rfl⟩, fun _ => ⟨rfl, rfl⟩, fun _ => ⟨rfl, rfl⟩, rfl, fun _ => rfl⟩ (flow_reset b)

theorem flow_beginStartUp (b : StreamNo → Nat) (c mv) (s : State) : Flow b none (beginStartUp c mv s) := by
  unfold beginStartUp
  exact ((flow_volatileReset b s _ _ _).of_touches (touches_firstMeasurement _)).of_touches (touches_startScan _ c)

/-! ## Consequences -/

/-- The window law (R31): a stream holds no more slots than W. -/
theorem Flow.slotsHeld_le (f : Flow b none s) (i : StreamNo) : slotsHeld s i ≤ s.streams[i].window := by
  let blockOf : SlotNo → Nat := fun k => (s.slots[k].holder.map Holder.block).getD 0
  unfold slotsHeld
  have hk : ∀ k ∈ (List.finRange 32).filter (fun k => s.slots[k].heldBy i), Held s k i (blockOf k) := by
    intro k hk
    have hk := (List.mem_filter.mp hk).2
    cases hh : s.slots[k].holder with
    | none => unfold Slot.heldBy at hk; rw [hh] at hk; cases hk
    | some h =>
      rw [heldBy_eq hh] at hk
      exact ⟨h, hh, by simpa using hk, by simp only [blockOf, hh]; rfl⟩
  have hnd : (((List.finRange 32).filter fun k => s.slots[k].heldBy i).map blockOf).Nodup := by
    refine List.Nodup.map_on ?_ ((List.nodup_finRange 32).filter _)
    intro k h1 q h2 e
    have e1 := hk k h1; have e2 := hk q h2; rw [e] at e1
    exact f.uniq k q _ _ e1 e2
  have hsub : ∀ c ∈ ((List.finRange 32).filter fun k => s.slots[k].heldBy i).map blockOf, c ∈ List.range' s.streams[i].lowEdge s.streams[i].window := by
    intro c hc
    obtain ⟨k, h1, rfl⟩ := List.mem_map.mp hc
    obtain ⟨h, hh, e1, e2⟩ := hk k h1
    obtain ⟨_, a2, a3, _⟩ := f.win k h hh
    simp only [e1, e2] at a2 a3
    rw [List.mem_range'_1]; exact ⟨a2, a3⟩
  have := (List.subperm_of_subset hnd hsub).length_le
  simpa using this

/-- The capacity of the digest FIFO (R90): 33 jobs. -/
theorem Flow.fifo_bounded (f : Flow b none s) : s.engine.fifo.countP Job.isMac ≤ 1 ∧ (∀ k, s.engine.fifo.count (.block k) ≤ 1) ∧ s.engine.fifo.length ≤ 33 := by
  have hm : s.engine.fifo.countP Job.isMac ≤ 1 := by
    rw [List.countP_eq_length_filter]
    have hnd := f.nodup.filter Job.isMac
    have hall : ∀ a ∈ s.engine.fifo.filter Job.isMac, ∀ c ∈ s.engine.fifo.filter Job.isMac, a = c := by
      intro a ha c hc
      obtain ⟨h1, h2⟩ := List.mem_filter.mp ha; obtain ⟨h3, h4⟩ := List.mem_filter.mp hc
      cases a with
      | block k => cases h2
      | mac i =>
        cases c with
        | block k => cases h4
        | mac j => rw [f.macs i j h1 h3]
    generalize s.engine.fifo.filter Job.isMac = l at hnd hall
    match l, hnd, hall with
    | [], _, _ => exact Nat.zero_le 1
    | [_], _, _ => exact Nat.le_refl 1
    | a :: c :: r, hnd, hall =>
      have := hall a (by simp) c (by simp)
      simp [this] at hnd
  refine ⟨hm, fun k => List.nodup_iff_count_le_one.mp f.nodup _, ?_⟩
  have hb : (s.engine.fifo.filter fun j => !j.isMac).length ≤ 32 := by
    have hsub : ∀ j ∈ s.engine.fifo.filter (fun j => !j.isMac), j ∈ (List.finRange 32).map Job.block := by
      intro j hj
      obtain ⟨_, h2⟩ := List.mem_filter.mp hj
      cases j with
      | block k => exact List.mem_map.mpr ⟨k, List.mem_finRange k, rfl⟩
      | mac i => cases h2
    have := (List.subperm_of_subset (f.nodup.filter _) hsub).length_le
    simpa using this
  have := List.length_eq_countP_add_countP Job.isMac (l := s.engine.fifo)
  rw [this]
  have e : s.engine.fifo.countP (fun a => !(Job.isMac a)) = (s.engine.fifo.filter fun j => !j.isMac).length := List.countP_eq_length_filter ..
  have e' : s.engine.fifo.countP (fun a => decide ¬ (Job.isMac a = true)) = s.engine.fifo.countP (fun a => !(Job.isMac a)) := by
    congr 1; funext a; cases Job.isMac a <;> rfl
  rw [e', e]; omega

end Sys2Proof.Machine
end

