-- ==== Sys2Proof/Laws/Stored.lean ====
section
/-! SUPPORT. The law of the version store as ONE inductive invariant, `Stored`: what each operation on the streams keeps of it, and what the operations
of the store itself, each end of a step among them, make of it (R133 to R142). -/

namespace Sys2Proof.Machine

-- One proof at a time: elaborated all at once, the proofs of the package as one text ask for more threads than memory allows.
set_option Elab.async false

variable {s t u : State} {m c : Memory} {v w : StoreView} {job : NvmJob}

/-- `StoreLaw` while the part is not held in power-on reset, as one invariant. -/
structure Stored (s : State) : Prop where
  once : ∀ i : StreamNo, s.store.ops.count (.commit i) ≤ 1
  queued : ∀ i : StreamNo, .commit i ∈ s.store.ops → s.streams[i].state = .committing ∨ s.streams[i].state = .aborting
  running : ∀ r i v, s.store.run = some r → r.job.commits = some (i, v) →
    s.store.ops.head? = some (.commit i) ∧ ∃ m, s.streams[i].manifest = some m ∧ m.target = v.target
  room : RoomLaw s
  wf : s.nvm.wf erasedByte = true
  core : StoreCore s.nvm s.store
  awake : s.phase ≠ .inReset

/-- Two states that read the same as far as `Stored` goes. -/
structure SameStored (s t : State) : Prop where
  store : t.store = s.store
  nvm : t.nvm = s.nvm
  phase : t.phase = s.phase
  streams : ∀ i : StreamNo, t.streams[i].state = s.streams[i].state ∧ t.streams[i].manifest = s.streams[i].manifest

theorem SameStored.stored (h : SameStored s t) (f : Stored s) : Stored t where
  once := h.store ▸ f.once
  queued i := by rw [h.store, (h.streams i).1]; exact f.queued i
  running r i v := by rw [h.store, (h.streams i).2]; exact f.running r i v
  room := by
    obtain ⟨ts, h1, h2, h3⟩ := f.room
    exact ⟨ts, h1, by rw [h.nvm]; exact h2, fun i m hm => h3 i m ((h.streams i).2 ▸ hm)⟩
  wf := h.nvm ▸ f.wf
  core := by rw [h.nvm, h.store]; exact f.core
  awake := h.phase ▸ f.awake

/-- An operation that leaves the streams, the store, its memory and the phase alone keeps `Stored`. -/
theorem Stored.of_touches {ps : List Part} (f : Stored s) (h : Touches ps s t)
    (hp : ∀ p ∈ ps, p ∉ [Part.streams, .store, .nvm, .phase] := by decide) : Stored t := by
  have g (p : Part) (hm : p ∈ [Part.streams, .store, .nvm, .phase]) : p.Same s t := h p fun hn => hp p hn hm
  have e1 : t.streams = s.streams := g .streams (by decide)
  exact SameStored.stored ⟨g .store (by decide), g .nvm (by decide), g .phase (by decide), fun i => by simp [e1]⟩ f

/-- A descriptor is replaced: a queued commit's stream stays in COMMITTING or ABORTING with its manifest, and the accepted manifests have room. -/
theorem Stored.setStreamRoom {i : StreamNo} {y : Stream} (f : Stored s)
    (hq : .commit i ∈ s.store.ops → (y.state = .committing ∨ y.state = .aborting) ∧ y.manifest = s.streams[i].manifest)
    (hm : RoomLaw (s.setStream i y)) : Stored (s.setStream i y) where
  once := f.once
  queued j hj := by rw [streams_set]; split; rename_i e; subst e; exacts [(hq hj).1, f.queued j hj]
  running r j v hr hj := by
    obtain ⟨h1, h2⟩ := f.running r j v hr hj
    refine ⟨h1, ?_⟩
    rw [streams_set]; split
    · rename_i e; subst e; rw [(hq (List.mem_of_mem_head? h1)).2]; exact h2
    · exact h2
  room := hm
  wf := f.wf
  core := f.core
  awake := f.awake

/-- A descriptor is replaced by one with the same manifest or none. -/
theorem Stored.setStream {i : StreamNo} {y : Stream} (f : Stored s)
    (hq : .commit i ∈ s.store.ops → (y.state = .committing ∨ y.state = .aborting) ∧ y.manifest = s.streams[i].manifest)
    (hm : y.manifest = s.streams[i].manifest ∨ y.manifest = none) : Stored (s.setStream i y) := by
  refine f.setStreamRoom hq ?_
  obtain ⟨ts, h1, h2, h3⟩ := f.room
  refine ⟨ts, h1, h2, fun j m hj => ?_⟩
  rw [streams_set] at hj; split at hj
  · rename_i e; subst e
    rcases hm with hm | hm
    · exact h3 j m (hm ▸ hj)
    · rw [hm] at hj; cases hj
  · exact h3 j m hj

/-- The descriptor's state and manifest kept. -/
theorem Stored.setStreamSame {i : StreamNo} {y : Stream} (f : Stored s) (h1 : y.state = s.streams[i].state := by rfl)
    (h2 : y.manifest = s.streams[i].manifest := by rfl) : Stored (s.setStream i y) :=
  f.setStream (fun h => ⟨h1 ▸ f.queued i h, h2⟩) (.inl h2)

/-- A stream with no commit queued takes another state. -/
theorem Stored.setStreamOn {i : StreamNo} {y : Stream} (f : Stored s) (hn : .commit i ∉ s.store.ops)
    (h2 : y.manifest = s.streams[i].manifest := by rfl) : Stored (s.setStream i y) :=
  f.setStream (fun h => absurd h hn) (.inl h2)

/-- Only a stream in COMMITTING or ABORTING has a commit queued. -/
theorem Stored.unqueued {i : StreamNo} (f : Stored s) (h1 : s.streams[i].state ≠ .committing) (h2 : s.streams[i].state ≠ .aborting) :
    .commit i ∉ s.store.ops := fun h => (f.queued i h).elim h1 h2

/-- The same of a stream in a state named. -/
theorem Stored.unqueuedIn {i : StreamNo} {x : StreamState} (f : Stored s) (h : s.streams[i].state = x) (h1 : x ≠ .committing := by decide)
    (h2 : x ≠ .aborting := by decide) : .commit i ∉ s.store.ops := f.unqueued (h ▸ h1) (h ▸ h2)

/-- A stream with nothing in flight has no commit queued. -/
theorem not_queued_of_settled {i : StreamNo} (h : inFlight s i = false) : .commit i ∉ s.store.ops := by
  intro hm
  have : commitInFlight s i = true := List.any_eq_true.mpr ⟨_, hm, by simp [NvmOp.isCommitOf]⟩
  simp [inFlight, this] at h

/-! ## What the streams' operations keep -/

theorem Stored.queueRecord (f : Stored s) (r) : Stored (queueRecord r s) := f.of_touches (touches_queueRecord s r)
theorem Stored.queueWindow (f : Stored s) (i l w) : Stored (queueWindow i l w s) := f.of_touches (touches_queueWindow s i l w)
theorem Stored.countStream (f : Stored s) (i k) : Stored (countStream i k s) := f.of_touches (touches_countStream s i k)
theorem Stored.countLane (f : Stored s) (i k) : Stored (countLane i k s) := f.of_touches (touches_countLane s i k)
theorem Stored.setSlot (f : Stored s) (k x) : Stored (s.setSlot k x) := f.of_touches (touches_setSlot s k x)
theorem Stored.setCtx (f : Stored s) (k x) : Stored (s.setCtx k x) := f.of_touches (touches_setCtx s k x)
theorem Stored.setPort (f : Stored s) (k x) : Stored (s.setPort k x) := f.of_touches (touches_setPort s k x)
theorem Stored.withEngine (f : Stored s) (x) : Stored (s.withEngine x) := f.of_touches (touches_withEngine s x)

theorem Stored.stopQuietIfDone (f : Stored s) (i) : Stored (stopQuietIfDone i s) := by
  unfold Machine.stopQuietIfDone; split; exacts [f, f.setStreamSame]
theorem Stored.returnReservation (f : Stored s) (i) : Stored (returnReservation i s) := by
  unfold Machine.returnReservation; dsimp only; split; exacts [f.setStreamSame, f]
theorem Stored.freeSlot (f : Stored s) (k) : Stored (freeSlot k s) := by
  unfold Machine.freeSlot; split; exacts [(f.setSlot _ _).returnReservation _, f.setSlot _ _]
theorem Stored.stopRelease (f : Stored s) (i) : Stored (stopRelease i s) := by
  unfold Machine.stopRelease; dsimp only; split; exacts [f.setCtx _ _, (f.setCtx _ _).setStreamSame]
theorem Stored.stopStream (f : Stored s) (i) : Stored (stopStream i s) := by
  unfold Machine.stopStream; exact (f.setStreamSame.stopRelease i).of_touches (touches_freeIdleSlots _ i)
theorem stopStream_store (i : StreamNo) (s : State) : (stopStream i s).store = s.store := touches_stopStream s i .store (by decide)

theorem Stored.enterFaulted {i : StreamNo} (f : Stored s) (hn : .commit i ∉ s.store.ops) (c) : Stored (enterFaulted i c s) := by
  unfold Machine.enterFaulted
  exact (((f.stopStream i).setStreamOn (by rw [stopStream_store]; exact hn)).returnReservation i).queueRecord _
theorem Stored.enterVacant {i : StreamNo} (f : Stored s) (hn : .commit i ∉ s.store.ops) (c) : Stored (enterVacant i c s) := by
  unfold Machine.enterVacant
  have e : (releaseExtents i s).store = s.store := touches_releaseExtents s i .store (by decide)
  exact (((f.of_touches (touches_releaseExtents s i)).setStream (by rw [e]; exact fun h => absurd h hn) (.inr rfl)).setCtx _ _).queueRecord _
theorem Stored.resolveAbort (f : Stored s) (i) : Stored (resolveAbort i s) := by
  unfold Machine.resolveAbort; split
  · rename_i h; exact f.enterVacant (not_queued_of_settled h.2) _
  · exact f
theorem Stored.enterAborting (f : Stored s) (i c) : Stored (enterAborting i c s) := by
  unfold Machine.enterAborting
  exact (f.setStream (y := { s.streams[i] with state := .aborting, cause := some c }) (fun _ => ⟨.inr rfl, rfl⟩) (.inl rfl)).returnReservation i
theorem Stored.freeEndedSlot (f : Stored s) (k i) : Stored (freeEndedSlot k i s) := (f.freeSlot k).resolveAbort i

theorem Stored.handFrame (f : Stored s) (i p) : Stored (handFrame i p s) := by
  unfold Machine.handFrame handBlockFrame handEndFrame; dsimp only; repeat' split
  all_goals first
    | exact f
    | exact (f.setPort _ _).setStreamSame
    | exact ((f.setPort _ _).setSlot _ _).setStreamSame
    | exact (f.setPort _ _).setSlot _ _
theorem Stored.servePort (f : Stored s) (p) : Stored (servePort p s) := by
  unfold Machine.servePort; repeat' split
  exacts [f, f.handFrame _ _, f]
theorem Stored.serveStreamPort (f : Stored s) (i) : Stored (serveStreamPort i s) := by
  unfold Machine.serveStreamPort; split; exacts [f.servePort _, f]
theorem Stored.startRelease (f : Stored s) (i) : Stored (startRelease i s) := by
  unfold Machine.startRelease; split; exacts [(f.setSlot _ _).setStreamSame, f]
theorem Stored.tryRelease (f : Stored s) (i) : Stored (tryRelease i s) := (f.startRelease i).serveStreamPort i
theorem Stored.startResend (f : Stored s) (i b) : Stored (startResend i b s) := by
  unfold Machine.startResend; split; exacts [(f.setSlot _ _).setStreamSame, f]
theorem Stored.startEnd (f : Stored s) (i) : Stored (startEnd i s) := f.setStreamSame
theorem Stored.enterEnding {i : StreamNo} (f : Stored s) (hn : .commit i ∉ s.store.ops) : Stored (enterEnding i s) := by
  unfold Machine.enterEnding; dsimp only; split
  · exact (((f.setStreamOn hn).setCtx _ _).startEnd i).serveStreamPort i
  · exact (f.setStreamOn hn).setCtx _ _
theorem Stored.startHeldWork (f : Stored s) (i) : Stored (startHeldWork i s) := by
  unfold Machine.startHeldWork; dsimp only; repeat' split
  exacts [(f.setCtx _ _).startResend _ _, (f.setCtx _ _).startEnd i, f.startRelease i]
theorem Stored.fold {α : Type} {g : State → α → State} (hg : ∀ t a, Stored t → Stored (g t a)) (l : List α) : ∀ s, Stored s → Stored (l.foldl g s) :=
    by
  induction l with
  | nil => exact fun s f => f
  | cons a l ih => exact fun s f => ih _ (hg s a f)
theorem Stored.startAllHeld (f : Stored s) : Stored (startAllHeld s) :=
  Stored.fold (fun _ p f => f.servePort p) _ _ (Stored.fold (fun _ i f => f.startHeldWork i) _ _ f)
theorem Stored.freeKeptSlot (f : Stored s) (i b) : Stored (freeKeptSlot i b s) := by
  unfold Machine.freeKeptSlot; repeat' split
  exacts [f.freeSlot _, f, f]
theorem Stored.frameEnded (f : Stored s) (g) : Stored (frameEnded g s) := by
  unfold Machine.frameEnded; dsimp only; repeat' split
  exacts [f, ((f.freeKeptSlot _ _).setStreamSame).resolveAbort _, f.setCtx _ _, f]

theorem Stored.serveResend (f : Stored s) (i b) : Stored (serveResend i b s) := by
  unfold Machine.serveResend; split; exacts [f, f.serveStreamPort i]
theorem Stored.untimelyAnswer (f : Stored s) (i b) : Stored (untimelyAnswer i b s) := by
  unfold Machine.untimelyAnswer untimely; dsimp only; split
  exacts [(f.countStream i .untimely).serveResend i b, f.countStream i .untimely]
theorem Stored.blockTimeout {i : StreamNo} (f : Stored s) (ha : s.streams[i].state = .active) (b k l) : Stored (blockTimeout i b k l s) := by
  unfold Machine.blockTimeout stopAckTimer; dsimp only; repeat' split
  · exact ((((f.setSlot _ _).countStream _ _).setCtx _ _).startResend _ _).serveResend _ _
  · exact (((f.setSlot _ _).countStream _ _).setCtx _ _).setCtx _ _
  · exact f.enterFaulted (f.unqueuedIn ha) _
theorem Stored.endTimeout {i : StreamNo} (f : Stored s) (ha : s.streams[i].state = .ending) (l) : Stored (endTimeout i l s) := by
  unfold Machine.endTimeout; dsimp only; repeat' split
  · exact (((f.countStream _ _).setCtx _ _).startEnd _).serveStreamPort _
  · exact ((f.countStream _ _).setCtx _ _).setCtx _ _
  · exact f.enterFaulted (f.unqueuedIn ha) _
theorem Stored.acceptActivated {i : StreamNo} (f : Stored s) (ha : s.streams[i].state = .ending) : Stored (acceptActivated i s) := by
  unfold Machine.acceptActivated; dsimp only
  have g : Stored ((s.setCtx i { s.contexts[i] with ackTimer := none, startHeld := false }).setStream i { s.streams[i] with state := .done, stage := none }) :=
    (f.setCtx _ _).setStreamOn (f.unqueuedIn ha)
  refine Stored.queueRecord ?_ _
  split
  · exact g.setPort _ _
  · exact g
theorem Stored.serveMember (f : Stored s) (i l) : Stored (serveMember i l s) := by
  unfold Machine.serveMember; dsimp only; repeat' split
  all_goals first | exact f | exact f.setStreamSame | exact Stored.queueRecord (f.setStreamSame) _

theorem Stored.discardJob (f : Stored s) (j i) : Stored (discardJob j i s) := by
  unfold Machine.discardJob; split; exacts [f.freeEndedSlot _ _, f.resolveAbort i]
theorem Stored.startJob (f : Stored s) (j) : Stored (startJob j s) := f.of_touches (touches_startJob s j)
theorem Stored.judgeHeads : ∀ (n : Nat) {s : State}, Stored s → Stored (judgeHeads n s)
  | 0, _, f => f
  | n + 1, s, f => by
    unfold Machine.judgeHeads; dsimp only; repeat' split
    exacts [f, f, Stored.judgeHeads n ((f.withEngine _).discardJob _ _), f.startJob _, Stored.judgeHeads n (f.withEngine _)]
theorem Stored.judgeHead (f : Stored s) : Stored (judgeHead s) := f.judgeHeads _
theorem Stored.appendJob (f : Stored s) (j) : Stored (appendJob j s) := (f.withEngine _).judgeHead
theorem Stored.clearSlot (f : Stored s) (k h n) : Stored (clearSlot k h n s) := by
  unfold Machine.clearSlot; dsimp only
  refine Stored.queueRecord ?_ _
  split
  · exact f.setSlot _ _
  · exact (f.setSlot _ _).setStreamSame
theorem Stored.blockOutcome (f : Stored s) (k) : Stored (blockOutcome k s) := by
  unfold Machine.blockOutcome; repeat' split
  · exact f
  · exact (f.setSlot _ _).tryRelease _
  · rename_i ha _ _
    unfold blockMismatch; dsimp only; split
    · exact (f.countStream _ _).clearSlot _ _ _
    · exact (f.countStream _ _).enterFaulted (f.unqueuedIn ha) _
  · exact f.freeEndedSlot _ _
theorem Stored.jobLeft (f : Stored s) : Stored (jobLeft s) := f.withEngine _

theorem Stored.completeSlot (f : Stored s) (k i) : Stored (completeSlot k i s) := ((f.setSlot _ _).appendJob _).stopQuietIfDone i
theorem Stored.placeSegment (f : Stored s) (l i k p n bs) : Stored (placeSegment l i k p n bs s) := by
  unfold Machine.placeSegment; dsimp only
  have f1 : Stored (s.withStaging (s.staging.writeAll 0 (stagingAddress k (p * n)) bs)) := f.of_touches (touches_withStaging s _)
  generalize s.withStaging _ = v at f1 ⊢
  have f2 := f1.setSlot k (v.slots[k].fill p bs.length)
  generalize v.setSlot k _ = w at f2 ⊢
  have f3 := f2.countStream i .placed
  generalize Machine.countStream i .placed w = w' at f3 ⊢
  have f4 : Stored (w'.setStream i { w'.streams[i] with stallCount := 0, stallTimer := some (stallInterval w') }) := f3.setStreamSame
  generalize w'.setStream i _ = w'' at f4 ⊢
  have f5 := f4.serveMember i l
  split
  exacts [f5.completeSlot k i, f5]
theorem Stored.assemble (f : Stored s) (l i k bs) : Stored (assemble l i k bs s) := by
  unfold Machine.assemble; split
  exacts [f.countLane _ _, f.countLane _ _, f.countStream _ _, f.countStream _ _, f.countStream _ _, (f.countStream _ _).queueWindow _ _ _,
    f.countStream _ _, f.placeSegment _ _ _ _ _ _, (f.setSlot _ _).placeSegment _ _ _ _ _ _]
theorem Stored.takeSegment (f : Stored s) (l g) : Stored (takeSegment l g s) := by
  unfold Machine.takeSegment; dsimp only; split
  · exact (f.countLane _ _).countLane _ _
  · exact (f.countLane _ _).of_touches (touches_laneFault _ _ _)
  · exact (f.countLane _ _).of_touches (touches_laneFault _ _ _)
  · exact (f.countLane _ _).of_touches (touches_laneFault _ _ _)
  · exact (((f.countLane _ _).countLane _ _).of_touches (touches_laneGood _ _)).assemble _ _ _ _
theorem Stored.receiveFrame (f : Stored s) (l d g) : Stored (receiveFrame l d g s) := by
  unfold Machine.receiveFrame; repeat' split
  exacts [f, f, f.takeSegment _ _, f.of_touches (touches_takeControl _ _ _), f]

theorem Stored.releaseStream (f : Stored s) (i c) : Stored (releaseStream i c s).2 := by
  unfold Machine.releaseStream; dsimp only; split
  · exact (f.stopStream i).enterAborting i c
  · rename_i h; exact (f.stopStream i).enterVacant (not_queued_of_settled (by simpa using h)) c
theorem Stored.abortStream (f : Stored s) (i) : Stored (abortStream i s).2 := by
  unfold Machine.abortStream; split
  all_goals rename_i h
  all_goals first
    | exact f
    | exact f.enterVacant (f.unqueuedIn h) _
    | exact f.enterAborting _ _
    | exact f.releaseStream _ _
theorem Stored.closeStream (f : Stored s) (i) : Stored (closeStream i s).2 := by
  unfold Machine.closeStream; split
  all_goals first | exact f.releaseStream _ _ | exact f
theorem Stored.stallGap {i : StreamNo} (f : Stored s) (ha : s.streams[i].state = .active) (c) : Stored (stallGap i c s) := by
  unfold Machine.stallGap restartStall; dsimp only
  have e1 : (Machine.queueRecord (gapRecord s i c) s).streams = s.streams := touches_queueRecord _ _ .streams (by decide)
  split
  · exact Stored.setStreamSame ((f.queueRecord (gapRecord s i c)).setStreamSame)
  · have g := f.queueRecord (gapRecord s i c)
    exact g.enterFaulted (g.unqueuedIn (x := .active) (by rw [e1]; exact ha)) _

/-! ## Targets and room -/

/-- The rows that the memory shows are the store's. -/
theorem Stored.governing (f : Stored s) : (scannedStore s.nvm).governing = s.store.governing := f.core.1.1

theorem sorted_targets {rows : List GovRow} (h : SortedByTarget rows) : (rows.map fun g => g.record.target).Nodup := by
  unfold List.Nodup
  rw [List.pairwise_map]
  exact h.imp fun h e => by rw [e] at h; omega

/-- The store governs at most 16 targets (R129). -/
theorem Stored.governing_le (f : Stored s) : s.store.governing.length ≤ 16 := by
  obtain ⟨ts, h1, h2, _⟩ := f.room
  rw [f.governing] at h2
  have hs : SortedByTarget s.store.governing := f.core.1.sorted
  have := (List.subperm_of_subset (sorted_targets hs) (fun x hx => by obtain ⟨g, hg, rfl⟩ := List.mem_map.mp hx; exact h2 g hg)).length_le
  simp only [List.length_map] at this; omega

/-- Another memory governs no target that had no room. -/
theorem RoomLaw.nvm (h : RoomLaw s) (hg : ∀ g ∈ (scannedStore m).governing, (∃ g' ∈ (scannedStore s.nvm).governing, g'.record.target = g.record.target) ∨
    ∃ (i : StreamNo) (a : Accepted), s.streams[i].manifest = some a ∧ a.target = g.record.target) : RoomLaw (s.withNvm m) := by
  obtain ⟨ts, h1, h2, h3⟩ := h
  refine ⟨ts, h1, fun g hm => ?_, h3⟩
  rcases hg g hm with ⟨g', a, e⟩ | ⟨i, a, b, e⟩
  · rw [← e]; exact h2 g' a
  · rw [← e]; exact h3 i a b

theorem rowOf_isNone {rows : List GovRow} {t : Word16} : (rowOf rows t).isNone = true ↔ ∀ g ∈ rows, g.record.target ≠ t := by
  unfold rowOf; simp

/-- An accepted manifest has room (R18). -/
theorem Stored.acceptManifest {i : StreamNo} {h : HeaderFields} (f : Stored s) (hs : s.streams[i].state = .authenticating)
    (hc : acceptanceFailure s i h = none) : Stored (acceptManifest i h.accepted s) := by
  unfold Machine.acceptManifest
  refine Stored.queueRecord (f.setStreamRoom (fun hq => absurd hq (f.unqueuedIn hs)) ?_) _
  have hroom : ¬ ((rowOf s.store.governing h.accepted.target).isNone = true ∧ 16 ≤ roomCount s i) := by
    intro hr
    unfold acceptanceFailure at hc; dsimp only at hc
    repeat' split at hc
    all_goals cases hc
    rename_i hn _ ; exact hn hr
  obtain ⟨ts, h1, h2, h3⟩ := f.room
  by_cases hr : (rowOf s.store.governing h.accepted.target).isNone = true
  · have h16 : roomCount s i < 16 := by by_contra hge; exact hroom ⟨hr, by omega⟩
    unfold roomCount at h16
    refine ⟨h.accepted.target :: (s.store.governing.map (fun g => g.record.target) ++
      (((comparedManifests s i).map Accepted.target).filter fun t => (rowOf s.store.governing t).isNone).dedup), ?_, ?_, ?_⟩
    · simp only [List.length_cons, List.length_append, List.length_map] at h16 ⊢; omega
    · intro g hg
      change g ∈ (scannedStore s.nvm).governing at hg
      rw [f.governing] at hg
      exact List.mem_cons_of_mem _ (List.mem_append_left _ (List.mem_map.mpr ⟨g, hg, rfl⟩))
    · intro j a ha
      rw [streams_set] at ha; split at ha
      · cases ha; exact List.mem_cons_self
      · rename_i hj
        refine List.mem_cons_of_mem _ (List.mem_append.mpr ?_)
        by_cases hn : (rowOf s.store.governing a.target).isNone = true
        · right
          rw [List.mem_dedup, List.mem_filter]
          refine ⟨List.mem_map.mpr ⟨a, ?_, rfl⟩, hn⟩
          unfold comparedManifests
          exact List.mem_filterMap.mpr ⟨j, List.mem_finRange j, by rw [if_neg hj]; exact ha⟩
        · left
          rw [rowOf_isNone] at hn; push Not at hn
          obtain ⟨g, hg, e⟩ := hn
          exact List.mem_map.mpr ⟨g, hg, e⟩
  · rw [rowOf_isNone] at hr; push Not at hr
    obtain ⟨g, hg, e⟩ := hr
    refine ⟨ts, h1, h2, fun j a ha => ?_⟩
    rw [streams_set] at ha; split at ha
    · cases ha; rw [← e]; exact h2 g (by rw [f.governing]; exact hg)
    · exact h3 j a ha

theorem Stored.macOutcome (f : Stored s) (i) : Stored (macOutcome i s) := by
  unfold Machine.macOutcome; split
  · rename_i hs
    split
    · unfold judgeAcceptance; dsimp only; split
      · exact f.enterVacant (f.unqueuedIn hs) _
      · rename_i hc; exact f.acceptManifest hs hc
    · exact f.enterVacant (f.unqueuedIn hs) _
  · exact f.resolveAbort i

theorem Stored.startStream {i : StreamNo} (f : Stored s) (hs : s.streams[i].state = .ready) (b w) : Stored (startStream i b w s) := by
  unfold Machine.startStream; dsimp only
  exact ((f.setStreamOn (f.unqueuedIn hs)).queueRecord _).queueWindow _ _ _
theorem Stored.beginLoad {i : StreamNo} (f : Stored s) (hs : s.streams[i].state = .vacant) (a b) : Stored (beginLoad i a b s) := by
  unfold Machine.beginLoad; dsimp only
  exact ((f.of_touches (touches_withEntries s _ _)).of_touches (touches_setManifest _ _ _)).setStreamOn (f.unqueuedIn hs)
theorem Stored.beginAuthentication {i : StreamNo} (f : Stored s) (hs : s.streams[i].state = .loading) (a) : Stored (beginAuthentication i a s) := by
  unfold Machine.beginAuthentication; dsimp only
  exact ((f.of_touches (touches_setManifest s _ _)).setStreamOn (f.unqueuedIn hs)).appendJob _

/-! ## The store's own operations -/

/-- The memory and the store move on together: the queue keeps its order, and a commit that runs is the one at its head. -/
theorem Stored.settle {t : Store} (f : Stored s) (hw : m.wf erasedByte = true) (hc : StoreCore m t) (hs : t.ops.Sublist s.store.ops)
    (hr : ∀ r i v, t.run = some r → r.job.commits = some (i, v) →
      t.ops.head? = some (.commit i) ∧ ∃ a, s.streams[i].manifest = some a ∧ a.target = v.target)
    (hroom : RoomLaw (s.withNvm m)) : Stored ((s.withNvm m).withStore t) where
  once i := Nat.le_trans (hs.count_le _) (f.once i)
  queued i h := f.queued i (hs.subset h)
  running := hr
  room := hroom
  wf := hw
  core := hc
  awake := f.awake

theorem Store.restView_congr {t t' : Store} (h1 : t'.governing = t.governing) (h2 : t'.activePage = t.activePage)
    (h3 : t'.activeSeq = t.activeSeq) (h4 : t'.appendPos = t.appendPos) : t'.restView = t.restView := by
  unfold Store.restView; rw [h1, h2, h3, h4]

theorem Store.view_congr {t t' : Store} (h1 : t'.governing = t.governing) (h2 : t'.activePage = t.activePage) (h3 : t'.activeSeq = t.activeSeq)
    (h4 : t'.appendPos = t.appendPos) (h5 : t'.run.map NvmRun.job = t.run.map NvmRun.job) : t'.view = t.view := by
  unfold Store.view; rw [h1, h2, h3, h4, h5]

theorem Store.runSafe_congr {t t' : Store} {r r' : NvmRun} (h : t.RunSafe m r) (hj : r'.job = r.job) (hs : r'.steps = r.steps) (hv : t'.view = t.view)
    (ht : t'.turned r.job = t.turned r.job) (hp : ∀ st rest, r'.stepping = true → r'.steps = st :: rest → t'.stepStarted st = t') :
    t'.RunSafe m r' := by
  refine ⟨?_, fun a st rest b => hp st rest a b⟩
  have e : t'.activePage = t.activePage := congrArg StoreView.activePage hv
  have h := h.1
  rw [hj, hs]
  cases hjob : r.job <;> rw [hjob] at h ht
  all_goals dsimp only at h ⊢
  all_goals first
    | (rw [ht, hv]; exact h)
    | (rw [e]; exact h)

theorem stepStarted_same (t : Store) (st : NvmStep) : (t.stepStarted st).governing = t.governing ∧ (t.stepStarted st).activePage = t.activePage ∧
    (t.stepStarted st).activeSeq = t.activeSeq ∧ (t.stepStarted st).appendPos = t.appendPos ∧ (t.stepStarted st).ops = t.ops ∧
    (t.stepStarted st).run = t.run ∧ ∀ p, (t.stepStarted st).erasedFlag p = true → t.erasedFlag p = true := by
  unfold Store.stepStarted Store.setErased
  repeat' split
  all_goals refine ⟨rfl, rfl, rfl, rfl, rfl, rfl, fun p h => ?_⟩
  all_goals first | exact h | (cases p <;> first | exact h | cases h)

theorem stepStarted_run (t : Store) (st : NvmStep) (x : Option NvmRun) :
    Store.stepStarted { t.stepStarted st with run := x } st = { t.stepStarted st with run := x } := by
  cases st with
  | erase u => rfl
  | program a b => unfold Store.stepStarted; dsimp only; cases pageOfAddress a with
    | none => rfl
    | some p => cases p <;> rfl

/-- Whether the page of a step is still known to be erased depends on the flags alone. -/
theorem stepStarted_keep {t t' : Store} {st : NvmStep} (ha : t'.erasedA = t.erasedA) (hb : t'.erasedB = t.erasedB) (h : t.stepStarted st = t) :
    t'.stepStarted st = t' := by
  cases st with
  | erase u => rfl
  | program a b =>
    unfold Store.stepStarted at h ⊢; dsimp only at h ⊢
    cases e : pageOfAddress a with
    | none => rfl
    | some p =>
      rw [e] at h; dsimp only at h
      obtain ⟨g1, g2, g3, g4, g5, g6, g7, g8, g9⟩ := t'
      cases p
      · have : t.erasedA = false := (congrArg Store.erasedA h).symm
        show Store.mk _ _ _ _ false _ _ _ _ = _
        rw [this] at ha; cases ha; rfl
      · have : t.erasedB = false := (congrArg Store.erasedB h).symm
        show Store.mk _ _ _ _ _ false _ _ _ = _
        rw [this] at hb; cases hb; rfl

/-- A step starts. -/
theorem Stored.startStep (f : Stored s) : Stored (startStep s) := by
  unfold Machine.startStep
  split
  · rename_i r hr
    split
    · rename_i st rest hst
      split
      · obtain ⟨e1, e2, e3, e4, e5, e6, e7⟩ := stepStarted_same s.store st
        obtain ⟨c1, c2, c3⟩ := f.core
        have hv : Store.view { s.store.stepStarted st with run := some { r with stepping := true } } = s.store.view :=
          Store.view_congr e1 e2 e3 e4 (by rw [hr]; rfl)
        refine f.settle (m := s.nvm) f.wf ⟨hv ▸ c1, fun p h => c2 p (e7 p h), fun r' h => ?_⟩ ?_ (fun r' i v h hj => ?_) f.room
        · cases h
          refine Store.runSafe_congr (c3 r hr) rfl rfl hv (Store.turned_congr e1 e2 e3 e4 _) fun st' rest' _ h => ?_
          injection (h.symm.trans hst) with h1 h2
          subst h1; exact stepStarted_run _ _ _
        · show (s.store.stepStarted st).ops.Sublist _; rw [e5]
        · cases h; show (s.store.stepStarted st).ops.head? = _ ∧ _; rw [e5]; exact f.running r i v hr hj
      · exact f
    · exact f
  · exact f

theorem commitRun_commits {t : Store} {i j : StreamNo} {a : Accepted} {r : NvmRun} {v : VersionRecord} (h : commitRun t i a = some r)
    (hj : r.job.commits = some (j, v)) : j = i ∧ v.target = a.target := by
  unfold commitRun at h; dsimp only at h
  repeat' split at h
  all_goals cases h
  all_goals cases hj
  all_goals exact ⟨rfl, rfl⟩

theorem commitRun_stepping {t : Store} {i : StreamNo} {a : Accepted} {r : NvmRun} (h : commitRun t i a = some r) : r.stepping = false := by
  unfold commitRun at h; dsimp only at h
  repeat' split at h
  all_goals cases h
  all_goals rfl

theorem commitRun_not_scan {t : Store} {i : StreamNo} {a : Accepted} {r : NvmRun} (h : commitRun t i a = some r) : ∀ c, r.job ≠ .scan c := by
  unfold commitRun at h; dsimp only at h
  repeat' split at h
  all_goals cases h
  all_goals (intro c e; cases e)

/-- Safe steps of an operation that is not the scan. -/
theorem Store.RunSafe.of_steps {t : Store} {r : NvmRun} (h : StepsSafe r.job (t.turned r.job) t.view m r.steps) (hn : ∀ c, r.job ≠ .scan c)
    (hp : r.stepping = false) : t.RunSafe m r := by
  refine ⟨?_, fun a => by rw [hp] at a; cases a⟩
  cases hj : r.job with
  | scan c => exact absurd hj (hn c)
  | _ => rw [hj] at h; exact h

theorem not_mem_tail {ops : List NvmOp} {i : StreamNo} (h : ops.head? = some (.commit i)) (h1 : ops.count (.commit i) ≤ 1) : .commit i ∉ ops.tail :=
    by
  cases ops with
  | nil => cases h
  | cons a l =>
    cases h
    rw [List.count_cons_self] at h1
    exact List.count_eq_zero.mp (by show List.count _ l = 0; omega)

/-- The head operation leaves the queue, with nothing run. -/
theorem Stored.popOp (f : Stored s) (h : s.store.run = none) : Stored (s.withStore s.store.popOp) := by
  obtain ⟨c1, c2, c3⟩ := f.core
  have hv : s.store.popOp.view = s.store.view := Store.view_congr rfl rfl rfl rfl (by rw [h]; rfl)
  exact f.settle (m := s.nvm) f.wf ⟨hv ▸ c1, c2, fun r h => by cases h⟩ (List.tail_sublist _) (fun r i v h => by cases h) f.room

theorem Stored.storeFailed {i : StreamNo} (f : Stored s) (hn : .commit i ∉ s.store.ops) : Stored (storeFailed i s) := by
  unfold Machine.storeFailed; repeat' split
  exacts [f.enterFaulted hn _, f.setStreamSame.resolveAbort i, f]
theorem Stored.commitEnded {i : StreamNo} (f : Stored s) (hn : .commit i ∉ s.store.ops) (r) : Stored (commitEnded i r s) := by
  unfold Machine.commitEnded; dsimp only
  have e : (Machine.queueRecord (.commit i r.target r.version r.floor) s).store = s.store := touches_queueRecord _ _ .store (by decide)
  split
  · exact (f.queueRecord _).enterEnding (by rw [e]; exact hn)
  · exact (f.queueRecord _).resolveAbort i

/-- The head operation begins. -/
theorem Stored.beginOps : ∀ (n : Nat) {s : State}, Stored s → Stored (beginOps n s)
  | 0, _, f => f
  | n + 1, s, f => by
    unfold Machine.beginOps
    split
    · exact f
    · rename_i hb
      have hrun : s.store.run = none := by
        simp only [Bool.or_eq_true, not_or] at hb; simpa using hb.1
      obtain ⟨c1, c2, _⟩ := f.core
      split
      · exact f
      · rename_i key l hops
        have hv : Store.view { s.store with run := some { job := .installKey, steps := keySteps key, stepping := false } } = s.store.view := by
          rw [Store.view_other, Store.view_other]
          · rw [hrun]; intro r h; cases h
          · intro r h; cases h; intro i R p n h; cases h
        refine f.settle (m := s.nvm) f.wf ⟨hv ▸ c1, c2, fun r h => ?_⟩ (List.Sublist.refl _) (fun r i v h hj => ?_) f.room
        · cases h
          refine Store.RunSafe.of_steps ?_ (fun c h => by cases h) rfl
          exact stepsSafe_key f.wf (hv ▸ c1)
        · cases h; cases hj
      · rename_i i l hops
        have hh : s.store.ops.head? = some (.commit i) := by rw [hops]; rfl
        have hnot : .commit i ∉ s.store.popOp.ops := not_mem_tail hh (f.once i)
        split
        · rename_i a ha
          split
          · rename_i r hr
            obtain ⟨k1, k2⟩ := commitRun_safe hrun f.wf c1 c2 f.governing_le hr
            refine f.settle (m := s.nvm) f.wf ⟨k2, c2, fun r' h => ?_⟩ (List.Sublist.refl _) (fun r' j v h hj => ?_) f.room
            · cases h
              refine Store.RunSafe.of_steps ?_ (commitRun_not_scan hr) (commitRun_stepping hr)
              exact k1
            · cases h
              obtain ⟨rfl, e⟩ := commitRun_commits hr hj
              exact ⟨hh, a, ha, e.symm⟩
          · exact Stored.beginOps n ((f.popOp hrun).storeFailed hnot)
        · exact Stored.beginOps n (f.popOp hrun)

theorem Stored.runStore (f : Stored s) : Stored (runStore s) := (f.beginOps _).startStep

/-- An operation joins the queue. -/
theorem Stored.joinOps {op : NvmOp} (f : Stored s) (h : ∀ i, op = .commit i → .commit i ∉ s.store.ops ∧ s.streams[i].state = .committing) :
    Stored (joinOps op s) := by
  unfold Machine.joinOps
  refine Stored.runStore ?_
  obtain ⟨c1, c2, c3⟩ := f.core
  have hv : Store.view { s.store with ops := s.store.ops ++ [op] } = s.store.view := rfl
  refine { once := fun i => ?_, queued := fun i hi => ?_, running := fun r i v hr hj => ?_, room := f.room, wf := f.wf, awake := f.awake,
           core := ⟨c1, c2, fun r hr => Store.runSafe_congr (c3 r hr) rfl rfl hv rfl fun st rest h1 h2 => ?_⟩ }
  · show (s.store.ops ++ [op]).count (.commit i) ≤ 1
    rw [List.count_append]
    by_cases e : op = .commit i
    · rw [List.count_eq_zero.mpr (h i e).1, e]; simp
    · have h0 : [op].count (.commit i) = 0 := List.count_eq_zero.mpr fun hm => e (List.mem_singleton.mp hm).symm
      have := f.once i; omega
  · change .commit i ∈ s.store.ops ++ [op] at hi
    rcases List.mem_append.mp hi with hi | hi
    · exact f.queued i hi
    · exact .inl (h i (List.mem_singleton.mp hi).symm).2
  · obtain ⟨h1, h2⟩ := f.running r i v hr hj
    refine ⟨?_, h2⟩
    show (s.store.ops ++ [op]).head? = _
    rw [List.head?_append, h1]; rfl
  · exact stepStarted_keep (t := s.store) rfl rfl ((c3 r hr).2 h1 st rest h2)

/-- The key state does not enter. -/
theorem StoreCore.withKeyState {t : Store} (h : StoreCore m t) (x) : StoreCore m { t with keyState := x } :=
  ⟨h.1, h.2.1, fun r hr => Store.runSafe_congr (h.2.2 r hr) rfl rfl rfl rfl fun st rest h1 h2 => stepStarted_keep (t := t) rfl rfl ((h.2.2 r hr).2 h1 st rest h2)⟩

theorem Stored.enterCommitting {i : StreamNo} (f : Stored s) (hn : .commit i ∉ s.store.ops) : Stored (enterCommitting i s) := by
  unfold Machine.enterCommitting; dsimp only
  have e1 : ∀ u, (Machine.returnReservation i u).store = u.store := fun u => touches_returnReservation u i .store (by decide)
  have e2 : ∀ u, (Machine.returnReservation i u).streams[i].state = u.streams[i].state := fun u => by
    unfold Machine.returnReservation; dsimp only; split
    · rw [streams_set, if_pos rfl]
    · rfl
  refine ((f.setStreamOn hn).returnReservation i).joinOps fun j hj => ?_
  cases hj
  rw [e1, e2, streams_set, if_pos rfl]
  exact ⟨hn, rfl⟩

theorem Stored.acceptWritten {i : StreamNo} (f : Stored s) (ha : s.streams[i].state = .active) (k) : Stored (acceptWritten i k s) := by
  unfold Machine.acceptWritten; dsimp only
  have e1 : ∀ u, (Machine.freeSlot k u).store = u.store := fun u => touches_freeSlot u k .store (by decide)
  have e2 : ∀ u a b c, (Machine.queueWindow a b c u).store = u.store := fun u a b c => touches_queueWindow u a b c .store (by decide)
  have g := (((f.setCtx i { s.contexts[i] with ackTimer := none, resendHeld := false }).freeSlot k).setStreamSame (i := i)
    (y := { (Machine.freeSlot k (s.setCtx i { s.contexts[i] with ackTimer := none, resendHeld := false })).streams[i] with
      lowEdge := s.streams[i].lowEdge + 1, stage := none })).queueWindow i (s.streams[i].lowEdge + 1) s.streams[i].window
  split
  · refine g.enterCommitting ?_
    rw [e2, State.setStream_store, e1]
    exact f.unqueuedIn ha
  · exact g.tryRelease i

theorem Stored.judgeAck (f : Stored s) (i b r) : Stored (judgeAck i b r s) := by
  have hu : Stored (untimely i s) := f.countStream _ _
  have hb := f.countStream i .busy
  unfold Machine.judgeAck; split
  · unfold ackWritten; split
    · rename_i h; exact f.acceptWritten (ackSubject_block h).1 _
    · exact hu
    · exact f.untimelyAnswer i b
  · unfold ackBusy; split
    · rename_i h
      dsimp only; split
      · exact hb
      · split
        · unfold restartLong; exact (hb.setSlot _ _).setCtx _ _
        · exact hb.blockTimeout (ackSubject_block h).1 _ _ _
    · rename_i h
      dsimp only; split
      · exact hb
      · split
        · unfold restartLong; exact (hb.setCtx _ _).setCtx _ _
        · exact hb.endTimeout (ackSubject_end h) _
    · exact f.untimelyAnswer i b
  · unfold ackRejected; split
    · rename_i h; exact f.enterFaulted (f.unqueuedIn (ackSubject_block h).1) _
    · rename_i h; exact f.enterFaulted (f.unqueuedIn (ackSubject_end h)) _
    · exact f.untimelyAnswer i b
  · unfold ackActivated; split
    · exact hu
    · rename_i h; exact f.acceptActivated (ackSubject_end h)
    · exact hu

theorem Stored.takeAck (f : Stored s) (p d b r) : Stored (takeAck p d b r s) := by
  unfold Machine.takeAck; split
  exacts [f.judgeAck _ _ _, f]

/-! ## The end of a step -/

theorem stepEnded_parts (t : Store) (st ok) : (t.stepEnded st ok).governing = t.governing ∧ (t.stepEnded st ok).activePage = t.activePage ∧
    (t.stepEnded st ok).activeSeq = t.activeSeq ∧ (t.stepEnded st ok).appendPos = t.appendPos ∧ (t.stepEnded st ok).ops = t.ops ∧
    (t.stepEnded st ok).run = t.run := by
  unfold Store.stepEnded Store.setErased; repeat' split
  all_goals exact ⟨rfl, rfl, rfl, rfl, rfl, rfl⟩

theorem setErased_parts (t : Store) (p ok) : (t.setErased p ok).governing = t.governing ∧ (t.setErased p ok).activePage = t.activePage ∧
    (t.setErased p ok).activeSeq = t.activeSeq ∧ (t.setErased p ok).appendPos = t.appendPos ∧ (t.setErased p ok).ops = t.ops ∧
    (t.setErased p ok).run = t.run ∧ ∀ q, (t.setErased p ok).erasedFlag q = if q = p then ok else t.erasedFlag q := by
  cases p <;> refine ⟨rfl, rfl, rfl, rfl, rfl, rfl, fun q => ?_⟩ <;> cases q <;> rfl

theorem base_page (p : PageId) : (NvmUnit.page p).base = 0 ∧ p = .a ∨ (NvmUnit.page p).base = 1024 ∧ p = .b := by
  cases p <;> simp [NvmUnit.base, pageSize]

/-- After a step, a page that the store knows to be erased is erased. -/
theorem flags_ended {t : Store} {st : NvmStep} {ok : Bool} (hm : m.wf erasedByte = true) (hc : c.wf erasedByte = true)
    (he : ∀ p, t.erasedFlag p = true → unitErased m (.page p) = true) (hs : t.stepStarted st = t) (hl : st.Leaves m job c)
    (hk : ok = true → c = st.done m) (p) (hp : (t.stepEnded st ok).erasedFlag p = true) : unitErased c (.page p) = true := by
  rw [unitErased_page_iff hc]
  have old (h : t.erasedFlag p = true) := (unitErased_page_iff hm p).mp (he p h)
  intro y h1 h2
  match st with
  | .program a b =>
    have hp' : t.erasedFlag p = true := hp
    have hy : y ≠ a := by
      rintro rfl
      have hpa : pageOfAddress y = some p := by
        unfold pageOfAddress pageSize
        rcases base_page p with ⟨e, rfl⟩ | ⟨e, rfl⟩
        · rw [if_pos (by omega)]
        · rw [if_neg (by omega), if_pos (by omega)]
      unfold Store.stepStarted at hs; dsimp only at hs
      rw [hpa] at hs; dsimp only at hs
      have := (setErased_parts t p false).2.2.2.2.2.2 p
      rw [hs, if_pos rfl, hp'] at this; cases this
    rw [hl y hy]; exact old hp' y h1 h2
  | .erase .key =>
    have e1 : NvmUnit.key.base = 2048 := rfl
    rw [hl.1 y (by have := base_page p; omega)]
    exact old hp y h1 h2
  | .erase (.page q) =>
    have hf : (t.setErased q ok).erasedFlag p = true := hp
    rw [(setErased_parts t q ok).2.2.2.2.2.2 p] at hf
    have hsz : (NvmUnit.page q).size = 1024 := rfl
    split at hf
    · rename_i e; subst e
      rw [hk hf, NvmStep.done, Memory.read_clear hm, if_pos]; omega
    · rename_i e
      rw [hl.1 y]
      · exact old hf y h1 h2
      · have a1 := base_page p; have a2 := base_page q
        rcases a1 with ⟨a1, rfl⟩ | ⟨a1, rfl⟩ <;> rcases a2 with ⟨a2, rfl⟩ | ⟨a2, rfl⟩
        all_goals first | exact absurd rfl e | omega

/-- The memory that shows the rows that the store holds has room. -/
theorem Stored.room_same (f : Stored s) (h : NvmShows c v) (hg : v.governing = s.store.governing) : RoomLaw (s.withNvm c) := by
  refine f.room.nvm fun g hm => .inl ⟨g, ?_, rfl⟩
  rw [h.1, hg] at hm; rw [f.governing]; exact hm

theorem Store.turned_targets {t : Store} {i : StreamNo} {R : VersionRecord} (hs : SortedByTarget t.governing) (hw : t.turned job = some w)
    (hj : job.commits = some (i, R)) : ∀ g ∈ w.governing, g.record.target = R.target ∨ ∃ g' ∈ t.governing, g'.record.target = g.record.target := by
  intro g hg
  have moved : ∀ p n, g ∈ putRow { record := R, page := p, slot := n } (t.governing.mapIdx fun n g => { record := g.record, page := p, slot := n : GovRow }) →
      g.record.target = R.target ∨ ∃ g' ∈ t.governing, g'.record.target = g.record.target := fun p n h => by
    rcases (mem_putRow (sorted_moved hs p) _ g).mp h with rfl | ⟨h, _⟩
    · exact .inl rfl
    · obtain ⟨k, hk, e⟩ := List.mem_mapIdx.mp h
      exact .inr ⟨t.governing[k], List.getElem_mem _, by rw [← e]⟩
  cases job with
  | scan c => cases hj
  | installKey => cases hj
  | append j r p n =>
    cases hj; cases hw
    rcases (mem_putRow hs _ g).mp hg with rfl | ⟨h, _⟩
    · exact .inl rfl
    · exact .inr ⟨g, h, rfl⟩
  | newPage j r => cases hj; cases hw; exact moved _ _ hg
  | compact j r x q =>
    cases hj
    change (if t.activePage = some x then none else some _) = some w at hw; split at hw
    · cases hw
    · cases hw; exact moved _ _ hg

/-- The memory that shows the new record has room for it. -/
theorem Stored.room_turned {r : NvmRun} (f : Stored s) (hr : s.store.run = some r) (h : NvmShows c w) (hw : s.store.turned r.job = some w) :
    RoomLaw (s.withNvm c) := by
  have hj : ∃ i R, r.job.commits = some (i, R) := by
    cases e : r.job with
    | scan c => rw [e] at hw; cases hw
    | installKey => rw [e] at hw; cases hw
    | append i R p n => exact ⟨_, _, rfl⟩
    | newPage i R => exact ⟨_, _, rfl⟩
    | compact i R x q => exact ⟨_, _, rfl⟩
  obtain ⟨i, R, hj⟩ := hj
  obtain ⟨_, a, ha, e⟩ := f.running r i R hr hj
  refine f.room.nvm fun g hg => ?_
  rw [h.1] at hg
  rcases Store.turned_targets f.core.1.sorted hw hj g hg with h' | ⟨g', h1, h2⟩
  · exact .inr ⟨i, a, ha, by rw [e, h']⟩
  · exact .inl ⟨g', by rw [f.governing]; exact h1, h2⟩

/-- What the end of a step leaves of the store, before its operation is judged. -/
structure StepEnd (s : State) (r : NvmRun) (st : NvmStep) (c : Memory) (ok : Bool) (t : Store) : Prop where
  governing : t.governing = s.store.governing
  activePage : t.activePage = s.store.activePage
  activeSeq : t.activeSeq = s.store.activeSeq
  appendPos : t.appendPos = s.store.appendPos
  ops : t.ops = s.store.ops
  run : t.run = s.store.run
  erased : ∀ p, t.erasedFlag p = true → unitErased c (.page p) = true
  wf : c.wf erasedByte = true
  leaves : st.Leaves s.nvm r.job c
  good : ok = true → c = st.done s.nvm
  bad : ok = false → ¬ st.ReadsAsMeant c

/-- The view of an operation that is no append is that of the store as the step leaves it. -/
theorem StepEnd.rest {r : NvmRun} {st ok} {T : Store} (E : StepEnd s r st c ok T) (h1 : s.store.run = some r)
    (h : ∀ i R p n, r.job ≠ .append i R p n) : s.store.view = T.restView := by
  rw [Store.view_other (by intro r' e; cases h1.symm.trans e; exact h)]
  exact (Store.restView_congr E.governing E.activePage E.activeSeq E.appendPos).symm

theorem stepEnd {r : NvmRun} {st : NvmStep} {rest rb ok} (f : Stored s) (hs : ScrubReadsSound (.nvmStepDone rb) s)
    (h1 : s.store.run = some r) (h2 : r.stepping = true) (h3 : r.steps = st :: rest)
    (h4 : stepResult s.nvm st rb = some (m, ok)) : StepEnd s r st (stepLeaves s.nvm r.job st m ok) ok (s.store.stepEnded st ok) := by
  obtain ⟨e1, e2, e3, e4, e5, e6⟩ := stepEnded_parts s.store st ok
  have hst := (f.core.2.2 r h1).2 h2 st rest h3
  have key : (stepLeaves s.nvm r.job st m ok).wf erasedByte = true ∧ st.Leaves s.nvm r.job (stepLeaves s.nvm r.job st m ok) ∧
      (ok = true → stepLeaves s.nvm r.job st m ok = st.done s.nvm) ∧ (ok = false → ¬ st.ReadsAsMeant (stepLeaves s.nvm r.job st m ok)) := by
    cases ok
    · obtain ⟨k1, k2, k3⟩ := leaves_failed (job := r.job) f.wf h4 fun hj p hp =>
        hs rb r p rest m rfl h1 hj (by rw [h3, hp]) (hp ▸ h4)
      exact ⟨k2, k1, (fun e => by cases e), fun _ => k3⟩
    · have := result_done h4
      show m.wf erasedByte = true ∧ st.Leaves s.nvm r.job m ∧ (_ → m = _) ∧ _
      rw [this]
      exact ⟨wf_done f.wf st, done_leaves f.wf st, fun _ => rfl, (fun e => by cases e)⟩
  obtain ⟨k1, k2, k3, k4⟩ := key
  exact ⟨e1, e2, e3, e4, e5, e6, flags_ended f.wf k1 f.core.2.1 hst k2 k3, k1, k2, k3, k4⟩

/-- The scan's steps keep what the memory shows. -/
theorem Stored.scan_step {r : NvmRun} {st rest cause} (f : Stored s) (h1 : s.store.run = some r) (h3 : r.steps = st :: rest)
    (hj : r.job = .scan cause)
    (hl : st.Leaves s.nvm r.job c) : NvmShows c s.store.view ∧ ∀ st' ∈ rest, ∃ u, st' = .erase u ∧ ∀ p, s.store.activePage = some p → u ≠ .page p :=
    by
  have h := (f.core.2.2 r h1).1
  rw [hj] at h; dsimp only at h; rw [h3] at h
  obtain ⟨u, rfl, hu⟩ := h st (by simp)
  exact ⟨f.core.1.leaves_erase hu hl, fun st' hs => h st' (by simp [hs])⟩

/-- The steps of any other operation keep it or turn it. -/
theorem Stored.safe_steps {r : NvmRun} {st rest} (f : Stored s) (h1 : s.store.run = some r) (h3 : r.steps = st :: rest) (hj : ∀ c, r.job ≠ .scan c) :
    StepsSafe r.job (s.store.turned r.job) s.store.view s.nvm (st :: rest) := by
  have h := (f.core.2.2 r h1).1
  rw [h3] at h
  cases e : r.job with
  | scan c => exact absurd e (hj c)
  | _ => rw [e] at h; exact h

/-- The store goes on with no operation run, having dropped the head of its queue or kept it. -/
theorem Stored.settleIdle {T : Store} (f : Stored s) (hw : c.wf erasedByte = true) (hr : T.run = none) (ho : T.ops.Sublist s.store.ops)
    (hv : NvmShows c T.restView)
    (he : ∀ p, T.erasedFlag p = true → unitErased c (.page p) = true) (hroom : RoomLaw (s.withNvm c)) : Stored ((s.withNvm c).withStore T) := by
  refine f.settle hw ⟨?_, he, fun r h => by rw [hr] at h; cases h⟩ ho (fun r i v h => by rw [hr] at h; cases h) hroom
  rw [Store.view_other (by rw [hr]; intro r h; cases h)]; exact hv

theorem Stored.finishScan (f : Stored s) (c r) : Stored (finishScan c r s) := by
  unfold Machine.finishScan
  have g := f.queueRecord (.restarted c r)
  exact { once := g.once, queued := g.queued, running := g.running, room := g.room, wf := g.wf, core := g.core, awake := fun h => by cases h }

/-- The operation goes on with its rest. -/
theorem Stored.settleNext {r : NvmRun} {J : NvmJob} {st rest ok} {T : Store} (f : Stored s) (h1 : s.store.run = some r) (E : StepEnd s r st c ok T)
    (hJ : r.job = J) (hv : NvmShows c s.store.view)
    (hs : (∀ k, r.job ≠ .scan k) → StepsSafe r.job (s.store.turned r.job) s.store.view c rest)
    (hscan : ∀ k, r.job = .scan k → ∀ st' ∈ rest, ∃ u, st' = .erase u ∧ ∀ p, s.store.activePage = some p → u ≠ .page p) :
    Stored ((s.withNvm c).withStore { T with run := some { job := J, steps := rest, stepping := false } }) := by
  subst hJ
  have ev : Store.view { T with run := some { r with steps := rest, stepping := false } } = s.store.view :=
    Store.view_congr E.governing E.activePage E.activeSeq E.appendPos (by rw [h1]; rfl)
  have et : Store.turned { T with run := some { r with steps := rest, stepping := false } } r.job = s.store.turned r.job :=
    Store.turned_congr E.governing E.activePage E.activeSeq E.appendPos _
  refine f.settle E.wf ⟨ev ▸ hv, E.erased, fun r' h => ?_⟩ (by rw [← E.ops]) (fun r' i v h hj => ?_) (f.room_same hv rfl)
  · cases h
    refine ⟨?_, fun h => by cases h⟩
    cases e : r.job with
    | scan k =>
      show ∀ st ∈ rest, ∃ u, st = .erase u ∧ ∀ p, T.activePage = some p → u ≠ .page p
      rw [E.activePage]; exact hscan k e
    | _ =>
      have := hs (fun k h => by rw [e] at h; cases h)
      rw [← ev, ← et, e] at this; exact this
  · cases h
    show T.ops.head? = _ ∧ _
    rw [E.ops]; exact f.running r i v h1 hj

/-- A commit ends: its operation leaves the queue and its stream moves on. -/
theorem Stored.settleCommit {r : NvmRun} {T : Store} {i : StreamNo} {R : VersionRecord} (f : Stored s) (h1 : s.store.run = some r)
    (hj : r.job.commits = some (i, R)) (hw : c.wf erasedByte = true) (ho : T.ops = s.store.ops)
    (hv : NvmShows c T.restView)
    (he : ∀ p, T.erasedFlag p = true → unitErased c (.page p) = true) (hroom : RoomLaw (s.withNvm c)) :
    Stored ((s.withNvm c).withStore T.popOp) ∧ .commit i ∉ T.popOp.ops := by
  refine ⟨f.settleIdle hw rfl ?_ hv he hroom, ?_⟩
  · rw [← ho]; exact List.tail_sublist _
  · show _ ∉ T.ops.tail
    rw [ho]
    exact not_mem_tail (f.running r i R h1 hj).1 (f.once i)

/-- After a step that succeeded. -/
theorem Stored.afterGoodStep {r : NvmRun} {st : NvmStep} {rest : List NvmStep} {T : Store} (f : Stored s) (h1 : s.store.run = some r)
    (h3 : r.steps = st :: rest) (E : StepEnd s r st c true T) : Stored (afterGoodStep r st rest ((s.withNvm c).withStore T)) := by
  have hd : c = st.done s.nvm := E.good rfl
  have safe (hj : ∀ k, r.job ≠ .scan k) := f.safe_steps h1 h3 hj
  -- a step that does not turn the operation
  have keep (hj : ∀ k, r.job ≠ .scan k) (ht : r.job.turns st rest = false) : NvmShows c s.store.view ∧
      StepsSafe r.job (s.store.turned r.job) s.store.view c rest := by
    have h := safe hj
    unfold StepsSafe at h; rw [if_neg (by rw [ht]; simp)] at h
    rw [hd]; exact h.2
  -- the step that turns it
  have turn (hj : ∀ k, r.job ≠ .scan k) (ht : r.job.turns st rest = true) : ∃ w, s.store.turned r.job = some w ∧ NvmShows c w ∧
      StepsSafe r.job none w c rest := by
    have h := safe hj
    unfold StepsSafe at h; rw [if_pos ht] at h
    obtain ⟨w, a1, _, a2⟩ := h
    rw [hd]; exact ⟨w, a1, a2⟩
  unfold Machine.afterGoodStep; dsimp only
  cases hjob : r.job with
  | scan k =>
    have hl := E.leaves
    obtain ⟨a1, a2⟩ := f.scan_step h1 h3 hjob hl
    dsimp only; split
    · refine Stored.finishScan ?_ _ _
      refine f.settleIdle (T := { T with run := none }) E.wf rfl (by rw [← E.ops]) ?_ E.erased (f.room_same a1 rfl)
      rw [E.rest h1 (by rw [hjob]; intros; simp)] at a1; exact a1
    · exact f.settleNext h1 E hjob a1 (fun h => absurd hjob (h k)) (fun _ _ => a2)
  | append i R p n =>
    dsimp only; split
    · rename_i hr
      obtain ⟨w, b1, b2, _⟩ := turn (by rw [hjob]; intros; simp) (by rw [hjob]; exact hr)
      have hroom := f.room_turned h1 b2 b1
      rw [hjob] at b1; cases b1
      obtain ⟨g, hn⟩ := f.settleCommit (T := { T with governing := putRow { record := R, page := p, slot := n } T.governing, appendPos := T.appendPos + 1 })
        h1 (by rw [hjob]; rfl) E.wf E.ops (by rw [E.governing, E.activePage, E.activeSeq, E.appendPos]; exact b2) E.erased hroom
      exact g.commitEnded hn _
    · rename_i hr
      obtain ⟨b1, b2⟩ := keep (by rw [hjob]; intros; simp) (by rw [hjob]; simpa [NvmJob.turns] using hr)
      exact f.settleNext h1 E hjob b1 (fun _ => b2) (fun k e => by rw [hjob] at e; cases e)
  | compact i R x q =>
    dsimp only; split
    · rename_i hr
      obtain ⟨b1, b2⟩ := keep (by rw [hjob]; intros; simp) (by rw [hjob]; unfold NvmJob.turns; rw [hr]; rfl)
      obtain ⟨g, hn⟩ := f.settleCommit (T := T) h1 (by rw [hjob]; rfl) E.wf E.ops
        (by rw [← E.rest h1 (by rw [hjob]; intros; simp)]; exact b1) E.erased (f.room_same b1 rfl)
      exact g.commitEnded hn _
    · rename_i hr
      split
      · rename_i hst
        obtain ⟨w, b1, b2, b3⟩ := turn (by rw [hjob]; intros; simp) (by
          rw [hjob]; unfold NvmJob.turns
          simp only [Bool.and_eq_true, Bool.not_eq_true', beq_iff_eq]
          exact ⟨by simpa using hr, hst⟩)
        have hroom := f.room_turned h1 b2 b1
        rw [hjob] at b1 b3
        change (if s.store.activePage = some x then none else some _) = some w at b1; split at b1
        · cases b1
        · injection b1 with b1
          have ev : Store.view { pageSwitched T x q R with run := some { job := .compact i R x q, steps := rest, stepping := false } } = w := by
            rw [Store.view_other (by intro r' h; cases h; intros; simp), ← b1]
            simp only [pageSwitched, E.governing]
          refine f.settle (t := { pageSwitched T x q R with run := some { job := .compact i R x q, steps := rest, stepping := false } }) E.wf
            ⟨by rw [ev]; exact b2, E.erased, fun r' h => ?_⟩ (by show T.ops.Sublist _; rw [E.ops]) (fun r' j v h hj => ?_) hroom
          · cases h
            refine Store.RunSafe.of_steps ?_ (by intros; simp) rfl
            have e : ∀ X, Store.turned { pageSwitched T x q R with run := X } (.compact i R x q) = none := fun _ => if_pos rfl
            rw [ev]
            show StepsSafe (.compact i R x q) (Store.turned { pageSwitched T x q R with run := _ } (.compact i R x q)) w c rest
            rw [e]; exact b3
          · cases h
            show T.ops.head? = _ ∧ _
            rw [E.ops]; exact f.running r j v h1 (by rw [hjob]; exact hj)
      · rename_i hst
        obtain ⟨b1, b2⟩ := keep (by rw [hjob]; intros; simp) (by
          rw [hjob]; unfold NvmJob.turns
          simp only [Bool.and_eq_false_iff, beq_eq_false_iff_ne]; exact .inr hst)
        exact f.settleNext h1 E hjob b1 (fun _ => b2) (fun k e => by rw [hjob] at e; cases e)
  | newPage i R =>
    dsimp only; split
    · rename_i hr
      obtain ⟨w, b1, b2, _⟩ := turn (by rw [hjob]; intros; simp) (by rw [hjob]; exact hr)
      have hroom := f.room_turned h1 b2 b1
      rw [hjob] at b1; cases b1
      obtain ⟨g, hn⟩ := f.settleCommit (T := pageSwitched T .a 1#32 R)
        h1 (by rw [hjob]; rfl) E.wf E.ops (by simp only [pageSwitched, E.governing]; exact b2) E.erased hroom
      exact g.commitEnded hn _
    · rename_i hr
      obtain ⟨b1, b2⟩ := keep (by rw [hjob]; intros; simp) (by rw [hjob]; simpa [NvmJob.turns] using hr)
      exact f.settleNext h1 E hjob b1 (fun _ => b2) (fun k e => by rw [hjob] at e; cases e)
  | installKey =>
    obtain ⟨b1, b2⟩ := keep (by rw [hjob]; intros; simp) (by rw [hjob]; rfl)
    dsimp only; split
    · refine f.settleIdle (T := { T.popOp with keyState := .installed }) E.wf rfl ?_ ?_ E.erased (f.room_same b1 rfl)
      · rw [← E.ops]; exact List.tail_sublist _
      · rw [E.rest h1 (by rw [hjob]; intros; simp)] at b1; exact b1
    · exact f.settleNext h1 E hjob b1 (fun _ => b2) (fun k e => by rw [hjob] at e; cases e)

/-- After a step that failed. -/
theorem Stored.afterBadStep {r : NvmRun} {st : NvmStep} {rest : List NvmStep} {T : Store} (f : Stored s) (h1 : s.store.run = some r)
    (h3 : r.steps = st :: rest) (E : StepEnd s r st c false T) : Stored (afterBadStep r st rest ((s.withNvm c).withStore T)) := by
  -- a failed step of an operation that is not the scan keeps what the memory shows
  have keep (hj : ∀ k, r.job ≠ .scan k) : NvmShows c s.store.view := by
    have h := f.safe_steps h1 h3 hj
    unfold StepsSafe at h; split at h
    · obtain ⟨w, _, a, _⟩ := h
      exact (a c E.leaves).resolve_right fun h => E.bad rfl h.2
    · exact h.1 c E.leaves
  unfold Machine.afterBadStep; dsimp only
  cases hjob : r.job with
  | scan k =>
    obtain ⟨a1, a2⟩ := f.scan_step h1 h3 hjob E.leaves
    have scan {T' : Store} (E : StepEnd s r st c false T') : Stored (if rest.isEmpty then Machine.finishScan k .recovered ((s.withNvm c).withStore { T' with run := none })
        else (s.withNvm c).withStore { T' with run := some { job := .scan k, steps := rest, stepping := false } }) := by
      split
      · refine Stored.finishScan ?_ _ _
        refine f.settleIdle (T := { T' with run := none }) E.wf rfl (by rw [← E.ops]) ?_ E.erased (f.room_same a1 rfl)
        rw [E.rest h1 (by rw [hjob]; intros; simp)] at a1; exact a1
      · exact f.settleNext h1 E hjob a1 (fun h => absurd hjob (h k)) (fun _ _ => a2)
    dsimp only
    by_cases hst : st = .erase .key
    · rw [if_pos hst]
      exact scan (T' := { T with keyState := .failed }) ⟨E.1, E.2, E.3, E.4, E.5, E.6, E.7, E.8, E.9, E.10, E.11⟩
    · rw [if_neg hst]
      exact scan E
  | append i R p n =>
    have b1 := keep (by rw [hjob]; intros; simp)
    rw [Store.view_append h1 hjob] at b1
    obtain ⟨g, hn⟩ := f.settleCommit (T := { T with appendPos := T.appendPos + 1 }) h1 (by rw [hjob]; rfl) E.wf E.ops
      (by rw [E.governing, E.activePage, E.activeSeq, E.appendPos]; exact b1) E.erased (f.room_same b1 rfl)
    exact g.storeFailed hn
  | compact i R x q =>
    have b1 := keep (by rw [hjob]; intros; simp)
    have b2 := b1
    rw [E.rest h1 (by rw [hjob]; intros; simp)] at b2
    dsimp only; split
    · obtain ⟨g, hn⟩ := f.settleCommit (T := T) h1 (by rw [hjob]; rfl) E.wf E.ops b2 E.erased (f.room_same b1 rfl)
      exact g.commitEnded hn _
    · obtain ⟨g, hn⟩ := f.settleCommit (T := T) h1 (by rw [hjob]; rfl) E.wf E.ops b2 E.erased (f.room_same b1 rfl)
      obtain ⟨p1, p2, p3, p4, p5, p6, p7⟩ := setErased_parts T.popOp x false
      refine Stored.storeFailed (s := (s.withNvm c).withStore (T.popOp.setErased x false)) ?_ (by show _ ∉ (T.popOp.setErased x false).ops; rw [p5]; exact hn)
      refine f.settleIdle E.wf (by rw [p6]; rfl) ?_ (by rw [Store.restView_congr p1 p2 p3 p4]; exact b2) (fun y hy => ?_) (f.room_same b1 rfl)
      · rw [p5, ← E.ops]; exact List.tail_sublist _
      · rw [p7] at hy; split at hy
        · cases hy
        · exact E.erased y hy
  | newPage i R =>
    have b1 := keep (by rw [hjob]; intros; simp)
    have b2 := b1
    rw [E.rest h1 (by rw [hjob]; intros; simp)] at b2
    obtain ⟨g, hn⟩ := f.settleCommit (T := T) h1 (by rw [hjob]; rfl) E.wf E.ops b2 E.erased (f.room_same b1 rfl)
    obtain ⟨p1, p2, p3, p4, p5, p6, p7⟩ := setErased_parts T.popOp .a false
    refine Stored.storeFailed (s := (s.withNvm c).withStore (T.popOp.setErased .a false)) ?_ (by show _ ∉ (T.popOp.setErased .a false).ops; rw [p5]; exact hn)
    refine f.settleIdle E.wf (by rw [p6]; rfl) ?_ (by rw [Store.restView_congr p1 p2 p3 p4]; exact b2) (fun y hy => ?_) (f.room_same b1 rfl)
    · rw [p5, ← E.ops]; exact List.tail_sublist _
    · rw [p7] at hy; split at hy
      · cases hy
      · exact E.erased y hy
  | installKey =>
    have b1 := keep (by rw [hjob]; intros; simp)
    have b2 := b1
    rw [E.rest h1 (by rw [hjob]; intros; simp)] at b2
    exact f.settleIdle (T := { T.popOp with keyState := .failed }) E.wf rfl (by rw [← E.ops]; exact List.tail_sublist _) b2 E.erased (f.room_same b1 rfl)

/-- The end of a step. -/
theorem Stored.nvmStepDone {rb} (f : Stored s) (hs : ScrubReadsSound (.nvmStepDone rb) s) (h : execNvmStepDone rb s = .next t) : Stored t := by
  unfold execNvmStepDone at h; split at h
  · cases h
  rename_i r h1
  split at h
  · cases h
  rename_i st rest h3
  split at h
  · cases h
  rename_i h2
  split at h
  · cases h
  rename_i m ok h4
  have E := stepEnd f hs h1 (by simpa using h2) h3 h4
  injection h with h
  rw [← h]
  refine Stored.runStore ?_
  cases ok
  · exact f.afterBadStep h1 h3 E
  · exact f.afterGoodStep h1 h3 E

/-! ## Every command -/

theorem Stored.changeSupply (f : Stored s) : Stored (changeSupply s) := by
  unfold Machine.changeSupply resumeWork; dsimp only
  have g := (f.of_touches (touches_withSupply s { state := s.supply.state.flipped, filter := none })).queueRecord (.supply s.supply.state.flipped)
  split
  · exact g.startAllHeld.startStep
  · exact g
theorem Stored.compareSupply (f : Stored s) : Stored (compareSupply s) := by
  unfold Machine.compareSupply; repeat' split
  exacts [f, f.changeSupply, f.of_touches (touches_withSupply s _), f.of_touches (touches_withSupply s _)]
theorem Stored.afterParam (f : Stored s) (n) : Stored (afterParam n s) := by
  unfold Machine.afterParam; split
  exacts [f.of_touches (touches_emit s), f.compareSupply, f]
theorem Stored.moveSense {mv : Nat} (f : Stored s) (hm : ¬ mv < resetLevelMv) (h : moveSense mv s = .next t) : Stored t := by
  unfold Machine.moveSense at h; rw [if_neg hm] at h; split at h <;> cases h
  · exact f.of_touches (touches_withPins s _)
  · exact (f.of_touches (touches_withPins s _)).compareSupply
theorem Stored.respond (f : Stored s) (l g) : Stored (respond l g s) := f.of_touches (touches_respond s l g)
theorem Stored.judge {l g held n o} (f : Stored s) (fo : Stored o.state) (h : judgeRequest l g held n s o = .next t) : Stored t := by
  rcases (judgeRequest_next h).2.2 with ⟨_, rfl⟩ | ⟨_, rfl⟩
  exacts [f.respond _ _, fo.respond _ _]

/-- Every command that is no reset keeps `Stored`. -/
theorem stored_exec (c : Instr) (hc : isReset c = false) (hs : ScrubReadsSound c s) (h : exec c s = .next t) (f : Stored s) : Stored t := by
  have rd (m) (l) (g) (h : judgeTableRead m l g s = .next t) : Stored t := by
    refine f.judge ?_ h
    unfold tableReadReply; dsimp only; repeat' split
    all_goals first | exact f | exact f.of_touches (touches_withInterp s _)
  cases c with
  | powerOnReset mv low => cases hc
  | startUp mv => cases hc
  | segmentFrame l g => cases h; exact f.receiveFrame _ _ _
  | controlFrame l g => cases h; exact f.receiveFrame _ _ _
  | otherTrunkFrame l d g => cases h; exact f.receiveFrame _ _ _
  | quarantineExpiry l =>
    simp only [exec, execQuarantineExpiry] at h; split at h <;> cases h
    · exact (f.of_touches (touches_setLane s _ _)).queueRecord _
    · exact f
  | manifestBegin l g =>
    refine f.judge ?_ h
    unfold manifestBeginReply; dsimp only; repeat' split
    all_goals first
      | exact f
      | exact f.beginLoad (by simp_all) _ _
  | manifestData l g =>
    refine f.judge ?_ h
    unfold manifestDataReply; dsimp only; repeat' split
    all_goals first | exact f | exact f.of_touches (touches_takeManifestData s _ _ _)
  | manifestEnd l g =>
    refine f.judge ?_ h
    unfold manifestEndReply; dsimp only; repeat' split
    all_goals first
      | exact f
      | exact f.beginAuthentication (by simp_all) _
  | streamStart l g =>
    refine f.judge ?_ h
    unfold streamStartReply; dsimp only; repeat' split
    all_goals first
      | exact f
      | exact f.startStream (by simp_all) _ _
  | streamLanes l g =>
    refine f.judge ?_ h
    unfold streamLanesReply; dsimp only; repeat' split
    all_goals first | exact f | exact f.setStreamSame
  | streamAbort l g =>
    refine f.judge ?_ h
    unfold streamReply; dsimp only; split
    exacts [f, f.abortStream _]
  | streamClose l g =>
    refine f.judge ?_ h
    unfold streamReply; dsimp only; split
    exacts [f, f.closeStream _]
  | keyInstall l g =>
    refine f.judge ?_ h
    unfold keyInstallReply; dsimp only; split
    · refine Stored.joinOps ?_ fun i e => by cases e
      exact { once := f.once, queued := f.queued, running := f.running, room := f.room, wf := f.wf, awake := f.awake, core := StoreCore.withKeyState f.core _ }
    · exact f
  | flush l g => exact f.judge ((f.of_touches (touches_withReport s _)).of_touches (touches_beginDrain _)) h
  | snapshot l g => exact f.judge (f.of_touches (touches_takeSnapshot s)) h
  | paramWrite l g =>
    refine f.judge ?_ h
    unfold paramWriteReply; dsimp only; repeat' split
    all_goals first | exact f | exact (f.of_touches (touches_withParams s _)).afterParam _
  | paramRead l g => exact f.judge f h
  | tableSelect l g =>
    refine f.judge ?_ h
    unfold tableSelectReply; dsimp only; split
    exacts [f.of_touches (touches_withInterp s _), f]
  | cursorSet l g =>
    refine f.judge ?_ h
    unfold cursorSetReply; dsimp only; split
    exacts [f.of_touches (touches_withInterp s _), f]
  | direct l g => exact rd _ _ _ h
  | atCursor l g => exact rd _ _ _ h
  | postInc l g => exact rd _ _ _ h
  | preInc l g => exact rd _ _ _ h
  | offset l g => exact rd _ _ _ h
  | restart l g => exact f.judge (f.of_touches (touches_withInterp s _)) h
  | unknownCode l g => exact f.judge f h
  | noCodeFrame l g => exact f.judge f h
  | trunkTxEnd l o =>
    simp only [exec, execTrunkTxEnd] at h; repeat' split at h
    all_goals cases h
    · exact f
    all_goals refine Stored.of_touches (Stored.of_touches (Stored.of_touches (Stored.of_touches ?_ (touches_setTrunk _ _ _)) (touches_handOver _ _)) (touches_serveLane _)) (touches_emit _)
    · exact f.of_touches (touches_withInterp s _)
    · exact f
  | blockJobDone =>
    simp only [exec, execBlockJobDone] at h; repeat' split at h
    all_goals cases h
    all_goals first | exact f | exact (f.jobLeft.blockOutcome _).judgeHead
  | macJobDone =>
    simp only [exec, execMacJobDone] at h; repeat' split at h
    all_goals cases h
    all_goals first | exact f | exact (f.jobLeft.macOutcome _).judgeHead
  | branchTxEnd p o =>
    simp only [exec, execBranchTxEnd] at h; split at h <;> cases h
    exacts [f, ((f.setPort _ _).frameEnded _).servePort p]
  | branchFrame p d g =>
    simp only [exec, execBranchFrame] at h; repeat' split at h
    all_goals cases h
    exacts [f, f.countStream _ _, f.countStream _ _, f.judgeAck _ _ _]
  | written p d c => cases h; exact f.takeAck _ _ _ _
  | busy p d c => cases h; exact f.takeAck _ _ _ _
  | rejected p d c => cases h; exact f.takeAck _ _ _ _
  | activated p d c => cases h; exact f.takeAck _ _ _ _
  | ackTimeout i =>
    simp only [exec, execAckTimeout] at h; repeat' split at h
    all_goals cases h
    · rename_i hk; exact f.blockTimeout (ackSubject_block hk).1 _ _ _
    · rename_i hk; exact f.endTimeout (ackSubject_end hk) _
    all_goals exact f
  | nvmStepDone rb => exact f.nvmStepDone hs h
  | stallExpiry i =>
    simp only [exec, execStallExpiry] at h; repeat' split at h
    all_goals cases h
    · rename_i hs _ _ _; exact f.stallGap hs.2 _
    · exact f.setStreamSame
    · exact f
  | quietExpiry i l =>
    simp only [exec, execQuietExpiry] at h; repeat' split at h
    all_goals cases h
    all_goals first | exact f | exact Stored.queueRecord (f.setStreamSame) _
  | departureBegin mv => exact f.moveSense (by simpa [isReset] using hc) h
  | departureEnd mv => exact f.moveSense (by simpa [isReset] using hc) h
  | filterExpiry =>
    simp only [exec, execFilterExpiry] at h; split at h <;> cases h
    exacts [f.changeSupply, f]
  | packetTimerExpiry =>
    simp only [exec, execPacketTimerExpiry] at h; split at h <;> cases h
    exacts [f.of_touches (touches_beginDrain s), f]
  | absoluteTimerExpiry =>
    simp only [exec, execAbsoluteTimerExpiry] at h; split at h <;> cases h
    exacts [f.of_touches (touches_beginDrain s), f]

/-! ## Resets -/

/-- The streams and the queue of a reset part have no commit. -/
theorem commitLaw_of_idle (h1 : s.store.ops = []) (h2 : s.store.run = none ∨ ∃ r, s.store.run = some r ∧ r.job.commits = none) : CommitLaw s := by
  refine ⟨fun i => by rw [h1]; simp, fun r i v hr hj => ?_⟩
  rcases h2 with h2 | ⟨r', h2, h3⟩
  · rw [h2] at hr; cases hr
  · rw [h2] at hr; cases hr; rw [h3] at hj; cases hj

theorem StoreLaw.stored (h : StoreLaw s) (hp : s.phase ≠ .inReset) : Stored s := by
  obtain ⟨h1, h2, h3, h4, h5⟩ := h
  exact { once := fun i => (h4.1 i).1, queued := fun i => (h4.1 i).2, running := h4.2, room := h3, wf := h1, core := h5 hp, awake := hp }

theorem NvmShows.seq_ne {v : StoreView} (h : NvmShows m v) : (scannedStore m).activeSeq ≠ some 0xFFFFFFFF#32 := by rw [h.2.2.1]; exact h.2.2.2.1

theorem Stored.law (f : Stored s) : StoreLaw s :=
  ⟨f.wf, f.core.1.seq_ne, f.room, ⟨fun i => ⟨f.once i, f.queued i⟩, f.running⟩, fun _ => f.core⟩

/-- A scan finds what the memory shows. -/
theorem shows_scanned (h : (scannedStore m).activeSeq ≠ some 0xFFFFFFFF#32) : NvmShows m (scannedStore m).view := by
  refine ⟨rfl, rfl, rfl, h, fun p n h1 h2 h3 => ?_⟩
  change findActive m = some p at h1
  have e : (scannedStore m).view.freeFrom = scanAppend m p := by
    show (match findActive m with | some p => scanAppend m p | none => 0) = _
    rw [h1]
  rw [e] at h2
  exact (scanAppend_spec m p).2.1 n h2 h3

/-- What a start-up scan leaves (R130, R131). -/
theorem Stored.startScan (hw : s.nvm.wf erasedByte = true) (hq : (scannedStore s.nvm).activeSeq ≠ some 0xFFFFFFFF#32) (hr : RoomLaw s)
    (hp : s.phase ≠ .inReset) (cause) :
    Stored (startScan cause s) := by
  have hS := shows_scanned hq
  have he : ∀ p, (scannedStore s.nvm).erasedFlag p = true → unitErased s.nvm (.page p) = true := by
    intro p h
    cases p
    · change (_ && unitErased s.nvm (.page .a)) = true at h; simp only [Bool.and_eq_true] at h; exact h.2
    · change (_ && unitErased s.nvm (.page .b)) = true at h; simp only [Bool.and_eq_true] at h; exact h.2
  have mk (T : Store) (ho : T.ops = []) (hrun : T.run = none ∨ ∃ r, T.run = some r ∧ r.job.commits = none) (hc : StoreCore s.nvm T) : Stored (s.withStore T) := by
    have hl := commitLaw_of_idle (s := s.withStore T) ho hrun
    exact { once := fun i => (hl.1 i).1, queued := fun i => (hl.1 i).2, running := hl.2, room := hr, wf := hw, core := hc, awake := hp }
  unfold Machine.startScan; dsimp only
  split
  · refine Stored.finishScan (mk _ rfl (.inl rfl) ⟨hS, he, fun r h => by cases h⟩) _ _
  · rename_i us hus
    refine Stored.startStep (mk _ rfl (.inr ⟨_, rfl, rfl⟩) ⟨hS, he, fun r h => ?_⟩)
    cases h
    refine ⟨fun st hst => ?_, fun h => by cases h⟩
    obtain ⟨u, hu, rfl⟩ := List.mem_map.mp hst
    refine ⟨u, rfl, fun p hp' => ?_⟩
    change findActive s.nvm = some p at hp'
    unfold scrubUnits at hu
    rw [hp'] at hu
    rcases List.mem_append.mp hu with hu | hu
    · have := (List.mem_filter.mp hu).2
      simp only [Bool.and_eq_true, bne_iff_ne] at this; exact this.1
    · intro e; subst e
      split at hu
      · simp at hu
      · cases hu

/-- A part held in power-on reset takes nothing of a command that is no reset but the sensed voltage. -/
theorem held_exec {c : Instr} (hr : isReset c = false) (hp : HeldLaw s) (hph : s.phase = .inReset) (h : exec c s = .next t) :
    t = s.withPins t.pins := by
  have e := hp hph
  generalize hv : volatileReset s .inReset s.pins Params.default = v at e
  have v1 : ∀ i : StreamNo, v.streams[i] = Stream.vacant := by intro i; rw [← hv]; simp [volatileReset, State.reset]
  have v2 : ∀ l : Lane, v.lanes[l].quarantine = none := by intro i; rw [← hv]; simp [volatileReset, State.reset, LaneRx.idle]
  have v3 : ∀ l : Lane, v.trunk[l].sending = none := by intro i; rw [← hv]; simp [volatileReset, State.reset, TrunkTx.idle]
  have v4 : ∀ p : Port, v.ports[p].position = none := by intro i; rw [← hv]; simp [volatileReset, State.reset, BranchPort.idle]
  have v5 : ∀ i : StreamNo, v.contexts[i].ackTimer = none := by intro i; rw [← hv]; simp [volatileReset, State.reset, ReleaseCtx.idle]
  have v6 : v.engine.busy = false := by rw [← hv]; rfl
  have v7 : v.store.run = none := by rw [← hv]; rfl
  have v8 : v.supply.filter = none := by rw [← hv]; rfl
  have v9 : v.interp.judging = none := by rw [← hv]; rfl
  have va : v.report.packet = none ∧ v.report.absolute = none := by rw [← hv]; exact ⟨rfl, rfl⟩
  have ack : ∀ p d, ackStream v p d = none := by
    intro p d; unfold ackStream; rw [List.find?_eq_none]; intro i _; rw [v1]; simp [Stream.vacant]
  subst e
  clear hv
  have take : ∀ p d b r, takeAck p d b r s = s := fun p d b r => by unfold takeAck; rw [ack]
  have req : ∀ {l f held n o}, judgeRequest l f held n s o ≠ .next t := fun h => by
    have := (judgeRequest_next h).1; rw [v9] at this; cases this
  have frame : ∀ l d f, receiveFrame l d f s = s := fun l d f => by unfold receiveFrame; rw [if_pos (by rw [hph]; decide)]
  have sense : ∀ mv, ¬ mv < resetLevelMv → moveSense mv s = .next t → t = s.withPins t.pins := fun mv hm h => by
    unfold moveSense at h; rw [if_neg hm, if_pos hph] at h; cases h; rfl
  have same : ∀ u, u = s → (Host.Outcome.next u : Host.Outcome State Fault Refusal) = .next t → t = s.withPins t.pins := fun u e h => by
    injection h with h; rw [← h, e]; rfl
  cases c with
  | powerOnReset mv low => cases hr
  | startUp mv => cases hr
  | departureBegin mv => exact sense mv (by simpa [isReset] using hr) h
  | departureEnd mv => exact sense mv (by simpa [isReset] using hr) h
  | segmentFrame => exact same _ (frame _ _ _) h
  | controlFrame => exact same _ (frame _ _ _) h
  | otherTrunkFrame => exact same _ (frame _ _ _) h
  | quarantineExpiry l => simp only [exec, execQuarantineExpiry, v2, Option.isSome_none] at h; exact same _ rfl h
  | trunkTxEnd l o => simp only [exec, execTrunkTxEnd, v3] at h; exact same _ rfl h
  | blockJobDone => simp only [exec, execBlockJobDone, v6] at h; exact same _ rfl h
  | macJobDone => simp only [exec, execMacJobDone, v6] at h; exact same _ rfl h
  | branchTxEnd p o => simp only [exec, execBranchTxEnd, v4] at h; exact same _ rfl h
  | branchFrame p d f => simp only [exec, execBranchFrame, ack] at h; exact same _ rfl h
  | written p d b => exact same _ (take ..) h
  | busy p d b => exact same _ (take ..) h
  | rejected p d b => exact same _ (take ..) h
  | activated p d b => exact same _ (take ..) h
  | ackTimeout i => simp only [exec, execAckTimeout, v5, Option.isSome_none] at h; exact same _ rfl h
  | nvmStepDone rb => simp only [exec, execNvmStepDone, v7] at h; cases h
  | stallExpiry i => simp only [exec, execStallExpiry, v1, Stream.vacant, Option.isSome_none] at h; simp at h; exact same _ rfl (congrArg _ h)
  | quietExpiry i l => simp only [exec, execQuietExpiry, v1] at h; simp [Stream.vacant] at h; exact same _ rfl (congrArg _ h)
  | filterExpiry => simp only [exec, execFilterExpiry, v8, Option.isSome_none] at h; exact same _ rfl h
  | packetTimerExpiry => simp only [exec, execPacketTimerExpiry, va.1, Option.isSome_none] at h; exact same _ rfl h
  | absoluteTimerExpiry => simp only [exec, execAbsoluteTimerExpiry, va.2, Option.isSome_none] at h; exact same _ rfl h
  | _ => exact absurd h req

/-- The record that turns an operation lowers no floor (R134 to R137). -/
theorem Store.turned_floors {t : Store} {r : NvmRun} (hr : t.run = some r) (hw : t.turned r.job = some w) (hk : t.KeepsFloor) :
    FloorsKept t.governing w.governing := by
  unfold Store.KeepsFloor at hk; rw [hr] at hk; dsimp only at hk
  cases hj : r.job with
  | scan c => rw [hj] at hw; cases hw
  | installKey => rw [hj] at hw; cases hw
  | append i R p n =>
    rw [hj] at hw hk; cases hw
    exact floorsKept_putRow (fun _ => rfl) hk
  | newPage i R =>
    rw [hj] at hw hk; cases hw
    exact floorsKept_putRow (fun x => floorOf_moved _ _ x) hk
  | compact i R x q =>
    rw [hj] at hw hk
    change (if t.activePage = some x then none else some _) = some w at hw; split at hw
    · cases hw
    · cases hw; exact floorsKept_putRow (fun x => floorOf_moved _ _ x) hk

/-- What a reset leaves of the memory shows what it showed, or the record of the commit that was cut short; either way it has room and no floor falls
(R126, R139). -/
theorem Stored.cutShort (f : Stored s) : (cutShort s).nvm.wf erasedByte = true ∧ RoomLaw (s.withNvm (cutShort s).nvm) ∧
    ∃ v, NvmShows (cutShort s).nvm v ∧ (s.store.KeepsFloor → FloorsKept s.store.governing v.governing) := by
  refine ⟨wf_cutShort f.wf, ?_⟩
  cases hst : stepInProgress s with
  | none =>
    rw [cutShort_of_none hst]
    exact ⟨f.room, _, f.core.1, fun _ _ => Nat.le_refl _⟩
  | some st =>
    obtain ⟨r, rest, h1, h3, h2⟩ := stepInProgress_run hst
    rw [cutShort_of_some h1 hst]
    have hl := leaves_cutStep (job := r.job) f.wf s.freeIndex st
    show RoomLaw (s.withNvm (cutStep s.nvm s.freeIndex r.job st)) ∧ ∃ v, NvmShows (cutStep s.nvm s.freeIndex r.job st) v ∧ _
    generalize cutStep s.nvm s.freeIndex r.job st = c at hl
    have keep (h : NvmShows c s.store.view) : RoomLaw (s.withNvm c) ∧ ∃ v, NvmShows c v ∧ (s.store.KeepsFloor → FloorsKept s.store.governing v.governing) :=
      ⟨f.room_same h rfl, _, h, fun _ _ => Nat.le_refl _⟩
    by_cases hj : ∃ k, r.job = .scan k
    · obtain ⟨k, hj⟩ := hj
      exact keep (f.scan_step h1 h3 hj hl).1
    · have h := f.safe_steps h1 h3 fun k e => hj ⟨k, e⟩
      unfold StepsSafe at h; split at h
      · obtain ⟨w, b1, b2, _⟩ := h
        rcases b2 c hl with b | ⟨b, _⟩
        · exact keep b
        · exact ⟨f.room_turned h1 b b1, w, b, Store.turned_floors h1 b1⟩
      · exact keep (h.1 c hl)

/-- A reset's state keeps the memory, and its streams hold no manifest. -/
theorem room_volatileReset (h : RoomLaw s) (ph pins ps) : RoomLaw (volatileReset s ph pins ps) := by
  obtain ⟨ts, h1, h2, _⟩ := h
  refine ⟨ts, h1, h2, fun i m hm => ?_⟩
  have : (volatileReset s ph pins ps).streams[i] = Stream.vacant := by simp [volatileReset, State.reset]
  rw [this] at hm; cases hm

theorem KeepsFloor_startScan (c) (s : State) : (startScan c s).store.KeepsFloor := by
  unfold startScan; dsimp only; split
  · have : (finishScan c (scanResult s.nvm) (s.withStore (scannedStore s.nvm))).store = scannedStore s.nvm := touches_finishScan _ _ _ .store (by decide)
    rw [this]; trivial
  · exact (settles_startStep (s := s.withStore _)).store trivial

end Sys2Proof.Machine
end

