-- ==== Sys2Proof/WellFormed.lean ====
section
/-! DEFINITION. Which commands the outside world can send: the checks on a command's operands alone. `exec` does not consult them;
they say which operands stand for something at the part's pins (R148, R152, R181, R126). -/

namespace Sys2Proof

/-- A frame has a valid CAN FD data length (00_scope, Conventions). -/
def frameLengthOk (f : Frame) : Bool := Machine.canFdLengths.contains f.length

/-- A readback is one byte, the key area or a page (R126). -/
def readbackOk (r : Readback) : Bool :=
  match r with
  | .asMeant => true
  | .reads bs => bs.length == 1 || bs.length == Machine.keyAreaSize || bs.length == Machine.pageSize

/-- A request frame of kind `k` (R152). -/
def requestOk (k : Machine.RequestKind) (f : Frame) : Bool := frameLengthOk f && Machine.isRequest k f

/-- A TABLE_READ frame that the row of mode `m` judges (R162). -/
def readOk (m : Machine.ReadMode) (f : Frame) : Bool := frameLengthOk f && Machine.isTableRead m f

/-- The well-formed commands. -/
def Instr.wf (c : Instr) : Bool :=
  match c with
  | .powerOnReset mv low => decide (mv < 6000) || low
  | .startUp mv => decide (6000 ≤ mv)
  | .segmentFrame _ f => frameLengthOk f
  | .controlFrame _ f => frameLengthOk f
  | .otherTrunkFrame _ _ f => frameLengthOk f
  | .quarantineExpiry _ => true
  | .manifestBegin _ f => requestOk .manifestBegin f
  | .manifestData _ f => requestOk .manifestData f
  | .manifestEnd _ f => requestOk .manifestEnd f
  | .streamStart _ f => requestOk .streamStart f
  | .streamLanes _ f => requestOk .streamLanes f
  | .streamAbort _ f => requestOk .streamAbort f
  | .streamClose _ f => requestOk .streamClose f
  | .keyInstall _ f => requestOk .keyInstall f
  | .flush _ f => requestOk .flush f
  | .snapshot _ f => requestOk .snapshot f
  | .paramWrite _ f => requestOk .paramWrite f
  | .paramRead _ f => requestOk .paramRead f
  | .tableSelect _ f => requestOk .tableSelect f
  | .cursorSet _ f => requestOk .cursorSet f
  | .direct _ f => readOk .direct f
  | .atCursor _ f => readOk .atCursor f
  | .postInc _ f => readOk .postInc f
  | .preInc _ f => readOk .preInc f
  | .offset _ f => readOk .offset f
  | .restart _ f => requestOk .restart f
  | .unknownCode _ f => frameLengthOk f && decide (2 ≤ f.length) && (Machine.requestOfCode (Machine.byteAt f 0)).isNone
  | .noCodeFrame _ f => decide (f.length < 2)
  | .trunkTxEnd _ _ => true
  | .blockJobDone => true
  | .macJobDone => true
  | .branchTxEnd _ _ => true
  | .branchFrame _ _ f => frameLengthOk f
  | .written _ _ _ => true
  | .busy _ _ _ => true
  | .rejected _ _ _ => true
  | .activated _ _ _ => true
  | .ackTimeout _ => true
  | .nvmStepDone r => readbackOk r
  | .stallExpiry _ => true
  | .quietExpiry _ _ => true
  | .departureBegin _ => true
  | .departureEnd _ => true
  | .filterExpiry => true
  | .packetTimerExpiry => true
  | .absoluteTimerExpiry => true

end Sys2Proof
end

