-- ==== Sys2Proof/Tests/Slice0.lean ====
section
/-! SUPPORT. The model's own tests: ill-formed commands the checks refuse, worked examples of the manual, and for every statement
with hypotheses a concrete state and operands that meet them, each clause at a boundary of its range. -/

open Sys2Proof Sys2Proof.Machine

namespace Sys2Proof.Tests

-- One proof at a time: elaborated all at once, the proofs of the package as one text ask for more threads than memory allows.
set_option Elab.async false

/-! ## Well-formedness: one ill-formed command per check -/

theorem test_wf_powerOnReset : (Instr.powerOnReset 6000 false).wf = false ∧ (Instr.powerOnReset 5999 false).wf = true := by decide
theorem test_wf_startUp : (Instr.startUp 5999).wf = false ∧ (Instr.startUp 6000).wf = true := by decide
theorem test_wf_frameLength : (Instr.segmentFrame 0 (List.replicate 9 0)).wf = false ∧
    (Instr.controlFrame 0 (List.replicate 65 0)).wf = false ∧ (Instr.branchFrame 0 0 (List.replicate 12 0)).wf = true := by
  decide
theorem test_wf_request : (Instr.flush 0 [0x31, 1]).wf = false ∧ (Instr.flush 0 [0x30]).wf = false ∧
    (Instr.flush 0 [0x30, 1]).wf = true := by decide
theorem test_wf_tableRead : (Instr.direct 0 [0x54, 1, 2]).wf = false ∧ (Instr.postInc 0 [0x54, 1, 2]).wf = true ∧
    (Instr.offset 0 [0x54, 1, 9]).wf = true := by decide
theorem test_wf_unknownCode : (Instr.unknownCode 0 [0x5F, 1]).wf = false ∧ (Instr.unknownCode 0 [0x60, 1]).wf = true := by decide
theorem test_wf_noCodeFrame : (Instr.noCodeFrame 0 [1, 2]).wf = false ∧ (Instr.noCodeFrame 0 [1]).wf = true := by decide
theorem test_wf_readback : (Instr.nvmStepDone (.reads [])).wf = false ∧ (Instr.nvmStepDone (.reads [0xFF])).wf = true := by decide

/-! ## Small states -/

/-- A running part with the supply OK at 12 V. -/
def running : State :=
  { State.reset with
    phase := .running, pins := { senseMv := 12000, resetnLow := false }, supply := { state := .ok, filter := none } }

/-- The same with the supply LOW. -/
def lowSupply : State := running.withSupply { state := .low, filter := none }

/-- `s` judging a request from lane 0. -/
def asked (f : Frame) (s : State) : State := s.withInterp { s.interp with judging := some ⟨0, f⟩ }

/-- A frame of a given length that begins with the bytes given. -/
def padded (n : Nat) (bs : List Byte) : Frame := bs ++ List.replicate (n - bs.length) 0

/-- A manifest: 40 bytes in 5 segments of 8 bytes, two to a block, three blocks, on port 1. -/
def image : Accepted :=
  { format := 1, target := 7, port := 1, releaseId := 0x123, ackId := 0x124, version := 5, newFloor := 3,
    imageLength := 40, segmentUnit := 8, perBlock := 2, blockCount := 3, releaseRetryLimit := 1, blockRetryLimit := 1,
    newTarget := true, imageTag := List.replicate 16 0xAA, reserved := List.replicate 21 0, segmentCount := 5,
    blockLength := 16, lastSegmentLength := 8, lastBlockSegments := 1, lastBlockBytes := 8 }

/-- A stream with that manifest in a given state and stage: window 2, lane 0 an ACTIVE member and lane 1 a QUIET one. -/
def stream (st : StreamState) (g : Option Stage) : Stream :=
  { Stream.vacant with
    state := st, manifest := some image, floorAtAcceptance := some 0, window := 2, reservationHeld := true, stage := g,
    stallTimer := some 500, members := #v[some ⟨.active, some 300⟩, some ⟨.quiet, none⟩, none, none] }

/-- A running part with that stream as stream 0. -/
def live (st : StreamState) (g : Option Stage) : State := running.setStream 0 (stream st g)

/-- A slot held for block `b` of stream 0. -/
def slotFor (b : Nat) (st : SlotState) : Slot :=
  { Slot.free with state := st, holder := some { stream := 0, block := b, expected := image.blockSegments b } }

/-- An ACTIVE stream 0 with slot 0 held for block 0. -/
def holding (st : SlotState) (g : Option Stage) : State := (live .active g).setSlot 0 (slotFor 0 st)

/-! ## Worked examples of the manual -/

/-- The segment frame of section 3.4. -/
def workedFrame : Frame :=
  [0x02, 0x01, 0x03, 0x05, 0x95, 0x01, 0x01, 0xB8, 0xF1, 0x20, 0x9C, 0xE0, 0x07, 0xCC, 0xCC, 0xCC]

theorem test_workedSegment : GoodSegment 1 workedFrame 2 259 ∧ SegmentFault 2 workedFrame .header ∧
    SegmentFault 1 (workedFrame.set 12 0x06) .payload := by
  unfold GoodSegment SegmentFault HeaderPasses; decide

theorem test_recordCheckByte :
    recordBytes { target := 0x0210, version := 0x00020400, floor := 0x00020000, count := 3 } =
      [0x02, 0x10, 0x00, 0x02, 0x04, 0x00, 0x00, 0x02, 0x00, 0x00, 0x00, 0x03, 0x00, 0x00, 0x3D, 0x00] := by decide

theorem test_reportFrame : reportFrame 0 [.supply .low, .window 6 11 2] =
    [0x41, 0x00, 0x07, 0x03, 0x01, 0x02, 0x06, 0x06, 0x00, 0x0B, 0x02, 0xCC] := by decide

theorem test_endFrame : (endFrame { image with version := 0x00020400, blockCount := 6 }).take 4 = [0x00, 0x06, 0x03, 0x00] ∧
    (endFrame image).length = 32 := by decide

/-- SHA-256 of the three bytes "abc", the public definition's own example. -/
theorem test_sha256 : (sha256 [0x61, 0x62, 0x63]).take 4 = [0xBA, 0x78, 0x16, 0xBF] := by decide +kernel

theorem test_startUpEmptyPart : ∃ t, exec (.startUp 12000) State.reset = .next t ∧ t.phase = .running ∧
    t.supply.state = .ok ∧ t.report.lost = 0 ∧ t.trunk[(0 : Lane)].report = some [0x41, 0x00, 0x09, 0x04, 0x00, 0x00] :=
  ⟨_, rfl, by decide, by decide, by decide, by decide⟩

/-- A FLUSH answered from the idle state: response and then the report frame (R154, R174). -/
theorem test_flushAnswer : ∃ t, exec (.flush 0 [0x30, 7]) (asked [0x30, 7] running) = .next t ∧
    t.trunk[(0 : Lane)].response = some [0x40, 0x07, 0x30, 0x00, 0x00, 0x00] ∧
    t.trunk[(0 : Lane)].report = some [0x41, 0x00] ∧ t.interp.judging = none :=
  ⟨_, rfl, by decide, by decide, by decide⟩

/-- A control frame is queued and at once taken by the idle interpreter (R51, R151). -/
theorem test_controlFrameTaken : ∃ t, exec (.controlFrame 2 [0x31, 9]) running = .next t ∧
    t.interp.judging = some ⟨2, [0x31, 9]⟩ ∧ t.interp.lastServed = 2 ∧ t.lanes[(2 : Lane)].queue = [] :=
  ⟨_, rfl, by decide, by decide, by decide⟩

/-! ## Helpers of the witnesses -/

/-- The targets of the compared manifests without a governing record, listed. -/
theorem newTargets_of {s : State} {i : StreamNo} {ts : List Word16} (h : ts.Nodup)
    (e : (((comparedManifests s i).map Accepted.target).filter fun x => (rowOf s.store.governing x).isNone) = ts) :
    NewTargets s i ts := by
  refine ⟨h, fun t => ?_⟩
  rw [← e, List.mem_filter, rowOf_isNone_iff, List.mem_map]
  exact and_congr_left fun _ => exists_congr fun a => and_congr_left fun _ => mem_comparedManifests s i a

/-- A stream's manifest is compared with another's. -/
theorem comparedWith_of {s : State} {i : StreamNo} {a : Accepted} (h : comparedManifests s i = [a]) : ComparedWith s i a :=
  (mem_comparedManifests s i a).mp (by rw [h]; exact List.mem_singleton_self a)

/-- The stream an acknowledgement is for, with the other streams' manifests compared one by one. -/
theorem acknowledgesFor_of {s : State} {p : Port} {d : Ident} {i : StreamNo} {m : Accepted} (h : s.streams[i].manifest = some m)
    (hp : m.port = p ∧ m.ackId = d)
    (ho : ∀ j : StreamNo, j ≠ i → s.streams[j].manifest.all (fun a => !(a.port == p && a.ackId == d)) = true) :
    AcknowledgesFor s p d i m := by
  refine ⟨h, hp.1, hp.2, fun j a hj ha hc => ?_⟩
  have := ho j hj
  rw [ha, Option.all_some, hc.1, hc.2] at this
  simp at this

/-- A part whose version store has a step of the key installation in progress. -/
def stepping (st : NvmStep) (rest : List NvmStep) (job : NvmJob) (s : State) : State :=
  s.withStore { s.store with run := some { job := job, steps := st :: rest, stepping := true } }

/-- A running part that has issued a RESTART. -/
def restarting : State := running.withInterp { running.interp with restartIssued := true }

/-- A segment frame on lane `l` for stream 0: segment `n`, a payload of `len` zero bytes. -/
def segment (l n len : Nat) : Frame :=
  padFrame ([0, 0, byteOf n, byteOf len, 0, 0, byteOf l, byteOf (0x5A - (n + len + l))] ++ List.replicate len 0)

/-- A lane's receiver changed. -/
def laneWith (l : Lane) (x : LaneRx) (s : State) : State := s.setLane l x

/-! ## Witnesses: the step, reset, stops and frames -/

theorem witness_StepRunsTheFrontCommand : running.pending = [] := rfl

theorem witness_EventsWithoutASubjectChangeNothingOrStop :
    running.trunk[(3 : Lane)].sending = none ∧ running.ports[(3 : Port)].position = none ∧
    (∀ k rest, running.engine.fifo ≠ .block k :: rest) ∧ running.engine.busy = false ∧
    (∀ i rest, (running.withEngine { fifo := [.block 0], busy := true }).engine.fifo ≠ .mac i :: rest) ∧
    State.reset.phase = .inReset ∧ running.lanes[(0 : Lane)].quarantine = none ∧
    running.streams[(7 : StreamNo)].stallTimer = none ∧ (live .faulted none).streams[(0 : StreamNo)].state ≠ .active ∧
    running.streams[(0 : StreamNo)].members[(3 : Lane)].bind Member.timer = none ∧
    (live .active none).streams[(0 : StreamNo)].members[(1 : Lane)].bind Member.timer = none ∧
    running.contexts[(0 : StreamNo)].ackTimer = none ∧ running.supply.filter = none ∧ running.report.packet = none ∧
    running.report.absolute = none ∧ stepInProgress running = none ∧
    stepInProgress (stepping (.program 2080 0) [] .installKey running) = some (.program 2080 0) ∧
    stepResult running.nvm (.program 2080 0) (.reads []) = none ∧
    stepResult running.nvm (.erase .key) (.reads [0xFF]) = none ∧ running.interp.judging ≠ some ⟨0, []⟩ ∧
    running.phase ≠ .inReset ∧ running.interp.restartIssued = false ∧
    stepInProgress (stepping (.program 2080 0) [] .installKey restarting) ≠ none := by
  have noBlock : ∀ k rest, running.engine.fifo ≠ .block k :: rest := fun _ _ => by simp [running, State.reset, Engine.idle]
  have noMac : ∀ i rest, (running.withEngine { fifo := [.block 0], busy := true }).engine.fifo ≠ .mac i :: rest :=
    fun _ _ => by simp
  and_intros
  all_goals first
    | exact noBlock
    | exact noMac
    | decide

theorem witness_CommandsChangeOnlyTheirParts : running.params.segId ≠ running.params.ctlId ∧
    ∃ t, exec (.otherTrunkFrame 0 0x7FF []) running = .next t := ⟨by decide, _, rfl⟩

/-- The memory of a store whose page A is complete at sequence 1: a record of target 7 in slot 0, and a torn slot 1. -/
def storeMemory : Memory :=
  Memory.writeAll erasedByte [] 0
    ([0, 0, 0, 1, 0x3C] ++ List.replicate 11 0xFF ++ recordBytes { target := 7, version := 9, floor := 3, count := 1 } ++ [0])

/-- A step in progress over that memory. -/
def cutState (st : NvmStep) (job : NvmJob) : State := (stepping st [] job running).withNvm storeMemory

/-- A record for `image`. -/
def imageRecord : VersionRecord := { target := 7, version := 5, floor := 3, count := 2 }

theorem witness_PowerOnResetKeepsOnlyTheMemory : running.nvm.wf erasedByte = true ∧ storeMemory.wf erasedByte = true ∧
    stepInProgress running = none ∧
    stepInProgress (cutState (.program 63 0) (.append 0 imageRecord .a 2)) = some (.program 63 0) ∧
    stepInProgress (cutState (.program 2048 0) .installKey) = some (.program 2048 0) ∧
    stepInProgress (cutState (.program 2111 0) .installKey) = some (.program 2111 0) ∧
    (List.range 16).all (fun b => storeMemory.read erasedByte (48 + b) == 0xFF) = true ∧
    stepInProgress (cutState (.erase .key) (.scan .power)) = some (.erase .key) ∧
    stepInProgress (cutState (.erase (.page .b)) (.compact 0 imageRecord .b 2)) = some (.erase (.page .b)) ∧
    stepInProgress (cutState (.erase (.page .a)) (.compact 0 imageRecord .b 2)) = some (.erase (.page .a)) ∧
    (scannedStore storeMemory).activePage ≠ some .b := by decide +kernel

theorem witness_StartUpMeasuresAndScans : State.reset.phase = .inReset ∧ restarting.phase ≠ .inReset ∧
    restarting.interp.restartIssued = true ∧ stepInProgress restarting = none ∧ scrubUnits [] = [] ∧
    scrubUnits [(0, 5)] = [.page .a] ∧ scrubUnits [(2048, 5)] = [.key] ∧ (List.replicate 16 (0xFF : Byte)).length = 16 ∧
    storeMemory.wf erasedByte = true ∧ storeMemory.read erasedByte ((NvmUnit.page .a).base + 4) = 0x3C ∧
    (scannedStore storeMemory).activePage = some .a ∧ (scannedStore storeMemory).appendPos = 2 ∧
    (scannedStore storeMemory).governing =
      [{ record := { target := 7, version := 9, floor := 3, count := 1 }, page := .a, slot := 0 }] ∧
    scanResult storeMemory = .recovered ∧ scanResult [] = .empty ∧
    scanResult (Memory.writeAll erasedByte [] 0 [0, 0, 0, 1, 0x3C]) = .clean ∧
    (scannedStore [(2080, 0)]).keyState = .installed := by decide +kernel

/-! ## Witnesses: trunk lanes -/

theorem witness_FramesTakeThePathOfTheirIdentifier :
    ¬ Receiving 0 State.reset ∧ ¬ Receiving 3 (running.withParams { running.params with laneEnable := 0b0111 }) ∧
    Receiving 0 running ∧ running.params.segId ≠ running.params.ctlId ∧ running.params.rspId ≠ running.params.segId ∧
    running.params.rspId ≠ running.params.ctlId ∧
    (running.withParams { running.params with controlLanes := 1 }).params.controlLanes.getLsbD 1 = false ∧
    running.params.controlLanes.getLsbD 3 = true ∧
    (laneWith 0 { LaneRx.idle with queue := [[], [], []] } running).lanes[(0 : Lane)].queue.length = 3 ∧
    (laneWith 0 { LaneRx.idle with queue := [[], [], [], []] } running).lanes[(0 : Lane)].queue.length = 4 := by
  unfold Receiving; decide

theorem witness_TheLaneIntegrityMachine : Receiving 0 running ∧
    (laneWith 0 { LaneRx.idle with integrity := .blocked, quarantine := some 100 } running).lanes[(0 : Lane)].quarantine.isSome ∧
    2 + 1 < running.params.faultThreshold ∧ running.params.faultThreshold ≤ 3 + 1 ∧ 6 + 1 < running.params.guardCount ∧
    running.params.guardCount ≤ 7 + 1 ∧
    (laneWith 0 { LaneRx.idle with integrity := .guarded, good := 7 } running).lanes[(0 : Lane)].integrity = .guarded := by
  unfold Receiving; decide

theorem witness_SegmentFaults : SegmentFault 0 (List.replicate 7 0) .short ∧ SegmentFault 0 (List.replicate 8 0) .header ∧
    SegmentFault 0 ((segment 0 0 8).take 12) .short ∧ SegmentFault 0 ((segment 0 0 8).set 8 1) .payload :=
  ⟨.inl ⟨rfl, by decide⟩, .inr (.inl ⟨rfl, by decide, by unfold HeaderPasses; decide⟩),
    .inr (.inr (.inl ⟨rfl, by decide, by unfold HeaderPasses; decide, by decide⟩)),
    .inr (.inr (.inr ⟨rfl, by unfold HeaderPasses; decide, by decide, by decide⟩))⟩

/-- An ACTIVE stream 0 whose low edge is 1. -/
def lowOne : State := running.setStream 0 { stream .active none with lowEdge := 1 }

theorem witness_RefusedSegmentsAreCounted :
    TakesSegment 0 (segment 0 0 8) 0 0 (live .ready none) ∧ TakesSegment 2 (segment 2 0 8) 0 0 (live .active none) ∧
    (live .active none).streams[(0 : StreamNo)].members[(2 : Lane)] = none ∧
    TakesSegment 0 (segment 0 5 8) 0 5 (live .active none) ∧ image.segmentCount = 5 ∧
    TakesSegment 0 (segment 0 4 7) 0 4 (live .active none) ∧ image.segmentLength 4 = 8 ∧
    TakesSegment 0 (segment 0 1 8) 0 1 lowOne ∧ 1 / image.perBlock < lowOne.streams[(0 : StreamNo)].lowEdge ∧
    TakesSegment 0 (segment 0 4 8) 0 4 (live .active none) ∧
    (live .active none).streams[(0 : StreamNo)].window = 4 / image.perBlock ∧
    TakesSegment 0 (segment 0 1 8) 0 1 (holding .complete none) ∧ slotOf (holding .complete none) 0 0 = some 0 ∧
    ((holding .filling none).setSlot 0 { slotFor 0 .filling with filled := 2 }).slots[(0 : SlotNo)].filled.getLsbD (1 % 2) := by
  and_intros <;> decide

theorem witness_SegmentsArePlaced :
    TakesSegment 0 (segment 0 1 8) 0 1 (holding .filling none) ∧ MemoriesCanonical (holding .filling none) ∧
    InWindow (holding .filling none) 0 0 image 1 8 ∧
    PlacementSlot (holding .filling none) 0 image 0 1 0 (slotFor 0 .filling) ∧
    ((slotFor 0 .filling).fill 1 8).isFull = false ∧
    TakesSegment 1 (segment 1 3 8) 0 3 (live .active none) ∧ InWindow (live .active none) 1 0 image 3 8 ∧
    PlacementSlot (live .active none) 0 image 1 1 0 (slotFor 1 .filling) := by
  and_intros <;> first | decide | (unfold PlacementSlot; decide)

theorem witness_FullBlocksQueueADigestJob : TakesSegment 0 (segment 0 4 8) 0 4 lowOne ∧ MemoriesCanonical lowOne ∧
    InWindow lowOne 0 0 image 4 8 ∧ PlacementSlot lowOne 0 image 2 0 0 (slotFor 2 .filling) ∧
    ((slotFor 2 .filling).fill 0 8).isFull = true ∧ QuietTimersRun (live .active none) 0 ∧ ¬ QuietTimersRun running 0 := by
  refine ⟨by and_intros <;> decide, by and_intros <;> decide, by and_intros <;> decide, by unfold PlacementSlot; decide, by decide,
    (quietCondition_iff _ _).mp (by decide), fun h => absurd h.1 (by decide)⟩

/-! ## Witnesses: answers, trunk transmissions and reports -/

/-- Lane 0's transmit section changed. -/
def trunkWith (x : TrunkTx) (s : State) : State := s.setTrunk 0 x

theorem witness_AnswersArePlacedAndTheSearchGoesOn : running.trunk[(0 : Lane)].sending = none ∧
    (trunkWith { TrunkTx.idle with sending := some ⟨.report, 0x6A9⟩ } running).trunk[(0 : Lane)].sending.isSome ∧
    (asked [] running).interp.judging.isSome ∧
    (∀ l : Lane, running.lanes[l].queue = [] ∨ running.trunk[l].response.isSome) ∧
    (running.interp.judging = none ∧ running.interp.restartPending = false) ∧
    (0 : Lane) = running.interp.lastServed + 1 + 0 ∧ (3 : Lane) = running.interp.lastServed + 1 + 3 ∧
    (laneWith 3 { LaneRx.idle with queue := [[1]] } running).lanes[(3 : Lane)].queue = [1] :: [] ∧
    (∀ e : Lane, e < 3 → ∀ m, m = running.interp.lastServed + 1 + e →
      (laneWith 3 { LaneRx.idle with queue := [[1]] } running).lanes[m].queue = []) := by decide

/-- The OK response to a RESTART in transmission on lane 0. -/
def restartSent : State :=
  trunkWith { TrunkTx.idle with response := some [0x40, 1, 0x5F, 0], sending := some ⟨.response, 0x6A9⟩ }
    (running.withInterp { running.interp with restartPending := true })

theorem witness_TransmissionEndsEmptyTheSlot :
    restartSent.trunk[(0 : Lane)].sending = some ⟨.response, 0x6A9⟩ ∧ RestartAnswered restartSent 0 ⟨.response, 0x6A9⟩ ∧
    ¬ RestartAnswered restartSent 0 ⟨.report, 0x6A9⟩ ∧
    (trunkWith { TrunkTx.idle with report := some [], sending := some ⟨.report, 0⟩ } running).trunk[(0 : Lane)].sending =
      some ⟨.report, 0⟩ ∧
    (trunkWith { TrunkTx.idle with response := some [] } running).trunk[(0 : Lane)].response.isSome ∧
    (trunkWith { TrunkTx.idle with report := some [] } running).trunk[(0 : Lane)].report.isSome :=
  ⟨by decide, ⟨by decide, rfl, _, rfl, by decide, by decide, by decide⟩, fun h => absurd h.2.1 (by decide), by decide,
    by decide, by decide⟩

/-- A running part with the report queue given. -/
def queued (q : List Record) : State := running.withReport { ReportUnit.idle with queue := q }

theorem witness_ReportFramesAreFormed :
    ReportDue (queued (List.replicate 10 (.window 0 0 1) ++ [.supply .low])).report ∧
    ¬ ReportDue (queued (List.replicate 9 (.window 0 0 1) ++ List.replicate 2 (.lane 0 .opened))).report ∧
    ReportDue { ReportUnit.idle with drain := true, owed := true } ∧
    (trunkWith { TrunkTx.idle with report := some [] } running).trunk[running.params.reportLane].report.isSome ∧
    running.trunk[running.params.reportLane].report = none := by
  unfold ReportDue; decide

theorem witness_RecordsAreQueuedUpdatedOrLost : (queued (List.replicate 63 (.supply .low))).report.queue.length < 64 ∧
    64 ≤ (queued (List.replicate 64 (.supply .low))).report.queue.length ∧
    (running.withReport { ReportUnit.idle with drain := true }).report.drain = true ∧ running.report.drain = false ∧
    (running.withParams { running.params with packetTimer := 0 }).params.packetTimer = 0 ∧
    (running.withParams { running.params with packetTimer := 1 }).params.packetTimer = 1 ∧
    (∀ r ∈ running.report.queue, ∀ a b, r ≠ .window 0 a b) ∧
    (queued [.supply .low, .window 0 1 2]).report.queue = [.supply .low] ++ .window 0 1 2 :: [] ∧
    (∀ r ∈ [Record.supply .low] ++ [], ∀ c d, r ≠ .window 0 c d) :=
  ⟨by decide, by decide, rfl, rfl, rfl, rfl, by simp [running, State.reset, ReportUnit.idle], rfl, by simp⟩

theorem witness_DrainsBegin : running.report.queue = [] ∧ running.report.owed = false ∧
    (queued [.supply .low]).report.queue ≠ [] ∧ ({ ReportUnit.idle with packet := some 5 } : ReportUnit).packet.isSome ∧
    ({ ReportUnit.idle with absolute := some 32 } : ReportUnit).absolute.isSome ∧
    Judging .flush 0 [0x30, 1] (asked [0x30, 1] running) := by
  unfold Judging; decide

/-! ## Witnesses: loading a manifest -/

/-- Stream 0 is LOADING a manifest of one block, with `n` bytes received. -/
def loading (n : Nat) : State :=
  let s := beginLoad 0 98 1 running
  s.setManifest 0 { s.manifests[(0 : StreamNo)] with received := n }

theorem witness_ManifestBeginTakesExtents : Judging .manifestBegin 0 [1, 1, 0, 0, 0, 98] (asked [1, 1, 0, 0, 0, 98] running) ∧
    fieldAt [1, 1, 0, 0, 0, 98] 3 3 = 64 + 34 * 1 ∧ fieldAt [1, 1, 7, 0x01, 0x10, 0x40] 3 3 = 64 + 34 * 2048 ∧
    MemoriesCanonical running ∧ (byteAt [1, 1, 7] 2).toNat = (7 : StreamNo).val ∧
    running.streams[(7 : StreamNo)].state = .vacant ∧
    (∀ j : StreamNo, running.streams[j].state ≠ .loading ∧ running.streams[j].state ≠ .authenticating) ∧
    (2048 + 63) / 64 ≤ (freeExtents running).length := by
  and_intros <;> decide

theorem witness_ManifestDataStoresItsBytes :
    Judging .manifestData 0 (padded 64 [2, 1, 0, 0, 0, 58]) (asked (padded 64 [2, 1, 0, 0, 0, 58]) (loading 0)) ∧
    Judging .manifestData 0 [2, 1, 0, 0, 97, 1, 9] (asked [2, 1, 0, 0, 97, 1, 9] (loading 97)) ∧
    MemoriesCanonical (loading 97) ∧ SingleLoadLaw (loading 97) ∧ ExtentLaw (loading 97) ∧
    (loading 97).streams[(0 : StreamNo)].state = .loading ∧
    fieldAt [2, 1, 0, 0, 97, 1, 9] 2 3 = (loading 97).manifests[(0 : StreamNo)].received ∧
    (loading 97).manifests[(0 : StreamNo)].declaredLength = some (97 + 1) := by
  and_intros <;> first | decide | (unfold SingleLoadLaw; decide)

/-- The loaded manifest's MANIFEST_END. -/
def endRequest : Frame := padded 48 [3, 1, 0]

/-- A device key is installed. -/
def keyed (s : State) : State := s.withStore { s.store with keyState := .installed }

theorem witness_ManifestEndQueuesAMacJob : Judging .manifestEnd 0 endRequest (asked endRequest (keyed (loading 98))) ∧
    (byteAt endRequest 2).toNat = 0 ∧ (keyed (loading 98)).manifests[(0 : StreamNo)].declaredLength = some 98 ∧
    (keyed (loading 98)).manifests[(0 : StreamNo)].received = 98 ∧
    (∀ j, .mac j ∉ (keyed (loading 98)).engine.fifo) ∧ (keyed (loading 98)).store.keyState = .installed := by
  and_intros <;> decide

/-- Stream 1 holds all extents but one. -/
def nearlyFull : State := running.setManifest 1 { ManifestRec.empty with extents := List.range 31 }

theorem witness_ManifestBeginRefusals : 7 < (byteAt [1, 1, 8, 0, 0, 98] 2).toNat ∧
    (loading 0).streams[(0 : StreamNo)].state ≠ .vacant ∧ (loading 0).streams[(1 : StreamNo)].state = .vacant ∧
    (∃ j : StreamNo, j ≠ 1 ∧ (loading 0).streams[j].state = .loading) ∧
    (∀ n, 1 ≤ n → n ≤ 2048 → fieldAt [1, 1, 0, 0, 0, 97] 3 3 ≠ 64 + 34 * n) ∧
    (∀ n, 1 ≤ n → n ≤ 2048 → fieldAt [1, 1, 0, 0x01, 0x10, 0x62] 3 3 ≠ 64 + 34 * n) ∧
    fieldAt [1, 1, 0, 0, 8, 226] 3 3 = 64 + 34 * 65 ∧ (freeExtents nearlyFull).length < (65 + 63) / 64 := by
  have e : fieldAt [1, 1, 0, 0, 0, 97] 3 3 = 97 := by decide
  have e' : fieldAt [1, 1, 0, 0x01, 0x10, 0x62] 3 3 = 69730 := by decide
  exact ⟨by decide, by decide, by decide, ⟨0, by decide⟩, by omega, by omega, by decide, by decide⟩

theorem witness_LoadRequestsAreRefusedInOrder : (byteAt [2, 1, 0, 0, 0, 0] 5).toNat < 1 ∧
    58 < (byteAt [2, 1, 0, 0, 0, 59] 5).toNat ∧ Judging .manifestData 0 [2, 1, 0, 0, 0, 59] (asked [2, 1, 0, 0, 0, 59] running) ∧
    (∀ i : StreamNo, running.streams[i].state ≠ .loading) ∧ fieldAt [2, 1, 0, 0, 96, 1, 9] 2 3 ≠ 97 ∧
    98 < fieldAt [2, 1, 0, 0, 97, 2, 9] 2 3 + 2 ∧ 7 < (byteAt [3, 1, 8] 2).toNat ∧
    running.streams[(0 : StreamNo)].state ≠ .loading ∧ (loading 97).manifests[(0 : StreamNo)].received ≠ 98 ∧
    (∃ j, .mac j ∈ (running.withEngine { fifo := [.mac 3], busy := true }).engine.fifo) ∧
    (loading 98).store.keyState ≠ .installed :=
  ⟨by decide, by decide, by and_intros <;> decide, by decide, by decide, by decide, by decide, by decide, by decide,
    ⟨3, by decide⟩, by decide⟩

/-! ## Witnesses: streams -/

/-- Stream 0 is READY, and stream 1 holds a reservation of `w` slots. -/
def readyBeside (w : Nat) : State :=
  ((running.setStream 0 { stream .ready none with reservationHeld := false, stallTimer := none }).setStream 1
    { stream .active none with window := w })

theorem witness_StreamStartAndLanesSetTheMembers :
    Judging .streamStart 0 [0x10, 1, 0, 1, 17] (asked [0x10, 1, 0, 1, 17] (readyBeside 16)) ∧
    Judging .streamStart 0 [0x10, 1, 0, 15, 1] (asked [0x10, 1, 0, 15, 1] (readyBeside 31)) ∧
    (readyBeside 16).streams[(0 : StreamNo)].state = .ready ∧ reservedTotal (readyBeside 16) + min 17 16 ≤ 32 ∧
    reservedTotal (readyBeside 31) + min 1 16 ≤ 32 ∧
    Judging .streamLanes 0 [0x11, 1, 0, 6] (asked [0x11, 1, 0, 6] (live .active none)) ∧
    (6#8).getLsbD (0 : Lane) = false ∧ (6#8).getLsbD (1 : Lane) = true ∧
    (live .active none).streams[(0 : StreamNo)].members[(1 : Lane)].isSome ∧
    (live .active none).streams[(0 : StreamNo)].members[(2 : Lane)] = none := by
  and_intros <;> decide

theorem witness_QuietTimersRun : QuietTimersRun (live .active none) 0 ∧
    ¬ QuietTimersRun (running.setStream 0 { stream .active none with lowEdge := 3 }) 0 :=
  ⟨(quietCondition_iff _ _).mp (by decide), fun h => absurd ((quietCondition_iff _ _).mpr h) (by decide)⟩

theorem witness_StreamRequestsAreRefused : 7 < (byteAt [0x10, 1, 8] 2).toNat ∧
    Judging .streamStart 0 [0x10, 1, 0, 0, 0] (asked [0x10, 1, 0, 0, 0] (readyBeside 32)) ∧
    (live .active none).streams[(0 : StreamNo)].state ≠ .ready ∧ (byteAt [0x10, 1, 0, 0, 1] 3).toNat = 0 ∧
    15 < (byteAt [0x10, 1, 0, 16, 1] 3).toNat ∧ (byteAt [0x10, 1, 0, 1, 0] 4).toNat = 0 ∧
    32 < reservedTotal (readyBeside 32) + min 1 16 ∧
    Judging .streamLanes 0 [0x11, 1, 0, 16] (asked [0x11, 1, 0, 16] (live .active none)) ∧
    Judging .streamAbort 0 [0x12, 1, 0] (asked [0x12, 1, 0] running) ∧ running.streams[(0 : StreamNo)].state = .vacant ∧
    Judging .streamClose 0 [0x13, 1, 0] (asked [0x13, 1, 0] (live .active none)) := by
  and_intros <;> decide

/-- An ACTIVE stream whose slot 0 is being hashed. -/
def hashing : State := (holding .hashing none).withEngine { fifo := [.block 0], busy := true }

theorem witness_AbortAndCloseReleaseTheStream : Judging .streamAbort 0 [0x12, 1, 0] (asked [0x12, 1, 0] hashing) ∧
    inFlight (stopStream 0 hashing) 0 = true ∧ inFlight (stopStream 0 (live .active none)) 0 = false ∧
    hashing.streams[(0 : StreamNo)].state = .active ∧ (loading 0).streams[(0 : StreamNo)].state = .loading ∧
    (live .authenticating none).streams[(0 : StreamNo)].state = .authenticating ∧
    (live .aborting none).streams[(0 : StreamNo)].state = .aborting ∧
    Judging .streamClose 0 [0x13, 1, 0] (asked [0x13, 1, 0] (live .faulted none)) ∧
    inFlight (stopStream 0 (live .faulted none)) 0 = false ∧
    (live .done none).streams[(0 : StreamNo)].state = .done := by
  and_intros <;> decide

theorem witness_StoppedStreamsKeepOnlyWorkInFlight :
    (∃ h, (holding .filling none).slots[(0 : SlotNo)].holder = some h ∧ h.stream = 0 ∧
      Job.block 0 ∉ (holding .filling none).engine.fifo ∧
      blockInTransmission (holding .filling none) h.stream h.block = false) ∧ Job.block 0 ∈ hashing.engine.fifo :=
  ⟨⟨_, rfl, by decide, by decide, by decide⟩, by decide⟩

theorem witness_FreedSlotsAndVacantStreamsReturnWhatTheyHeld :
    (holding .filling none).slots[(0 : SlotNo)].holder = some { stream := 0, block := 0, expected := 2 } ∧
    (live .faulted none).streams[(0 : StreamNo)].reservationHeld = true ∧
    (∀ (k : SlotNo), (live .faulted none).slots[k].holder = none) ∧
    (live .ready none).streams[(0 : StreamNo)].state = .ready ∧ MemoriesCanonical running ∧
    inFlight ((live .active none).setStream 0 { stream .aborting none with cause := some .closed }) 0 = false ∧
    inFlight hashing 0 = true := by
  and_intros <;> decide

theorem witness_StallAndQuietExpiriesReport : (live .active none).streams[(0 : StreamNo)].stallTimer.isSome ∧
    (∀ b, 3 ≤ b ∧ b < 3 + 2 ∧ b < image.blockCount →
      blockReachedComplete (running.setStream 0 { stream .active none with lowEdge := 3 }) 0 b = true) ∧
    blockReachedComplete (holding .complete none) 0 0 = true ∧ blockReachedComplete (holding .complete none) 0 1 = false ∧
    (∀ c, 0 ≤ c → c < 1 → blockReachedComplete (holding .complete none) 0 c = true) ∧
    slotOf (holding .filling none) 0 0 = some 0 ∧ slotOf (holding .complete none) 0 1 = none ∧
    5 < running.params.gapLimit ∧ running.params.gapLimit ≤ 6 ∧
    (live .active none).streams[(0 : StreamNo)].members[(0 : Lane)] = some ⟨.active, some 300⟩ := by
  refine ⟨by decide, fun b h => ?_, by decide, by decide, fun c _ h => ?_, by decide, by decide, by decide, by decide,
    by decide⟩
  · have : image.blockCount = 3 := rfl
    omega
  · interval_cases c; decide

/-! ## Witnesses: keys, counters, parameters, tables, restart -/

theorem witness_KeyInstallIsTakenWhenErased :
    Judging .keyInstall 0 (padded 48 [0x20, 1]) (asked (padded 48 [0x20, 1]) running) ∧
    running.store.keyState = .erased ∧ (keyed running).store.keyState ≠ .erased := by
  and_intros <;> decide

theorem witness_SnapshotCopiesAndZeroes : Judging .snapshot 0 [0x31, 1] (asked [0x31, 1] running) := by
  and_intros <;> decide

theorem witness_ParamWritesAreStored : Judging .paramWrite 0 [0x50, 1, 8, 0, 0] (asked [0x50, 1, 8, 0, 0] running) ∧
    paramKind (byteAt [0x50, 1, 8, 0, 0] 2).toNat = some (.number 1 255) ∧ paramKind 18 = some (.number 0 255) ∧
    fieldAt [0x50, 1, 8, 0, 0] 3 2 < 1 ∧ 255 < fieldAt [0x50, 1, 8, 1, 0] 3 2 ∧
    (fieldAt [0x50, 1, 0, 7, 0xFF] 3 2 = 0x7FF ∧ 0x7FF ≠ running.params.ctlId.toNat ∧ 0x7FF ≠ running.params.rspId.toNat) ∧
    (0 ≠ running.params.segId.toNat ∧ 0 ≠ running.params.rspId.toNat ∧ 0 ≠ running.params.ctlId.toNat) ∧
    ((1 : Nat).testBit running.params.reportLane.val = true ∧ (15 : Nat).testBit running.params.reportLane.val = true) ∧
    fieldAt [0x50, 1, 5, 0, 3] 3 2 = (3 : Lane).val ∧ running.params.laneEnable.getLsbD (3 : Lane) = true := by
  and_intros <;> decide

theorem witness_ParamWritesAreRefused : Judging .paramWrite 0 [0x50, 1, 19, 0, 0] (asked [0x50, 1, 19, 0, 0] running) ∧
    0x7FF < fieldAt [0x50, 1, 2, 8, 0] 3 2 ∧ 15 < fieldAt [0x50, 1, 3, 0, 16] 3 2 ∧ fieldAt [0x50, 1, 4, 0, 0] 3 2 = 0 ∧
    3 < fieldAt [0x50, 1, 5, 0, 4] 3 2 ∧ fieldAt [0x50, 1, 0, 6, 0xA8] 3 2 = running.params.ctlId.toNat ∧
    fieldAt [0x50, 1, 0, 6, 0xA9] 3 2 = running.params.rspId.toNat ∧
    fieldAt [0x50, 1, 1, 6, 0xA0] 3 2 = running.params.segId.toNat ∧
    (fieldAt [0x50, 1, 3, 0, 14] 3 2).testBit running.params.reportLane.val = false ∧
    (running.withParams { running.params with laneEnable := 7 }).params.laneEnable.getLsbD (3 : Lane) = false := by
  and_intros <;> decide

theorem witness_ParamReadsGiveTheValue : (∀ n ∈ [0, 18, 19, 255],
    Judging .paramRead 0 [0x51, 1, byteOf n] (asked [0x51, 1, byteOf n] running)) ∧ (byteAt [0x51, 1, 18] 2).toNat = 18 ∧
    18 < (byteAt [0x51, 1, 19] 2).toNat := by
  refine ⟨fun n h => ?_, by decide, by decide⟩
  fin_cases h <;> (and_intros <;> decide)

/-- Table `t` is selected with the cursor at `c`. -/
def reading (t : Fin 7) (c : Nat) : State := running.withInterp { running.interp with table := t, cursor := c }

theorem witness_TablesAndCursorsAreSelected : Judging .tableSelect 0 [0x52, 1, 7] (asked [0x52, 1, 7] running) ∧
    (byteAt [0x52, 1, 6] 2).toNat = (6 : Fin 7).val ∧ 6 < (byteAt [0x52, 1, 7] 2).toNat ∧
    Judging .cursorSet 0 [0x53, 1, 0x08, 0] (asked [0x53, 1, 0x08, 0] (reading 3 0)) ∧
    fieldAt [0x53, 1, 0x07, 0xFF] 2 2 < tableSize (reading 3 0).interp.table ∧
    tableSize (reading 3 0).interp.table ≤ fieldAt [0x53, 1, 0x08, 0] 2 2 := by
  and_intros <;> decide

theorem witness_TableReadsFollowTheirMode : Judging .tableRead 0 [0x54, 1, 0, 0, 31] (asked [0x54, 1, 0, 0, 31] (reading 2 0)) ∧
    fieldAt [0x54, 1, 0, 0, 31] 3 2 < tableSize 2 ∧ tableSize 2 ≤ fieldAt [0x54, 1, 0, 0, 32] 3 2 ∧
    Judging .tableRead 0 [0x54, 1, 1] (asked [0x54, 1, 1] (reading 2 31)) ∧ (reading 2 31).interp.cursor ≠ tableSize 2 ∧
    Judging .tableRead 0 [0x54, 1, 2] (asked [0x54, 1, 2] (reading 2 32)) ∧ (reading 2 32).interp.cursor = tableSize 2 ∧
    Judging .tableRead 0 [0x54, 1, 3] (asked [0x54, 1, 3] (reading 2 30)) ∧ (reading 2 30).interp.cursor + 1 < tableSize 2 ∧
    Judging .tableRead 0 [0x54, 1, 4, 0xFF] (asked [0x54, 1, 4, 0xFF] (reading 2 1)) ∧
    (0 : Int) = (reading 2 1).interp.cursor + (byteAt [0x54, 1, 4, 0xFF] 3).toInt ∧
    ((reading 2 0).interp.cursor : Int) + (byteAt [0x54, 1, 4, 0xFF] 3).toInt < 0 ∧
    (tableSize 2 : Int) ≤ (reading 2 31).interp.cursor + (byteAt [0x54, 1, 4, 1] 3).toInt ∧
    Judging .tableRead 0 [0x54, 1, 5] (asked [0x54, 1, 5] running) ∧ 4 < (byteAt [0x54, 1, 5] 2).toNat := by
  and_intros <;> decide

theorem witness_RestartIsAlwaysTaken : Judging .restart 0 [0x5F, 1] (asked [0x5F, 1] running) := by
  and_intros <;> decide

theorem witness_MalformedAndUnknownFramesAreAnswered : (asked [0x54] running).interp.judging = some ⟨0, [0x54]⟩ ∧
    byteAt [0x60, 1] 0 ∉ ([0x01, 0x02, 0x03, 0x10, 0x11, 0x12, 0x13, 0x20, 0x30, 0x31, 0x50, 0x51, 0x52, 0x53, 0x54, 0x5F] : List Byte) ∧
    ([1, 1, 0, 0, 0] : Frame).length < 6 ∧ (byteAt (padded 48 [2, 1, 0, 0, 0, 58]) 5).toNat ≤ 58 ∧
    (padded 48 [2, 1, 0, 0, 0, 58]).length < 6 + 58 ∧ (padded 32 [3]).length < 35 ∧ (padded 32 [0x20]).length < 34 ∧
    (byteAt [0x54, 1, 0, 0] 2 = 0 ∧ ([0x54, 1, 0, 0] : Frame).length < 5) ∧ byteAt [0x54, 1, 4] 2 = 4 ∧
    (∀ f ∈ ([[0x10, 1, 0, 1], [0x11, 1, 0], [0x12, 1], [0x13, 1], [0x50, 1, 0, 0], [0x51, 1], [0x52, 1], [0x53, 1, 0],
      [0x54, 1]] : List Frame), (asked f running).interp.judging = some ⟨0, f⟩) := by decide

/-! ## Witnesses: the digest engine and acceptance -/

/-- An ACTIVE stream whose 16-byte block 1 is being hashed: its manifest digest is that of 16 zero bytes, or `d`. -/
def hashingOne (d : List Byte) : State :=
  { ((((live .active none).setSlot 0 (slotFor 1 .hashing)).setManifest 0 { ManifestRec.empty with extents := [0] }).withEngine
      { fifo := [.block 0], busy := true }) with
    entryBytes := Memory.writeAll 0 [] (entryAddress 1 0) d }

/-- Its digest is right. -/
def goodBlock : State := hashingOne (sha256 (List.replicate 16 0))
/-- Its digest is wrong. -/
def badBlock : State := hashingOne []

theorem witness_TheIdleEngineJudgesTheHead : hashing.engine.busy = true ∧ running.engine.fifo = [] ∧
    ((holding .complete none).withEngine { fifo := [.block 0], busy := false }).engine.busy = false ∧
    (holding .complete none).slots[(0 : SlotNo)].holder = some { stream := 0, block := 0, expected := 2 } ∧
    (live .aborting none).streams[(0 : StreamNo)].state = .aborting ∧
    (running.withEngine { fifo := [.mac 0], busy := false }).engine.fifo = .mac 0 :: [] := by
  and_intros <;> decide

theorem witness_BlockJobsVerifyTheirBlock : goodBlock.engine.fifo = .block 0 :: [] ∧
    goodBlock.slots[(0 : SlotNo)].holder = some { stream := 0, block := 1, expected := 2 } ∧
    goodBlock.streams[(0 : StreamNo)].state = .active ∧ goodBlock.streams[(0 : StreamNo)].manifest = some image ∧
    sha256 (slotBytes goodBlock 0 (image.blockBytes 1)) = digestOf goodBlock 0 1 ∧
    (goodBlock.setStream 0 (stream .faulted none)).streams[(0 : StreamNo)].state = .faulted ∧
    goodBlock.manifests[(0 : StreamNo)].extents[63 / 64]? = some 0 := by
  decide +kernel

theorem witness_DigestMismatchesClearOrFault : badBlock.engine.fifo = .block 0 :: [] ∧
    sha256 (slotBytes badBlock 0 (image.blockBytes 1)) ≠ digestOf badBlock 0 1 ∧
    badBlock.slots[(0 : SlotNo)].failCount + 1 ≤ image.blockRetryLimit ∧ image.blockRetryLimit < 1 + 1 ∧
    QuietTimersRun badBlock 0 :=
  ⟨by decide, by decide +kernel, by decide, by decide, (quietCondition_iff _ _).mp (by decide)⟩

/-- The 64 header bytes of `image` (section 11.4). -/
def imageHeader : List Byte :=
  [1, 0, 7, 1, 0x01, 0x23, 0x01, 0x24, 0, 0, 0, 5, 0, 0, 0, 3, 0, 0, 0, 40, 8, 2, 0, 3, 1, 1, 1] ++
    List.replicate 16 0xAA ++ List.replicate 21 0

/-- Stream 0 is AUTHENTICATING the three-block manifest with that header and the expected MAC given; its MAC job runs. -/
def authenticating (mac : Option (List Byte)) : State :=
  ((running.setStream 0 { Stream.vacant with state := .authenticating }).setManifest 0
    { ManifestRec.empty with
      extents := [0], declaredLength := some 166, declaredBlocks := some 3, received := 166
      header := Vector.ofFn fun i : Fin 64 => byteAt imageHeader i, expectedMac := mac }).withEngine
    { fifo := [.mac 0], busy := true }

/-- The same with the right MAC. -/
def authentic : State :=
  authenticating (some (hmacSha256 (deviceKey (authenticating none).nvm) (manifestBytes (authenticating none) 0)))

/-- A manifest header of `n` one-segment blocks of 8 bytes. -/
def headerOf (n : Nat) : List Byte :=
  [1, 0, 7, 1, 0x01, 0x23, 0x01, 0x24, 0, 0, 0, 5, 0, 0, 0, 3] ++ beBytes 4 (8 * n) ++ [8, 1] ++ beBytes 2 n ++
    List.replicate 40 0

/-- The boundaries of a header's ranges: one block, and 2048 of them. -/
theorem test_headersAtTheirBounds : imageHeader.length = 64 ∧ HeaderConsistent (readHeader imageHeader) 3 ∧
    (headerOf 1).length = 64 ∧ HeaderConsistent (readHeader (headerOf 1)) 1 ∧
    (headerOf 2048).length = 64 ∧ HeaderConsistent (readHeader (headerOf 2048)) 2048 := by
  and_intros <;> decide +kernel

theorem witness_MacJobsAuthenticate : authentic.engine.busy = true ∧ authentic.engine.fifo = .mac 0 :: [] ∧
    authentic.streams[(0 : StreamNo)].state = .authenticating ∧
    authentic.manifests[(0 : StreamNo)].expectedMac =
      some (hmacSha256 (deviceKey authentic.nvm) (manifestBytes authentic 0)) ∧
    (authenticating none).manifests[(0 : StreamNo)].expectedMac ≠
      some (hmacSha256 (deviceKey (authenticating none).nvm) (manifestBytes (authenticating none) 0)) ∧
    acceptanceFailure authentic 0 (readHeader authentic.manifests[(0 : StreamNo)].header.toList) = none ∧
    (readHeader authentic.manifests[(0 : StreamNo)].header.toList).accepted = image ∧
    authentic.manifests[(0 : StreamNo)].declaredBlocks = some 3 ∧
    authentic.manifests[(0 : StreamNo)].extents[2 / 64]? = some 0 := by
  decide +kernel

/-- Stream 1 holds the accepted manifest `a`. -/
def beside (a : Accepted) : State := (authenticating none).setStream 1 { stream .ready none with manifest := some a }

/-- The target's governing record with floor `f`. -/
def governed (f : Word32) : State :=
  (authenticating none).withStore
    { Store.cleared with
      governing := [{ record := { target := 7, version := 9, floor := f, count := 1 }, page := .a, slot := 0 }] }

theorem consistent : manifestConsistent (authenticating none) 0 (readHeader imageHeader) = true := by decide +kernel

theorem notConsistent : ¬ manifestConsistent (authenticating none) 0 (readHeader (imageHeader.set 26 2)) = true := by
  decide +kernel

theorem witness_AcceptanceChecksRunInOrder :
    (NewTargets (authenticating none) 0 [] ∧ (authenticating none).manifests[(0 : StreamNo)].declaredBlocks = some 3) ∧
    ManifestConsistent (authenticating none) 0 (readHeader imageHeader) 3 ∧
    ¬ ManifestConsistent (authenticating none) 0 (readHeader (imageHeader.set 26 2)) 3 ∧
    NewTargets (beside { image with target := 9 }) 0 [9] ∧
    (∃ a, ComparedWith (beside { image with target := 9 }) 0 a ∧ Clash a image) ∧
    (∃ a, ComparedWith (beside { image with port := 2 }) 0 a ∧ a.target = image.target) ∧
    (readHeader (imageHeader.set 26 0)).accepted.newTarget = false ∧
    (∃ g ∈ (governed 6).store.governing, g.record.target = image.target) ∧
    image.version.toNat < (floorOf (governed 6).store.governing image.target).toNat ∧
    (floorOf (governed 5).store.governing image.target).toNat ≤ image.version.toNat :=
  ⟨⟨newTargets_of (by decide) (by decide +kernel), by decide⟩,
    (manifestConsistent_iff _ _ _ _ (by decide)).mp consistent,
    fun h => absurd ((manifestConsistent_iff _ _ _ _ (by decide)).mpr h) notConsistent,
    newTargets_of (by decide) (by decide +kernel),
    ⟨{ image with target := 9 }, comparedWith_of (by decide +kernel), by decide, by decide⟩,
    ⟨{ image with port := 2 }, comparedWith_of (by decide +kernel), by decide⟩,
    by decide +kernel, by decide, by decide, by decide⟩

/-- The version store governs 15 other targets, and a compared stream is for a sixteenth. -/
def nearlyNoRoom : State :=
  (beside { image with target := 99, port := 2 }).withStore
    { Store.cleared with
      governing := (List.range 15).map fun n =>
        { record := { target := BitVec.ofNat 16 (100 + n), version := 1, floor := 0, count := 1 }, page := .a, slot := n } }

theorem witness_RoomForTargets : NewTargets nearlyNoRoom 0 [99] ∧ 16 ≤ nearlyNoRoom.store.governing.length + [99].length ∧
    ∀ g ∈ nearlyNoRoom.store.governing, g.record.target ≠ image.target :=
  ⟨newTargets_of (by decide) (by decide +kernel), by decide +kernel, by decide +kernel⟩

/-! ## Witnesses: release and acknowledgements -/

/-- An ACTIVE stream whose block 0 is being sent from frame `j`. -/
def sending (j : Nat) : State :=
  (live .active (some ⟨.sending, 0⟩)).setSlot 0 { slotFor 0 .sending with nextFrame := some j }

/-- A manifest whose blocks take two frames. -/
def longImage : Accepted := { image with imageLength := 128, segmentUnit := 32, blockCount := 2, blockLength := 64, segmentCount := 4 }

theorem witness_ReleasesStartAndFramesAreHandedOver :
    (∀ i, ¬ FrameReady running 1 i) ∧ FrameReady (sending 0) 1 0 ∧ (sending 0).ports[(1 : Port)].position = none ∧
    (0 : StreamNo) = (sending 0).ports[(1 : Port)].pointer + 1 + 0 ∧ slotOf (sending 0) 0 0 = some 0 ∧
    (sending 0).slots[(0 : SlotNo)].nextFrame = some 0 ∧ 0 + 1 = (image.blockBytes 0 + 59) / 60 ∧
    0 + 1 ≠ (longImage.blockBytes 0 + 59) / 60 ∧ FrameReady (live .ending (some ⟨.sending, 3⟩)) 1 0 ∧
    ReleaseDue (holding .verified none) 0 0 ∧ ∀ k, ¬ ReleaseDue (holding .verified (some ⟨.awaiting, 0⟩)) 0 k :=
  ⟨fun i h => absurd ((frameReady_iff _ _ _).mpr h) (by clear h; revert i; decide), (frameReady_iff _ _ _).mp (by decide), by decide,
    by decide, by decide, by decide, by decide, by decide, (frameReady_iff _ _ _).mp (by decide),
    (releaseDue_eq_some_iff _ _ _).mp (by decide), fun k h => absurd h.2.1 (by decide)⟩

/-- A frame of block 0 of stream 0, the last one, on port 1. -/
def lastFrame (answered : Bool) : TxPosition :=
  { stream := 0, block := 0, number := 0, isLast := true, ident := 0x123, data := [], answered := answered }

/-- `s` with that frame in transmission. -/
def inTransit (answered : Bool) (s : State) : State := s.setPort 1 { position := some (lastFrame answered), pointer := 0 }

/-- An ACTIVE stream awaiting the acknowledgement of block 0. -/
def awaiting : State := holding .awaiting (some ⟨.awaiting, 0⟩)

/-- The same on a supply that is LOW. -/
def awaitingLow : State := awaiting.withSupply { state := .low, filter := none }

/-- An ENDING stream awaiting ACTIVATED. -/
def awaitingEnd : State := live .ending (some ⟨.awaiting, 3⟩)

theorem witness_BranchTransmissionEndsAreJudged : (inTransit true awaiting).ports[(1 : Port)].position = some (lastFrame true) ∧
    (inTransit false awaiting).streams[(0 : StreamNo)].stage = some ⟨.awaiting, (lastFrame false).block⟩ ∧
    (inTransit false awaiting).contexts[(0 : StreamNo)].resendHeld = false ∧
    longOf (inTransit false awaiting) 0 0 = false ∧ slotOf ((inTransit false awaiting).setStream 0 (stream .faulted none)) 0 0 = some 0 ∧
    slotOf (inTransit false (live .faulted none)) 0 0 = none ∧
    (inTransit false (live .ending (some ⟨.awaiting, 0⟩))).streams[(0 : StreamNo)].state = .ending ∧
    (inTransit false (sending 0)).streams[(0 : StreamNo)].stage ≠ some ⟨.awaiting, 0⟩ ∧
    authentic.manifests[(0 : StreamNo)].extents[2 / 64]? = some 0 := by
  and_intros <;> decide

theorem witness_Outstanding : AcknowledgesFor awaiting 1 0x124 0 image ∧ Outstanding awaiting 0 0 0 image ∧
    AcknowledgesFor awaitingEnd 1 0x124 0 image ∧ EndAwaited awaitingEnd 0 image :=
  ⟨acknowledgesFor_of (by decide) (by decide) (by decide), ⟨by decide, by decide, by decide, by decide⟩,
    acknowledgesFor_of (by decide) (by decide) (by decide), ⟨by decide, by decide, by decide⟩⟩

theorem witness_WrittenFreesTheBlock : awaiting.streams[(0 : StreamNo)].lowEdge + 1 ≠ image.blockCount ∧
    Outstanding ((running.setStream 0 { stream .active (some ⟨.awaiting, 2⟩) with lowEdge := 2 }).setSlot 0
      (slotFor 2 .awaiting)) 0 (2 : Word16).toNat 0 image ∧ 2 + 1 = image.blockCount :=
  ⟨by decide, ⟨by decide, by decide, by decide, by decide⟩, by decide⟩

theorem witness_BusyStretchesTheWait :
    (awaiting.setCtx 0 { ReleaseCtx.idle with resendHeld := true }).contexts[(0 : StreamNo)].resendHeld = true ∧
    awaiting.contexts[(0 : StreamNo)].resendHeld = false ∧ 7 < awaiting.params.busyLimit ∧ awaiting.params.busyLimit ≤ 8 ∧
    (awaitingEnd.setCtx 0 { ReleaseCtx.idle with startHeld := true }).contexts[(0 : StreamNo)].startHeld = true := by decide

/-- A part whose timer for block 0, which is outstanding, expires as a command `c` comes. -/
def expiring (c : Instr) (s : State) : State :=
  (s.setCtx 0 { ReleaseCtx.idle with ackTimer := some ⟨.short, 50⟩ }).withPending [.ackTimeout 0, c]

theorem witness_TimeoutsResendOrFault : awaiting.slots[(0 : SlotNo)].retryCount < image.releaseRetryLimit ∧
    image.releaseRetryLimit ≤ 1 ∧ awaiting.supply.state = .ok ∧ awaitingLow.supply.state = .low ∧
    awaitingEnd.contexts[(0 : StreamNo)].endRetry < image.releaseRetryLimit ∧
    (∀ c, awaiting.pending.head? = some c → False) ∧
    (∀ s ∈ [awaiting, awaitingLow, awaiting.setSlot 0 { slotFor 0 .awaiting with retryCount := 1 }],
      Outstanding (expiring (.written 1 0x124 0) s) 0 0 0 image ∧
      (expiring (.written 1 0x124 0) s).contexts[(0 : StreamNo)].ackTimer.isSome = true ∧
      AcknowledgesFor (expiring (.written 1 0x124 0) s) 1 0x124 0 image) ∧
    AnswerNext (awaiting.withPending [.written 1 0x124 0]) image.port image.ackId 0 ∧
    (∀ c ∈ [Instr.written 1 0x124 0, .busy 1 0x124 0, .rejected 1 0x124 0, .branchFrame 1 0x124 [0, 0, 1]],
      Answers c image.port image.ackId 0) := by
  refine ⟨by decide, by decide, by decide, by decide, by decide, (fun c h => by cases h), fun s hs => ?_,
    ⟨_, rfl, .inl ⟨0, rfl, .inl rfl⟩⟩, fun c hc => ?_⟩
  · simp only [List.mem_cons, List.not_mem_nil, or_false] at hs
    rcases hs with rfl | rfl | rfl <;>
      exact ⟨⟨by decide, by decide, by decide, by decide⟩, by decide, acknowledgesFor_of (by decide) (by decide) (by decide)⟩
  · simp only [List.mem_cons, List.not_mem_nil, or_false] at hc
    rcases hc with rfl | rfl | rfl | rfl
    · exact .inl ⟨0, rfl, .inl rfl⟩
    · exact .inl ⟨0, rfl, .inr (.inl rfl)⟩
    · exact .inl ⟨0, rfl, .inr (.inr rfl)⟩
    · exact .inr ⟨_, rfl, by decide, by decide, .inl rfl⟩

/-- A WRITTEN that comes together with the timeout of a block of one frame on an empty port is UNTIMELY, and the frame is then handed over. -/
theorem test_WrittenTogetherWithATimeoutIsUntimely : ∃ t u, step (expiring (.written 1 0x124 0) awaiting) = .next t ∧ step t = .next u ∧
    t.streams[(0 : StreamNo)].stage = some ⟨.sending, 0⟩ ∧ u.counters.streams[(0 : StreamNo)][StreamCounter.untimely.index] = 1 ∧
    u.streams[(0 : StreamNo)].lowEdge = 0 ∧ u.streams[(0 : StreamNo)].stage = some ⟨.awaiting, 0⟩ ∧ u.ports[(1 : Port)].position.isSome = true :=
  ⟨_, _, rfl, rfl, by decide, by decide, by decide, by decide, by decide⟩

theorem witness_OtherResultsFaultEndOrAreUntimely : AcknowledgesNone running 1 0x124 ∧ AcknowledgesFor awaiting 1 0x124 0 image ∧
    (¬ ∃ k, Outstanding awaiting 0 (1 : Word16).toNat k image) ∧ ¬ EndAwaited awaiting 0 image ∧
    awaiting.streams[(0 : StreamNo)].stage ≠ some ⟨.sending, (1 : Word16).toNat⟩ ∧
    AcknowledgesFor (sending 0) 1 0x124 0 image ∧ (sending 0).streams[(0 : StreamNo)].state = .active ∧
    (sending 0).streams[(0 : StreamNo)].stage = some ⟨.sending, (0 : Word16).toNat⟩ ∧ ¬ AnswerNext (sending 0) 1 0x124 0 ∧
    AnswerNext ((sending 0).withPending [.busy 1 0x124 0]) 1 0x124 0 ∧
    ([0, 0] : Frame).length < 3 ∧ byteAt [0, 0, 0] 2 = 0 ∧ 4 < (byteAt [0, 0, 5] 2).toNat ∧
    (1 : Word16) = BitVec.ofNat 16 (fieldAt [0, 1, 1] 0 2) ∧ byteAt [0, 1, 4] 2 = 4 :=
  ⟨fun j a h => absurd h (by revert j; simp [running, State.reset, Stream.vacant]),
    acknowledgesFor_of (by decide) (by decide) (by decide), fun ⟨_, h⟩ => absurd h.2.1 (by decide),
    fun h => absurd h.1 (by decide), by decide, acknowledgesFor_of (by decide) (by decide) (by decide), by decide, by decide,
    (fun ⟨_, h, _⟩ => by cases h), ⟨_, rfl, .inl ⟨0, rfl, .inr (.inl rfl)⟩⟩, by decide, by decide, by decide, by decide, by decide⟩

/-! ## Witnesses: the version store -/

/-- The bytes of a page that shows nothing but a complete marker. -/
def markerBytes : List Byte := [0xFF, 0xFF, 0xFF, 0xFF, 0x3C] ++ List.replicate 1019 0xFF

theorem witness_NvmStepsChangeOnlyTheirUnit :
    stepInProgress (stepping (.program 2047 3) [] .installKey running) = some (.program 2047 3) ∧
    stepInProgress (stepping (.erase (.page .b)) [] (.scan .power) running) = some (.erase (.page .b)) ∧
    (List.replicate (NvmUnit.page .b).size (0xFF : Byte)).length = (NvmUnit.page .b).size ∧ running.nvm.wf erasedByte = true ∧
    byteAt markerBytes 4 = 0x3C ∧ markerBytes.length = (NvmUnit.page .a).size ∧
    (stepping (.erase (.page .a)) [] (.newPage 0 (newRecord [] image)) running).store.run.map NvmRun.job =
      some (.newPage 0 (newRecord [] image)) ∧
    (stepping (.erase (.page .a)) [] (.compact 0 (newRecord [] image) .b 2) (running.withNvm [(4, 0x3C)])).nvm.read erasedByte 4 = 0x3C ∧
    stepInProgress (stepping (.erase .key) [] (.scan .power) running) = some (.erase .key) ∧
    stepInProgress (stepping (.erase .key) [] .installKey running) = some (.erase .key) :=
  ⟨rfl, rfl, List.length_replicate, rfl, rfl, (by decide +kernel), rfl, rfl, rfl, rfl⟩

/-- A scrub of the key area that reads a key marker back leaves the marker as it reads, and the key state FAILED. -/
theorem test_AFailedScrubLeavesItsUnitAsItReads : ∃ t, exec (.nvmStepDone (.reads (List.replicate 32 0xFF ++ 0 :: List.replicate 31 0xFF)))
    (stepping (.erase .key) [] (.scan .power) running) = .next t ∧ t.nvm = [(2080, 0)] ∧ t.store.keyState = .failed :=
  ⟨_, rfl, by decide +kernel, by decide +kernel⟩

/-- A COMMITTING stream whose commit waits, with a version store's state. -/
def commits (x : Store) : State :=
  (live .committing none).withStore { x with ops := [.commit 0] }

/-- A store with page A active at a sequence and append position. -/
def pageA (seq : Word32) (pos : Nat) : Store :=
  { Store.cleared with activePage := some .a, activeSeq := some seq, appendPos := pos, erasedB := true }

theorem witness_OperationsBeginAtTheHead : (commits Store.cleared).store.run = none ∧
    (commits Store.cleared).store.ops = .commit 0 :: [] ∧ (commits Store.cleared).interp.restartIssued = false ∧
    (commits Store.cleared).streams[(0 : StreamNo)].manifest = some image ∧ (commits Store.cleared).store.activePage = none ∧
    (newRecord [] image).target = image.target ∧ (newRecord [] image).floor.toNat = max (floorOf [] 7).toNat 3 ∧
    (commits (pageA 1 62)).store.appendPos < 63 ∧ 63 ≤ (commits (pageA 0xFFFFFFFD 63)).store.appendPos ∧
    (commits (pageA 0xFFFFFFFE 63)).store.activeSeq = some 0xFFFFFFFE ∧
    ((commits (pageA 0xFFFFFFFE 63)).setStream 0 (stream .aborting none)).streams[(0 : StreamNo)].state = .aborting ∧
    (running.withStore { Store.cleared with ops := [.installKey []] }).store.ops = .installKey [] :: [] := by decide

theorem witness_GoodStepsCompleteTheOperation :
    (∀ st ∈ [NvmStep.program 4 0x3C, .erase (.page .a)], ∃ m, stepResult [] st .asMeant = some (m, true)) ∧
    (stepping (.program 4 0x3C) [.erase (.page .b)] (.compact 0 (newRecord [] image) .a 2) (commits Store.cleared)).store.run =
      some { job := .compact 0 (newRecord [] image) .a 2, steps := [.program 4 0x3C, .erase (.page .b)], stepping := true } ∧
    completeMarkerAddress .a = 4 ∧ (live .committing none).streams[(0 : StreamNo)].state = .committing ∧
    (live .aborting none).streams[(0 : StreamNo)].state ≠ .committing ∧ running.supply.state = .ok ∧
    lowSupply.supply.state = .low := by
  refine ⟨fun st h => ?_, by decide, by decide, by decide, by decide, by decide, by decide⟩
  fin_cases h <;> exact ⟨_, rfl⟩

theorem witness_FailedStepsEndTheOperation :
    stepResult [] (.program 4 0x3C) (.reads [0xFF]) = some ([], false) ∧
    (stepping (.program 4 0x3C) [] (.newPage 0 (newRecord [] image)) (commits Store.cleared)).store.run =
      some { job := .newPage 0 (newRecord [] image), steps := [.program 4 0x3C], stepping := true } ∧
    (stepping (.program 4 0x3C) [] (.append 0 (newRecord [] image) .a 0) (commits Store.cleared)).store.run.map NvmRun.job =
      some (.append 0 (newRecord [] image) .a 0) ∧
    (stepResult [(2048, 1)] (.erase .key) (.reads (0 :: List.replicate 63 0xFF))).isSome := by decide

/-! ## Witnesses: the supply watch, layouts and laws -/

/-- The same with its resend held. -/
def resendHeld : State := awaitingLow.setCtx 0 { ReleaseCtx.idle with resendHeld := true }

/-- An ENDING stream whose END frame is held while the supply is LOW. -/
def endHeld : State :=
  ((live .ending none).setCtx 0 { ReleaseCtx.idle with startHeld := true }).withSupply { state := .low, filter := none }

theorem witness_TheSupplyWatchFiltersDepartures : running.phase ≠ .inReset ∧
    (running.supply.state = .ok ∧ (running.withPins { senseMv := 9599, resetnLow := false }).pins.senseMv <
      9000 + 600 * running.params.supplyLevel) ∧
    (lowSupply.supply.state = .low ∧ 9000 + 600 * lowSupply.params.supplyLevel + 500 <
      (lowSupply.withPins { senseMv := 10101, resetnLow := false }).pins.senseMv) ∧
    ¬ (9600 < 9000 + 600 * running.params.supplyLevel) ∧ 1 ≤ running.params.supplyFilter ∧
    (running.withParams { running.params with supplyFilter := 0 }).params.supplyFilter = 0 ∧
    (running.withSupply { state := .ok, filter := some 20 }).supply.filter.isSome ∧
    (resendHeld.contexts[(0 : StreamNo)].resendHeld = true ∧
      resendHeld.streams[(0 : StreamNo)].stage = some ⟨.awaiting, 0⟩ ∧ slotOf resendHeld 0 0 = some 0) ∧
    (endHeld.contexts[(0 : StreamNo)].resendHeld = false ∧ endHeld.contexts[(0 : StreamNo)].startHeld = true ∧
      endHeld.streams[(0 : StreamNo)].manifest = some image) ∧
    (lowSupply.contexts[(0 : StreamNo)].resendHeld = false ∧ lowSupply.contexts[(0 : StreamNo)].startHeld = false) := by
  decide

/-- At the change to OK the held resend and the held END frame go to their branch port (R121, R122). -/
theorem test_heldStartsAreServed :
    (changeSupply resendHeld).ports[(1 : Port)].position.map TxPosition.block = some 0 ∧
      (changeSupply endHeld).ports[(1 : Port)].position.map TxPosition.block = some 3 := by decide

/-- Stream 0 is ACTIVE with its three entries in extent 0, and stream 1 is LOADING two blocks in extent 5. -/
def tabled : State :=
  (((live .active none).setManifest 0
    { ManifestRec.empty with extents := [0], declaredLength := some 166, declaredBlocks := some 3, received := 166 }).setManifest 1
    { ManifestRec.empty with extents := [5], declaredLength := some 132, declaredBlocks := some 2, received := 98 }).withStore
    (pageA 7 1)

theorem witness_LayoutsAreAsStated : (List.replicate 64 (0 : Byte)).length ≤ 64 ∧ (List.range 16).length ≤ 16 ∧
    ({ target := 0, version := 0, floor := 0, count := 65535 } : VersionRecord).count ≤ 65535 ∧
    running.streams[(0 : StreamNo)] = Stream.vacant ∧ running.contexts[(0 : StreamNo)] = ReleaseCtx.idle ∧
    (∀ k : SlotNo, running.slots[k].holder = none) ∧ running.slots[(31 : SlotNo)] = Slot.free ∧
    (∀ i : StreamNo, 31 ∉ running.manifests[i].extents) ∧
    (tabled.streams[(0 : StreamNo)].manifest = some image ∧ tabled.streams[(0 : StreamNo)].floorAtAcceptance = some 0 ∧
      tabled.streams[(1 : StreamNo)].manifest = none) ∧
    (sending 0).streams[(0 : StreamNo)].stage = some ⟨.sending, 0⟩ ∧
    awaiting.streams[(0 : StreamNo)].stage = some ⟨.awaiting, 0⟩ ∧
    awaiting.slots[(0 : SlotNo)].holder = some { stream := 0, block := 0, expected := 2 } ∧
    (sending 1).slots[(0 : SlotNo)].nextFrame = some 1 ∧
    (tabled.manifests[(0 : StreamNo)].extents[0]? = some (63 / 64) ∧ tabled.manifests[(0 : StreamNo)].declaredBlocks = some 3) ∧
    (tabled.manifests[(1 : StreamNo)].extents[0]? = some 5 ∧ tabled.manifests[(1 : StreamNo)].declaredBlocks = some 2) ∧
    ExtentLaw tabled ∧ (governed 5).store.governing[0]?.isSome ∧ tabled.store.activePage = some .a ∧
    tabled.store.activeSeq = some 7 := by
  and_intros <;> decide

theorem witness_StepsKeepMemoriesReportsAndCounters : MemoriesCanonical running ∧ ReportLaw running ∧ CountersBounded running ∧
    ControlQueueLaw running ∧ ∃ t, step (running.withPending [.otherTrunkFrame 0 0 []]) = .next t := by
  refine ⟨by and_intros <;> decide, by unfold ReportLaw; decide, ?_, by unfold ControlQueueLaw; decide, _, rfl⟩
  unfold CountersBounded Counters.Bounded; decide

theorem witness_StepsKeepParametersEngineAndSupply : ParamsLegal running.params ∧ EngineLaw running ∧ HeldLaw running ∧
    FilterLaw running := by
  refine ⟨by unfold ParamsLegal; decide, by unfold EngineLaw; decide, by unfold HeldLaw; decide, by unfold FilterLaw; decide⟩

theorem witness_StepsKeepLoadsExtentsAndSlots : SingleLoadLaw running ∧ ExtentLaw running ∧ ReservationLaw running ∧
    SlotLaw running := by
  refine ⟨by unfold SingleLoadLaw; decide, by unfold ExtentLaw; decide, by unfold ReservationLaw; decide, ?_⟩
  unfold SlotLaw Slot.HeldUnlessFree
  have h : ∀ k : SlotNo, running.slots[k] = Slot.free := by decide
  refine ⟨fun k => by rw [h k]; decide, fun k q i b hk _ => ?_⟩
  rw [h k] at hk; cases hk

/-- An ACTIVE stream 0 whose last frame of block 0 is in transmission from slot 0, beside a FAULTED stream 1 whose block 0 is being hashed
in slot 1; the end of the frame waits in the queue. -/
def workingPart : State :=
  ((((inTransit false awaiting).setStream 1 (stream .faulted none)).setSlot 1
    { slotFor 0 .hashing with holder := some { stream := 1, block := 0, expected := 2 } }).withEngine { fifo := [.block 1], busy := true }).withPending
    [.branchTxEnd 1 .sent]

theorem test_releaseLaws : ReleaseLaws workingPart := by
  have hk : ∀ (k : SlotNo) h, workingPart.slots[k].holder = some h →
      (k = 0 ∧ h = { stream := 0, block := 0, expected := 2 }) ∨ (k = 1 ∧ h = { stream := 1, block := 0, expected := 2 }) := by
    intro k h hh
    have hd : ∀ q : SlotNo, q = 0 ∨ q = 1 ∨ workingPart.slots[q].holder = none := by decide
    rcases hd k with rfl | rfl | e
    · exact .inl ⟨rfl, (Option.some.inj hh).symm⟩
    · exact .inr ⟨rfl, (Option.some.inj hh).symm⟩
    · rw [e] at hh; cases hh
  have hs : ∀ i : StreamNo, workingPart.streams[i].manifest = none ∨ workingPart.streams[i].manifest = some image := by decide
  have holds : ∀ (k : SlotNo) i b, workingPart.slots[k].holds i b = true → k.val = i.val ∧ b = 0 := by
    intro k i b h
    unfold Slot.holds at h; split at h
    · rename_i g hg
      simp only [Bool.and_eq_true, beq_iff_eq] at h
      rcases hk k g hg with ⟨rfl, rfl⟩ | ⟨rfl, rfl⟩ <;> obtain ⟨rfl, rfl⟩ := h <;> exact ⟨rfl, rfl⟩
    · cases h
  refine ⟨⟨by unfold Slot.HeldUnlessFree; decide, fun k q i b h1 h2 => Fin.ext ((holds _ _ _ h1).1.trans (holds _ _ _ h2).1.symm)⟩,
    by unfold FifoLaw; decide, fun k h hh => ?_, fun i => ⟨?_, ?_, fun m hm => ?_⟩, fun i => ⟨fun g h1 h2 => ?_, ?_, ?_⟩, fun p f hp _ => ?_⟩
  · rcases hk k h hh with ⟨rfl, rfl⟩ | ⟨rfl, rfl⟩ <;> decide
  · revert i; decide
  · revert i; decide
  · rcases hs i with e | e <;> rw [e] at hm <;> cases hm; decide
  · have hd : ∀ j : StreamNo, j = 0 ∨ workingPart.streams[j].state ≠ .active := by decide
    obtain rfl := (hd i).resolve_right (fun e => e h1)
    obtain rfl := (Option.some.inj h2).symm
    exact ⟨rfl, 0, by decide⟩
  · revert i; decide
  · revert i; decide
  · have hd : ∀ q : Port, q = 1 ∨ workingPart.ports[q].position = none := by decide
    obtain rfl := (hd p).resolve_right (fun e => by rw [e] at hp; cases hp)
    obtain rfl := (Option.some.inj hp).symm
    exact ⟨rfl, by decide, by decide⟩

theorem witness_StepsKeepWindowsJobsAndReleases :
    ReleaseLaws workingPart ∧ (∃ t, step workingPart = .next t) ∧
    workingPart.streams[(0 : StreamNo)].state ≠ .vacant ∧ slotsHeld workingPart 0 = 1 ∧ workingPart.engine.fifo.length = 1 :=
  ⟨test_releaseLaws, ⟨_, rfl⟩, by decide, by decide, by decide⟩

/-- Stream 0's commit at its first step, with no page yet: page A is being erased. -/
def committingPart : State := enterCommitting 0 (live .active none)

/-- The law of the version store holds of it, whatever command waits. -/
theorem test_storeLaw (cs : List Instr) : StoreLaw (committingPart.withPending cs) := by
  refine (SameStored.stored (s := committingPart) ⟨rfl, rfl, rfl, fun _ => ⟨rfl, rfl⟩⟩ (Stored.enterCommitting ?_ (by decide))).law
  have hs : ∀ i : StreamNo, (live .active none).streams[i].manifest = none ∨ (live .active none).streams[i].manifest = some image := by decide
  exact {
    once := fun i => Nat.zero_le _
    queued := fun i h => by cases h
    running := fun r i v h => by cases h
    room := ⟨[image.target], by decide, by decide, fun i m hm => by rcases hs i with e | e <;> rw [e] at hm <;> cases hm; decide⟩
    wf := by decide
    core := ⟨⟨by decide, by decide, by decide, by decide, fun p n h => by cases h⟩, (fun p h => by cases p <;> cases h), fun r h => by cases h⟩
    awake := by decide }

theorem witness_FloorsNeverFall : (isReset (.filterExpiry) = false ∧ running.store.KeepsFloor ∧
      (∃ t, exec .filterExpiry (running.withSupply { state := .ok, filter := some 20 }) = .next t) ∧
      (stepping (.program 16 7) [] (.append 0 (newRecord [] image) .a 0) running).store.KeepsFloor) ∧
    (∀ c ∈ [Instr.powerOnReset 0 false, .nvmStepDone .asMeant], HeldLaw (committingPart.withPending [c]) ∧
      (∀ d, (committingPart.withPending [c]).pending.head? = some d → ScrubReadsSound d (committingPart.withPending [c])) ∧
      StoreLaw (committingPart.withPending [c]) ∧ (committingPart.withPending [c]).store.KeepsFloor ∧
      ∃ t, step (committingPart.withPending [c]) = .next t) ∧
    committingPart.phase ≠ .inReset ∧ stepInProgress committingPart = some (.erase (.page .a)) := by
  refine ⟨⟨rfl, trivial, ⟨_, rfl⟩, by show (floorOf _ _).toNat ≤ _; decide⟩, fun c hc => ?_, by decide, by decide⟩
  have keeps : committingPart.store.KeepsFloor := by show (floorOf _ _).toNat ≤ _; decide
  refine ⟨fun h => absurd h (by show ¬ committingPart.phase = _; decide), fun d hd => ?_, test_storeLaw _, keeps, ?_⟩ <;>
    simp only [List.mem_cons, List.not_mem_nil, or_false] at hc
  · cases hd
    rintro rb r p rest mem rfl - - - h
    rcases hc with h' | h' <;> cases h'
    cases h
  rcases hc with rfl | rfl
  · exact ⟨_, rfl⟩
  · exact ⟨_, rfl⟩

theorem witness_OnlyAMatchVerifiesABlock : ∃ t, exec .blockJobDone goodBlock = .next t ∧
    t.slots[(0 : SlotNo)].state = .verified ∧ goodBlock.slots[(0 : SlotNo)].state ≠ .verified :=
  ⟨_, rfl, by decide +kernel, by decide⟩

theorem witness_OnlyAuthenticatedManifestsAreAccepted : ∃ t, exec .macJobDone authentic = .next t ∧
    t.streams[(0 : StreamNo)].manifest = some image ∧ authentic.streams[(0 : StreamNo)].manifest ≠ some image :=
  ⟨_, rfl, by decide +kernel, by decide⟩

end Sys2Proof.Tests
end

/-! The acceptance checks (R14 to R19): what each test decides, the whole sequence in the manual's words, and the obligation about it. -/

namespace Sys2Proof.Machine

/-- The second check finds the streams R16 names. -/
theorem any_identifiersClash_iff (s : State) (i : StreamNo) (m : Accepted) :
    (comparedManifests s i).any (identifiersClash m) = true ↔ ∃ a, ComparedWith s i a ∧ Clash a m := by
  simp only [List.any_eq_true, mem_comparedManifests, identifiersClash_iff]

/-- The third check finds the streams R17 names. -/
theorem any_target_iff (s : State) (i : StreamNo) (t : Word16) :
    (comparedManifests s i).any (fun o => o.target == t) = true ↔ ∃ a, ComparedWith s i a ∧ a.target = t := by
  simp only [List.any_eq_true, mem_comparedManifests, beq_iff_eq]

/-- A target has no governing row exactly when no governing record is for it (R129). -/
theorem rowOf_isNone_iff_not_exists (rows : List GovRow) (t : Word16) :
    (rowOf rows t).isNone = true ↔ ¬ ∃ g ∈ rows, g.record.target = t := by
  rw [rowOf_isNone_iff]; push Not; rfl

open Classical in
/-- The acceptance checks in order, each condition as R15 to R19 word it: the first that fails gives the cause. -/
theorem acceptanceFailure_eq_first_failed {s : State} {i : StreamNo} {n : Nat} {ts : List Word16} (h : HeaderFields)
    (hd : s.manifests[i].declaredBlocks = some n) (ht : NewTargets s i ts) :
    acceptanceFailure s i h =
      if ¬ ManifestConsistent s i h n then some .inconsistent
      else if ∃ a, ComparedWith s i a ∧ Clash a h.accepted then some .identConflict
      else if ∃ a, ComparedWith s i a ∧ a.target = h.accepted.target then some .targetBusy
      else if (¬ ∃ g ∈ s.store.governing, g.record.target = h.accepted.target) ∧ h.accepted.newTarget = false then
        some .unknownTarget
      else if (¬ ∃ g ∈ s.store.governing, g.record.target = h.accepted.target) ∧
          16 ≤ s.store.governing.length + ts.length then some .noTargetRoom
      else if h.accepted.version.toNat < (floorOf s.store.governing h.accepted.target).toNat then some .belowFloor
      else none := by
  have consistent : manifestConsistent s i h = false ↔ ¬ ManifestConsistent s i h n := by
    rw [← manifestConsistent_iff s i h n hd, Bool.not_eq_true]
  have unknown := rowOf_isNone_iff_not_exists s.store.governing h.accepted.target
  have noRoom : maxTargets ≤ roomCount s i ↔ 16 ≤ s.store.governing.length + ts.length := by
    rw [roomCount_eq s i ts ht, maxTargets]
  exact if_congr consistent rfl <| if_congr (any_identifiersClash_iff s i _) rfl <| if_congr (any_target_iff s i _) rfl <|
    if_congr (and_congr_left' unknown) rfl <| if_congr (and_congr unknown noRoom) rfl <| if_congr Iff.rfl rfl rfl

/-- Settles O40: the sequence of checks, read off outcome by outcome. -/
theorem acceptanceChecksRunInOrder : Obligations.AcceptanceChecksRunInOrder := by
  unfold Obligations.AcceptanceChecksRunInOrder
  intro i n ts s hd ht h m clash busy known
  rw [acceptanceFailure_eq_first_failed h hd ht]
  refine ⟨fun inconsistent => if_pos inconsistent, fun consistent => ?_⟩
  rw [if_neg (not_not_intro consistent)]
  refine ⟨fun hclash => if_pos hclash, fun noClash hbusy => ?_, fun noClash notBusy => ?_⟩
  · rw [if_neg noClash, if_pos hbusy]
  rw [if_neg noClash, if_neg notBusy]
  refine ⟨fun unknown old => if_pos ⟨unknown, old⟩, fun unknown new full => ?_, fun admitted => ?_⟩
  · have notOld : ¬ m.newTarget = false := by simp [new]
    rw [if_neg fun hc => notOld hc.2, if_pos ⟨unknown, full⟩]
  have targetPasses : ¬ (¬ known ∧ m.newTarget = false) := by
    rintro ⟨unknown, old⟩
    obtain isKnown | ⟨new, -⟩ := admitted
    · exact unknown isKnown
    · simp [old] at new
  have roomPasses : ¬ (¬ known ∧ 16 ≤ s.store.governing.length + ts.length) := by
    rintro ⟨unknown, full⟩
    obtain isKnown | ⟨-, room⟩ := admitted
    · exact unknown isKnown
    · omega
  rw [if_neg targetPasses, if_neg roomPasses]
  exact ⟨fun below => if_pos below, fun reached => if_neg (Nat.not_lt.mpr reached)⟩

end Sys2Proof.Machine

/-! The stall and quiet expiries (R34 to R37): what each finds, what it reports, and the obligation about both. -/

namespace Sys2Proof.Machine

/-! ## What a stall expiry finds (R36) -/

/-- The blocks a stall expiry looks at: from the low edge up to, but not including, the lesser of low + W and N (R36). -/
def StallWatched (s : State) (i : StreamNo) (b : Nat) : Prop :=
  s.streams[i].lowEdge ≤ b ∧ b < s.streams[i].lowEdge + s.streams[i].window ∧ b < s.streams[i].blockCount

/-- The block range the search runs over is the one R36 names. -/
theorem stallWatched_iff_searched (s : State) (i : StreamNo) (b : Nat) :
    StallWatched s i b ↔ s.streams[i].lowEdge ≤ b ∧ b < s.streams[i].lowEdge +
      (min (s.streams[i].lowEdge + s.streams[i].window) s.streams[i].blockCount - s.streams[i].lowEdge) := by
  unfold StallWatched; omega

/-- The search for a gap fails exactly when every watched block has reached COMPLETE (R36). -/
theorem lowestGap_eq_none_iff (s : State) (i : StreamNo) :
    lowestGap s i = none ↔ ∀ b, StallWatched s i b → blockReachedComplete s i b = true := by
  simp only [lowestGap, ← List.range'_eq_map_range, List.find?_range'_eq_none, stallWatched_iff_searched,
    Bool.not_not, and_imp]

/-- The search finds the lowest watched block that has not reached COMPLETE (R36). -/
theorem lowestGap_eq_some_iff (s : State) (i : StreamNo) (b : Nat) :
    lowestGap s i = some b ↔ StallWatched s i b ∧ blockReachedComplete s i b = false ∧
      ∀ c, s.streams[i].lowEdge ≤ c → c < b → blockReachedComplete s i c = true := by
  simp only [lowestGap, ← List.range'_eq_map_range, List.find?_range'_eq_some, stallWatched_iff_searched,
    List.mem_range'_1, Bool.not_not, Bool.not_eq_true', and_left_comm]

/-! ## What it reports (R36) -/

/-- A position is missing from a block when its slot has not filled it, and always when the block has no slot (R36). -/
def positionMissing (s : State) (i : StreamNo) (b p : Nat) : Bool :=
  match slotOf s i b with
  | some k => !s.slots[k].filled.getLsbD p
  | none => true

/-- The missing positions are those below the expected segment count, ascending (R36). -/
theorem missingOf_eq_filter {s : State} {i : StreamNo} {m : Accepted} (b : Nat) (hm : s.streams[i].manifest = some m) :
    missingOf s i b = (List.range (m.blockSegments b)).filter (positionMissing s i b) := by
  unfold missingOf positionMissing
  rw [hm]
  cases slotOf s i b with
  | some k => rfl
  | none => exact (List.filter_true _).symm

/-! ## What it does then (R35 to R37) -/

/-- Queuing a record leaves the parameters as they are. -/
theorem queueRecord_params (r : Record) (s : State) : (queueRecord r s).params = s.params :=
  touches_queueRecord s r .params (by decide)

/-- Of two writes of one descriptor the later stands. -/
theorem State.setStream_setStream (s : State) (i : StreamNo) (x y : Stream) :
    (s.setStream i x).setStream i y = s.setStream i y := by
  simp only [State.setStream, Vector.set_set]

/-- Below GAP_LIMIT a gap raises the stall count and restarts the timer, after the record (R37). -/
theorem stallGap_below_limit {s : State} {i : StreamNo} (b : Nat) (h : s.streams[i].stallCount < s.params.gapLimit) :
    stallGap i b s = (queueRecord (gapRecord s i b) s).setStream i { s.streams[i] with
      stallCount := s.streams[i].stallCount + 1, stallTimer := some (s.params.stallTime * 10) } := by
  unfold stallGap restartStall stallInterval
  simp only [queueRecord_streams, queueRecord_params, State.setStream_params, setStream_getElem, if_pos h,
    State.setStream_setStream]

/-- At GAP_LIMIT a gap faults the stream with STALLED, after the record (R37). -/
theorem stallGap_at_limit {s : State} {i : StreamNo} (b : Nat) (h : s.params.gapLimit ≤ s.streams[i].stallCount) :
    stallGap i b s = enterFaulted i .stalled (queueRecord (gapRecord s i b) s) := by
  unfold stallGap
  simp only [queueRecord_streams, queueRecord_params, if_neg (Nat.not_lt.mpr h)]

/-! ## The two expiries -/

section
variable {s : State} {i : StreamNo}

/-- A stall expiry of an ACTIVE stream whose watched blocks are all COMPLETE only restarts the timer (R36). -/
theorem exec_stallExpiry_of_no_gap (active : s.streams[i].state = .active) (runs : s.streams[i].stallTimer.isSome = true)
    (complete : ∀ b, StallWatched s i b → blockReachedComplete s i b = true) :
    exec (.stallExpiry i) s = .next (restartStall i s) := by
  change execStallExpiry i s = _
  unfold execStallExpiry
  rw [if_pos ⟨runs, active⟩, (lowestGap_eq_none_iff s i).mpr complete]

/-- A stall expiry of an ACTIVE stream handles the lowest watched block that has not reached COMPLETE (R36). -/
theorem exec_stallExpiry_of_gap {b : Nat} (active : s.streams[i].state = .active)
    (runs : s.streams[i].stallTimer.isSome = true) (watched : StallWatched s i b)
    (gap : blockReachedComplete s i b = false)
    (lowest : ∀ c, s.streams[i].lowEdge ≤ c → c < b → blockReachedComplete s i c = true) :
    exec (.stallExpiry i) s = .next (stallGap i b s) := by
  change execStallExpiry i s = _
  unfold execStallExpiry
  rw [if_pos ⟨runs, active⟩, (lowestGap_eq_some_iff s i b).mpr ⟨watched, gap, lowest⟩]

/-- A quiet expiry of a member whose timer runs makes it QUIET, stops the timer and queues the MEMBER record (R34). -/
theorem exec_quietExpiry_of_member {l : Lane} {r : Member} (member : s.streams[i].members[l] = some r)
    (runs : r.timer.isSome = true) :
    exec (.quietExpiry i l) s = .next (queueRecord (.member i l .quiet) (s.setStream i { s.streams[i] with
      members := s.streams[i].members.set l (some { state := .quiet, timer := none }) })) := by
  change execQuietExpiry i l s = _
  unfold execQuietExpiry
  rw [member]
  exact if_pos runs

end

/-- Settles O26: the search's outcome decides between the restart and the GAP record, the stall count what follows the record. -/
theorem stallAndQuietExpiriesReport : Obligations.StallAndQuietExpiriesReport := by
  unfold Obligations.StallAndQuietExpiriesReport
  refine ⟨fun i s active runs => ⟨fun complete => exec_stallExpiry_of_no_gap active runs complete, ?_⟩,
    fun i l r s member runs => exec_quietExpiry_of_member member runs⟩
  intro b m missing watched gap lowest hm hmissing
  have expiry : exec (.stallExpiry i) s = .next (stallGap i b s) := exec_stallExpiry_of_gap active runs watched gap lowest
  have listed : missing = missingOf s i b := hmissing.trans (missingOf_eq_filter b hm).symm
  subst listed
  refine ⟨fun below => ?_, fun reached => ?_⟩
  · rw [expiry, stallGap_below_limit b below]; rfl
  · rw [expiry, stallGap_at_limit b reached]; rfl

end Sys2Proof.Machine

/-! KEY_INSTALL (R141): the arbiter leaves the key state alone, what the version store replies, and the obligation about both. -/

namespace Sys2Proof.Machine

/-! ## Starting operations and steps leaves the key state as it is (R133) -/

/-- A page's erased flag is no part of the key state. -/
@[simp] theorem Store.setErased_keyState (t : Store) (p : PageId) (v : Bool) : (t.setErased p v).keyState = t.keyState := by
  cases p <;> rfl

/-- The start of a step turns at most an erased flag (R129). -/
@[simp] theorem Store.stepStarted_keyState (t : Store) (st : NvmStep) : (t.stepStarted st).keyState = t.keyState := by
  cases st with
  | program a v =>
    dsimp only [Store.stepStarted]
    split
    · exact t.setErased_keyState _ false
    · rfl
  | erase u => rfl

/-- The next step starts, or nothing does. -/
theorem startStep_keyState (s : State) : (startStep s).store.keyState = s.store.keyState := by
  unfold startStep
  split
  · next r _ =>
    split
    · next st _ _ =>
      split
      · exact s.store.stepStarted_keyState st
      · rfl
    · rfl
  · rfl

/-- Of the operations that begin, each refused compaction only leaves the queue and fails its stream, and the last only runs. -/
theorem beginOps_keyState (n : Nat) (s : State) : (beginOps n s).store.keyState = s.store.keyState := by
  induction n generalizing s with
  | zero => rfl
  | succ n ih =>
    unfold beginOps
    split
    · rfl
    split
    · rfl
    · rfl
    · next i _ _ =>
      split
      · split
        · rfl
        · rw [ih, storeFailed_store]; rfl
      · rw [ih]; rfl

/-- The arbiter of the non-volatile memory does not change the key state: only the end of a step does (R133, R142). -/
@[simp] theorem runStore_keyState (s : State) : (runStore s).store.keyState = s.store.keyState := by
  rw [runStore, startStep_keyState, beginOps_keyState]

/-! ## The reply of the version store (R141) -/

/-- In ERASED the request is taken, and the arbiter runs on the queue it has joined. -/
theorem keyInstallReply_of_erased {s : State} (f : Frame) (h : s.store.keyState = .erased) :
    keyInstallReply f s = {
      status := .accepted
      data := [KeyState.pending.code]
      state := runStore (s.withStore { s.store with
        keyState := .pending, ops := s.store.ops ++ [.installKey ((f.drop 2).take 32)] }) } := by
  rw [keyInstallReply, if_pos h]
  simp only [joinOps, runStore_keyState, State.withStore_store]
  rfl

/-- In any other key state it is refused with STATE. -/
theorem keyInstallReply_of_not_erased {s : State} (f : Frame) (h : s.store.keyState ≠ .erased) :
    keyInstallReply f s = { status := .state, data := [s.store.keyState.code], state := s } :=
  if_neg h

/-- Settles O27: the reply in each case, given by the interpreter as the answer. -/
theorem keyInstallIsTakenWhenErased : Obligations.KeyInstallIsTakenWhenErased := by
  unfold Obligations.KeyInstallIsTakenWhenErased
  intro l f s judging
  have answer {st data u} (reply : keyInstallReply f s = { status := st, data := data, state := u }) :
      exec (.keyInstall l f) s = .next (answered l f st data u) := judgeKind_reply judging reply
  exact ⟨fun erased => answer (keyInstallReply_of_erased f erased),
    fun notErased => answer (keyInstallReply_of_not_erased f notErased)⟩

end Sys2Proof.Machine

/-! PARAM_READ (R160): the value above the last number, what the interpreter answers, and the obligation about it. -/

namespace Sys2Proof.Machine

/-- No parameter has a number above 18: its value travels as 0 (R160). -/
theorem paramValue_of_above {n : Nat} (p : Params) (above : 18 < n) : paramValue p n = 0 := by
  obtain ⟨k, rfl⟩ : ∃ k, n = k + 19 := Nat.exists_eq_add_of_le' above
  rfl

section
variable {l : Lane} {f : Frame} {s : State}

/-- A number from 0 to 18 is answered OK, with the number and its present value (R160). -/
theorem exec_paramRead_of_le (judging : Judging .paramRead l f s) (known : (byteAt f 2).toNat ≤ 18) :
    exec (.paramRead l f) s =
      .next (answered l f .ok (byteAt f 2 :: beBytes 2 (paramValue s.params (byteAt f 2).toNat)) s) := by
  have reply : paramReadReply f s = { status := .ok, data := paramData s.params (byteAt f 2), state := s } := by
    rw [paramReadReply, if_pos known]
  exact judgeKind_reply judging reply

/-- A number above 18 is refused with RANGE, with the number and the value 0 (R160). -/
theorem exec_paramRead_of_above (judging : Judging .paramRead l f s) (above : 18 < (byteAt f 2).toNat) :
    exec (.paramRead l f) s = .next (answered l f .range [byteAt f 2, 0#8, 0#8] s) := by
  have zero : paramData s.params (byteAt f 2) = [byteAt f 2, 0#8, 0#8] := by
    rw [paramData, paramValue_of_above s.params above]; rfl
  have reply : paramReadReply f s = { status := .range, data := [byteAt f 2, 0#8, 0#8], state := s } := by
    rw [paramReadReply, if_neg (Nat.not_le.mpr above), zero]
  exact judgeKind_reply judging reply

end

/-- Settles O31: each known number names its own row of the parameter table, and every other one is above 18. -/
theorem paramReadsGiveTheValue : Obligations.ParamReadsGiveTheValue := by
  unfold Obligations.ParamReadsGiveTheValue
  intro l f s judging p n reads
  have known {k v : Nat} (value : paramValue p k = v) (le : k ≤ 18 := by decide) (number : n = k) : reads v := by
    subst number value
    exact exec_paramRead_of_le judging le
  exact ⟨known rfl, known rfl, known rfl, known rfl, known rfl, known rfl, known rfl, known rfl, known rfl, known rfl,
    known rfl, known rfl, known rfl, known rfl, known rfl, known rfl, known rfl, known rfl, known rfl,
    exec_paramRead_of_above judging⟩

end Sys2Proof.Machine

/-! What each command leaves unchanged (O4): the frame of every command, from the frames of the operations it is made of. -/

namespace Sys2Proof.Machine

section
variable {s t : State}

/-- A step in progress that is cut short touches the memory and the count of free values alone (R126). -/
theorem touches_cutShort (s : State) : Touches [.nvm, .freeIndex] s (cutShort s) := by
  obtain ⟨m, n, h⟩ := cutShort_eq s
  rw [h]
  exact ((touches_withFreeIndex _ n).mono).trans' ((touches_withNvm s m).mono)

/-- A reset of the volatile items that keeps the parameters touches what a start-up may touch. -/
theorem touches_volatileReset (s : State) (phase : Phase) (pins : Pins) :
    Touches startUpParts s (volatileReset s phase pins s.params) := by
  intro p hp
  cases p
  case params | nvm | freeIndex | pending => rfl
  all_goals exact absurd (by decide) hp

/-- A start-up touches the volatile items alone, the parameters apart. -/
theorem touches_beginStartUp (s : State) (c : StartCause) (mv : Nat) : Touches startUpParts s (beginStartUp c mv s) :=
  (touches_startScan _ c).after ((touches_firstMeasurement _).after (touches_volatileReset s _ _))

/-- A power-on reset keeps the queue of commands. -/
theorem touches_powerOnReset {mv : Nat} {low : Bool} (h : execPowerOnReset mv low s = .next t) : Touches resetParts s t := by
  cases h
  intro p hp
  cases p
  case pending => exact touches_cutShort s .pending (by decide)
  all_goals exact absurd (by decide) hp

/-- A movement of the supply resets the part, moves the input alone, or is judged. -/
theorem touches_moveSense {mv : Nat} (h : moveSense mv s = .next t) :
    Touches (if mv < resetLevelMv then resetParts else .pins :: supplyParts) s t := by
  have moved := touches_withPins s { s.pins with senseMv := mv }
  unfold moveSense at h
  split at h
  next low => rw [if_pos low]; exact touches_powerOnReset h
  next high =>
    rw [if_neg high]
    split at h <;> cases h
    · exact moved.mono
    · exact (touches_compareSupply _).after moved.mono

/-- A frame on SEG_ID takes the segment path. -/
theorem touches_segmentFrame (l : Lane) (f : Frame) : Touches segmentParts s (receiveFrame l s.params.segId f s) := by
  unfold receiveFrame
  rw [if_pos rfl]
  repeat' split
  · exact .refl _ s
  · exact .refl _ s
  · exact touches_takeSegment s l f

/-- A frame on CTL_ID takes the control path, the two identifiers being different (R158). -/
theorem touches_controlFrame (hd : s.params.segId ≠ s.params.ctlId) (l : Lane) (f : Frame) :
    Touches [.interp, .lanes, .counters] s (receiveFrame l s.params.ctlId f s) := by
  unfold receiveFrame
  rw [if_neg hd.symm, if_pos rfl]
  repeat' split
  · exact .refl _ s
  · exact .refl _ s
  · exact touches_takeControl s l f

/-- A table read moves the cursor at most. -/
theorem touches_tableReadReply (f : Frame) : Touches [.interp] s (tableReadReply f s).state := by
  unfold tableReadReply; dsimp only
  repeat' split
  · exact .refl _ s
  · exact .refl _ s
  · exact touches_withInterp s _

theorem touches_manifestBeginReply (f : Frame) : Touches [.entries, .manifests, .streams] s (manifestBeginReply f s).state := by
  unfold manifestBeginReply; dsimp only
  repeat' split
  all_goals first | exact .refl _ s | exact touches_beginLoad s _ _ _

theorem touches_manifestDataReply (f : Frame) : Touches [.entries, .manifests] s (manifestDataReply f s).state := by
  unfold manifestDataReply; dsimp only
  repeat' split
  all_goals first | exact .refl _ s | exact touches_takeManifestData s _ _ _

theorem touches_manifestEndReply (f : Frame) : Touches engineParts s (manifestEndReply f s).state := by
  unfold manifestEndReply; dsimp only
  repeat' split
  all_goals first | exact .refl _ s | exact touches_beginAuthentication s _ _

theorem touches_streamStartReply (f : Frame) : Touches (.streams :: reportParts) s (streamStartReply f s).state := by
  unfold streamStartReply; dsimp only
  repeat' split
  all_goals first | exact .refl _ s | exact touches_startStream s _ _ _

theorem touches_streamLanesReply (f : Frame) : Touches [.streams] s (streamLanesReply f s).state := by
  unfold streamLanesReply; dsimp only
  repeat' split
  all_goals first | exact .refl _ s | exact touches_replaceLanes s _ _

/-- An abort or a close touches what its act on a stream touches. -/
theorem touches_streamReply {ps : List Part} {act : StreamNo → State → Status × State} (f : Frame)
    (h : ∀ i, Touches ps s (act i s).2) : Touches ps s (streamReply f s act).state := by
  unfold streamReply; dsimp only
  split
  · exact .refl _ s
  · exact h _

theorem touches_keyInstallReply (f : Frame) : Touches storeParts s (keyInstallReply f s).state := by
  unfold keyInstallReply; dsimp only
  split
  · exact (touches_joinOps _ _).after ((touches_withStore s _).mono)
  · exact .refl _ s

theorem touches_paramWriteReply (f : Frame) : Touches (.params :: supplyParts) s (paramWriteReply f s).state := by
  unfold paramWriteReply; dsimp only
  repeat' split
  all_goals first | exact .refl _ s | exact (touches_afterParam _ _).after ((touches_withParams s _).mono)

theorem touches_tableSelectReply (f : Frame) : Touches [.interp] s (tableSelectReply f s).state := by
  unfold tableSelectReply; dsimp only
  split
  · exact touches_withInterp s _
  · exact .refl _ s

theorem touches_cursorSetReply (f : Frame) : Touches [.interp] s (cursorSetReply f s).state := by
  unfold cursorSetReply; dsimp only
  split
  · exact touches_withInterp s _
  · exact .refl _ s

/-- The end of a trunk transmission (R154). -/
theorem touches_trunkTxEnd {l : Lane} {o : TxOutcome} (h : execTrunkTxEnd l o s = .next t) :
    Touches (.report :: answerParts) s t := by
  unfold execTrunkTxEnd at h
  split at h
  · cases h; exact .refl _ s
  next x _ =>
    cases h
    have issued : Touches [.interp] s (if issuesRestart s l x.slot then s.withInterp { s.interp with restartIssued := true } else s) := by
      split
      · exact touches_withInterp s _
      · exact .refl _ s
    exact (touches_emit _).after ((touches_serveLane _).after ((touches_handOver _ _).after ((touches_setTrunk _ _ _).after issued.mono)))

/-- The end of an NVM step touches the memory and what the version store's operations may touch (R126). -/
theorem touches_nvmStepDone {rb : Readback} (h : execNvmStepDone rb s = .next t) :
    Touches ([.nvm, .phase] ++ storeParts) s t := by
  unfold execNvmStepDone at h
  repeat' split at h
  all_goals cases h
  all_goals refine (touches_runStore _).after ?_
  · exact (touches_afterGoodStep _ _ _ _).after ((touches_withStore _ _).after ((touches_withNvm s _).mono))
  · exact (touches_afterBadStep _ _ _ _).after ((touches_withStore _ _).after ((touches_withNvm s _).mono))

/-- The end of a job on a state whose engine it has left. -/
theorem touches_jobLeft (s : State) : Touches [.engine] s (jobLeft s) := touches_withEngine s _

/-- A BUSY or a REJECTED moves nothing of the version store. -/
theorem touches_ackBusy (i : StreamNo) (b : Nat) (s : State) : Touches (.ports :: faultParts) s (ackBusy i b s) := by
  have counted := touches_countStream s i .busy
  unfold ackBusy
  split
  · dsimp only
    repeat' split
    · exact counted.mono
    · exact (touches_setCtx _ _ _).after ((touches_setSlot _ _ _).after counted.mono)
    · exact (touches_blockTimeout _ _ _ _ _).after counted.mono
  · dsimp only
    repeat' split
    · exact counted.mono
    · exact (touches_setCtx _ _ _).after ((touches_setCtx _ _ _).after counted.mono)
    · exact (touches_endTimeout _ _ _).after counted.mono
  · exact (touches_untimelyAnswer s i b).mono

theorem touches_ackRejected (i : StreamNo) (b : Nat) (s : State) : Touches (.ports :: faultParts) s (ackRejected i b s) := by
  unfold ackRejected
  split
  · exact (touches_enterFaulted s _ _).mono
  · exact (touches_enterFaulted s _ _).mono
  · exact (touches_untimelyAnswer s i b).mono

theorem touches_ackActivated (i : StreamNo) (b : Nat) (s : State) :
    Touches ([.contexts, .streams, .ports] ++ reportParts) s (ackActivated i b s) := by
  unfold ackActivated
  split
  · exact (touches_countStream s _ _).mono
  · exact touches_acceptActivated s i
  · exact (touches_countStream s _ _).mono

/-- An acknowledgement touches what its judgement for the matching stream touches (R112). -/
theorem touches_takeAck_of {ps : List Part} {r : AckResult} {b : Nat} (p : Port) (d : Ident) (h : ∀ i, Touches ps s (judgeAck i b r s)) :
    Touches ps s (takeAck p d b r s) := by
  unfold takeAck
  split
  · exact h _
  · exact .refl _ s

end

/-- Settles O4: command by command, from the frames of the operations each is made of. -/
theorem commandsChangeOnlyTheirParts : Obligations.CommandsChangeOnlyTheirParts := by
  unfold Obligations.CommandsChangeOnlyTheirParts
  intro c s t hd h
  have same {ps : List Part} : Touches ps s s := .refl ps s
  cases c with
  | powerOnReset mv low => exact touches_powerOnReset h
  | startUp mv =>
    simp only [exec, execStartUp] at h
    repeat' split at h
    all_goals cases h
    all_goals exact touches_beginStartUp s _ mv
  | segmentFrame l f => cases h; exact touches_segmentFrame l f
  | controlFrame l f => cases h; exact touches_controlFrame hd l f
  | otherTrunkFrame l d f => cases h; exact touches_receiveFrame s l d f
  | quarantineExpiry l =>
    simp only [exec, execQuarantineExpiry] at h
    split at h <;> cases h
    · exact (touches_queueRecord _ _).after ((touches_setLane s _ _).mono)
    · exact same
  | manifestBegin l f => exact touches_judgeRequest (touches_manifestBeginReply f) h
  | manifestData l f => exact touches_judgeRequest (touches_manifestDataReply f) h
  | manifestEnd l f => exact touches_judgeRequest (touches_manifestEndReply f) h
  | streamStart l f => exact touches_judgeRequest (touches_streamStartReply f) h
  | streamLanes l f => exact touches_judgeRequest (touches_streamLanesReply f) h
  | streamAbort l f => exact touches_judgeRequest (touches_streamReply f (touches_abortStream s)) h
  | streamClose l f => exact touches_judgeRequest (touches_streamReply f (touches_closeStream s)) h
  | keyInstall l f => exact touches_judgeRequest (touches_keyInstallReply f) h
  | flush l f =>
    exact (touches_judgeRequest (ps := [.report, .trunk]) ((touches_beginDrain _).after ((touches_withReport s _).mono)) h).mono
  | snapshot l f => exact touches_judgeRequest (touches_takeSnapshot s) h
  | paramWrite l f => exact touches_judgeRequest (touches_paramWriteReply f) h
  | paramRead l f => exact touches_judgeRequest (ps := []) same h
  | tableSelect l f => exact (touches_judgeRequest (touches_tableSelectReply f) h).mono
  | cursorSet l f => exact (touches_judgeRequest (touches_cursorSetReply f) h).mono
  | direct l f | atCursor l f | postInc l f | preInc l f | offset l f =>
    exact (touches_judgeRequest (touches_tableReadReply f) h).mono
  | restart l f => exact (touches_judgeRequest (touches_withInterp s _) h).mono
  | unknownCode l f | noCodeFrame l f => exact touches_judgeRequest (ps := []) same h
  | trunkTxEnd l o => exact touches_trunkTxEnd (o := o) h
  | blockJobDone =>
    simp only [exec, execBlockJobDone] at h
    repeat' split at h
    all_goals cases h
    · exact (touches_judgeHead _).after ((touches_blockOutcome _ _).after ((touches_jobLeft s).mono))
    all_goals exact same
  | macJobDone =>
    simp only [exec, execMacJobDone] at h
    repeat' split at h
    all_goals cases h
    · exact (touches_judgeHead _).after ((touches_macOutcome _ _).after ((touches_jobLeft s).mono))
    all_goals exact same
  | branchTxEnd p o =>
    simp only [exec, execBranchTxEnd] at h
    split at h <;> cases h
    · exact same
    · exact (touches_servePort _ _).after ((touches_frameEnded _ _).after ((touches_setPort s _ _).mono))
  | branchFrame p d f =>
    simp only [exec, execBranchFrame] at h
    repeat' split at h
    all_goals cases h
    · exact same
    · exact (touches_countStream s _ _).mono
    · exact (touches_countStream s _ _).mono
    · exact touches_judgeAck s _ _ _
  | written p d b => cases h; exact touches_takeAck s _ _ _ _
  | busy p d b => cases h; exact touches_takeAck_of p d fun i => touches_ackBusy i _ s
  | rejected p d b => cases h; exact touches_takeAck_of p d fun i => touches_ackRejected i _ s
  | activated p d b => cases h; exact touches_takeAck_of p d fun i => touches_ackActivated i _ s
  | ackTimeout i =>
    simp only [exec, execAckTimeout] at h
    repeat' split at h
    all_goals cases h
    · exact touches_blockTimeout s _ _ _ _
    · exact touches_endTimeout s _ _
    all_goals exact same
  | nvmStepDone rb => exact touches_nvmStepDone h
  | stallExpiry i =>
    simp only [exec, execStallExpiry] at h
    repeat' split at h
    all_goals cases h
    · exact touches_stallGap s _ _
    · exact (touches_setStream s _ _).mono
    · exact same
  | quietExpiry i l =>
    simp only [exec, execQuietExpiry] at h
    repeat' split at h
    all_goals cases h
    · exact (touches_queueRecord _ _).after ((touches_setStream s _ _).mono)
    all_goals exact same
  | departureBegin mv | departureEnd mv => exact touches_moveSense h
  | filterExpiry =>
    simp only [exec, execFilterExpiry] at h
    split at h <;> cases h
    · exact touches_changeSupply s
    · exact same
  | packetTimerExpiry =>
    simp only [exec, execPacketTimerExpiry] at h
    split at h <;> cases h
    · exact touches_beginDrain s
    · exact same
  | absoluteTimerExpiry =>
    simp only [exec, execAbsoluteTimerExpiry] at h
    split at h <;> cases h
    · exact touches_beginDrain s
    · exact same

end Sys2Proof.Machine

/-! Laws that every step keeps (O54, O56): the induction over commands, packaged once on `Settles` and `Turn`, and two bundles of laws. -/

namespace Sys2Proof.Machine

section
variable {s t u v : State}

/-! ## One induction for the laws that settling keeps -/

/-- A step idles, or runs the front command on the queue's rest. -/
theorem step_cases (h : step s = .next t) : t = s ∨ ∃ c rest, s.pending = c :: rest ∧ exec c (s.withPending rest) = .next t := by
  unfold step at h
  split at h
  next => cases h; exact .inl rfl
  next c rest e => exact .inr ⟨c, rest, e, h⟩

/-- The queue of commands is the model's own: no law speaks of it. -/
theorem settles_withPending (s : State) (q : List Instr) : Settles s (s.withPending q) := by
  refine .of_touches (ps := [.pending]) fun p hp => ?_
  cases p
  case pending => exact absurd (by decide) hp
  case entries => exact ⟨rfl, rfl⟩
  all_goals rfl

/-- A cut step changes the memory within its canonical form (R126). -/
theorem settles_cutShort (s : State) : Settles s (cutShort s) := by
  have wf := @wf_cutShort s
  obtain ⟨m, n, h⟩ := cutShort_eq s
  rw [h] at wf ⊢
  exact Settles.after (.of_touches (touches_withFreeIndex _ n)) (settles_withNvm s wf)

/-- A law that settling, every turn, a reset of the volatile items and a change of the store keep. -/
structure Kept (P : State → Prop) : Prop where
  settles : ∀ {s t}, Settles s t → P s → P t
  turn : ∀ {k s t}, Turn k s t → P s → P t
  reset : ∀ {s} phase pins params, P s → P (volatileReset s phase pins params)
  store : ∀ {s} x, P s → P (s.withStore x)

/-- Such a law is kept by every command. -/
theorem Kept.exec {P : State → Prop} (kept : Kept P) {c : Instr} (h : exec c s = .next t) (hs : P s) : P t := by
  cases hc : isReset c with
  | false =>
    obtain settled | ⟨k, -, u, v, before, turned, after⟩ := moves_exec c hc h
    · exact kept.settles settled hs
    · exact kept.settles after (kept.turn turned (kept.settles before hs))
  | true =>
    obtain ⟨pins, rfl⟩ | ⟨cause, mv, rfl⟩ := resets_exec c hc h
    · exact kept.reset _ _ _ (kept.settles (settles_cutShort s) hs)
    · obtain ⟨u, x, measured, -, scanned⟩ := beginStartUp_settles cause mv s
      exact kept.settles scanned (kept.store x (kept.settles measured (kept.reset _ _ _ hs)))

/-- Such a law is kept by every step. -/
theorem Kept.step {P : State → Prop} (kept : Kept P) (h : step s = .next t) (hs : P s) : P t := by
  obtain rfl | ⟨c, rest, -, ran⟩ := step_cases h
  · exact hs
  · exact kept.exec ran (kept.settles (settles_withPending s rest) hs)

/-! ## Memories, reports, counters and control queues -/

/-- The laws of O54 together. -/
def Bookkept (s : State) : Prop := MemoriesCanonical s ∧ ReportLaw s ∧ CountersBounded s ∧ ControlQueueLaw s

/-- The counters at reset are within 32 bits. -/
theorem Counters.bounded_zero : Counters.zero.Bounded := by
  refine ⟨fun l k => ?_, fun i k => ?_, Nat.zero_le _⟩
  all_goals
    simp only [Counters.zero, Fin.getElem_fin, Vector.getElem_replicate]
    exact Nat.zero_le _

theorem bookkept_settles (h : Settles s t) (b : Bookkept s) : Bookkept t := by
  obtain ⟨memories, report, ⟨live, snapshot, count⟩, queues⟩ := b
  refine ⟨h.memories memories, h.report report, ⟨h.counters live, ?_⟩, fun l => (h.lanes l).trans (queues l)⟩
  rw [h.snapshot]
  exact ⟨snapshot, count⟩

theorem controlQueueLaw_join {l : Lane} {f : Frame} (room : s.lanes[l].queue.length < controlQueueMax) (h : ControlQueueLaw s) :
    ControlQueueLaw (s.setLane l { s.lanes[l] with queue := s.lanes[l].queue ++ [f] }) := by
  intro m
  by_cases e : m = l
  · subst e
    simp only [State.setLane_lanes, Fin.getElem_fin, Vector.getElem_set_self, List.length_append, List.length_singleton]
    exact room
  · have ne : l.val ≠ m.val := fun hv => e (Fin.ext hv.symm)
    simp only [State.setLane_lanes, Fin.getElem_fin, Vector.getElem_set_ne _ _ ne]
    exact h m

/-- A snapshot copies the counters and clears the live ones (R179). -/
theorem countersBounded_snapshot (h : CountersBounded s) : CountersBounded (takeSnapshot s) :=
  ⟨Counters.bounded_zero, h.1, satInc_le h.2.2⟩

theorem bookkept_turn {k : TurnKind} (h : Turn k s t) (b : Bookkept s) : Bookkept t := by
  obtain ⟨memories, report, counters, queues⟩ := b
  cases h with
  | allocate | start | accept | verify | commit => exact ⟨memories, report, counters, queues⟩
  | join room => exact ⟨memories, report, counters, controlQueueLaw_join room queues⟩
  | snapshot => exact ⟨memories, report, countersBounded_snapshot counters, queues⟩
  | load =>
    obtain ⟨nvm, staging, bytes, counts⟩ := memories
    exact ⟨⟨nvm, staging, settles_foldClear _ _ _ _ _ bytes, settles_foldClear _ _ _ _ _ counts⟩, report, counters, queues⟩

theorem reportLaw_idle (h : s.report = ReportUnit.idle) : ReportLaw s := by
  rw [reportLaw_iff, h]
  exact ⟨Nat.zero_le _, Nat.zero_le _, fun i => Nat.zero_le _⟩

theorem bookkept_reset (phase : Phase) (pins : Pins) (params : Params) (b : Bookkept s) :
    Bookkept (volatileReset s phase pins params) := by
  refine ⟨⟨b.1.1, rfl, rfl, rfl⟩, reportLaw_idle rfl, ⟨Counters.bounded_zero, Counters.bounded_zero, Nat.zero_le _⟩, fun l => ?_⟩
  simp only [volatileReset, State.reset, Fin.getElem_fin, Vector.getElem_replicate]
  exact Nat.zero_le _

theorem kept_bookkept : Kept Bookkept where
  settles := bookkept_settles
  turn := bookkept_turn
  reset := bookkept_reset
  store _ b := b

/-! ## Loads, extents, reservations and slots -/

/-- The laws of O56 together. -/
def Allotted (s : State) : Prop := SingleLoadLaw s ∧ ExtentLaw s ∧ ReservationLaw s ∧ SlotLaw s

/-- No more streams load than before. -/
theorem singleLoadLaw_of_loads (h : ∀ i : StreamNo, t.streams[i].state.loads = true → s.streams[i].state.loads = true)
    (law : SingleLoadLaw s) : SingleLoadLaw t :=
  fun i j hi hj => law i j (h i hi) (h j hj)

theorem extentLaw_settles (h : Settles s t) (law : ExtentLaw s) : ExtentLaw t := by
  have subset (i : StreamNo) : ∀ e ∈ t.manifests[i].extents, e ∈ s.manifests[i].extents := by
    intro e he
    obtain ⟨empty, -⟩ | ⟨same, -⟩ := h.manifests i
    · rw [empty] at he; cases he
    · rwa [same] at he
  refine ⟨fun i => ?_, fun i j e hi hj => law.2 i j e (subset i e hi) (subset j e hj)⟩
  obtain ⟨empty, none⟩ | ⟨same, sameLength⟩ := h.manifests i
  · rw [empty, none]
    exact ⟨List.nodup_nil, fun e he => (List.not_mem_nil he).elim, Nat.zero_le _⟩
  · rw [same, sameLength]
    exact law.1 i

/-- The window that a stream's held reservation counts for (R31). -/
def Stream.reserved (x : Stream) : Nat := if x.reservationHeld then x.window else 0

theorem reservedTotal_eq_sum (s : State) : reservedTotal s = ∑ i : StreamNo, s.streams[i].reserved :=
  (Fin.sum_univ_def _).symm

theorem reservationLaw_settles (h : Settles s t) (law : ReservationLaw s) : ReservationLaw t := by
  refine Nat.le_trans ?_ law
  rw [reservedTotal_eq_sum, reservedTotal_eq_sum]
  refine Finset.sum_le_sum fun i _ => ?_
  unfold Stream.reserved
  split
  next held =>
    obtain ⟨before, window⟩ := (h.streams i).held held
    rw [if_pos before, window]
  next => exact Nat.zero_le _

/-- Replacing one descriptor adds at most its window to the sum. -/
theorem reservedTotal_setStream_le (s : State) (i : StreamNo) (x : Stream) :
    reservedTotal (s.setStream i x) ≤ reservedTotal s + x.window := by
  rw [reservedTotal_eq_sum, reservedTotal_eq_sum]
  calc ∑ j : StreamNo, (s.setStream i x).streams[j].reserved
      ≤ ∑ j : StreamNo, (s.streams[j].reserved + if j = i then x.window else 0) := by
        refine Finset.sum_le_sum fun j _ => ?_
        rw [streams_set]
        split
        · unfold Stream.reserved; split <;> omega
        · exact Nat.le_add_right _ _
    _ = _ := by rw [Finset.sum_add_distrib, Finset.sum_ite_eq' Finset.univ i, if_pos (Finset.mem_univ i)]

theorem slotLaw_settles (h : Settles s t) (law : SlotLaw s) : SlotLaw t := by
  have holds (k : SlotNo) (i : StreamNo) (b : Nat) (held : t.slots[k].holds i b = true) : s.slots[k].holds i b = true := by
    obtain ⟨g, hg, same⟩ := holder_of_holds held
    obtain none | kept := (h.slots k).holder
    · rw [none] at hg; cases hg
    · unfold Slot.holds at held ⊢; rwa [kept] at held
  exact ⟨fun k => (h.slots k).heldUnlessFree (law.1 k), fun k q i b hk hq => law.2 k q i b (holds k i b hk) (holds q i b hq)⟩

theorem allotted_settles (h : Settles s t) : Allotted s → Allotted t := fun ⟨loads, extents, reservations, slots⟩ =>
  ⟨singleLoadLaw_of_loads (fun i => (h.streams i).loads) loads, extentLaw_settles h extents, reservationLaw_settles h reservations,
    slotLaw_settles h slots⟩

/-- A slot that no stream's block occupies is given to a block that has none (R68, R76). -/
theorem slotLaw_allocate {k : SlotNo} {i : StreamNo} {b e : Nat} (unheld : slotOf s i b = none) (law : SlotLaw s) :
    SlotLaw (allocateSlot k i b e s) := by
  have none (q : SlotNo) : s.slots[q].holds i b ≠ true := List.find?_eq_none.mp unheld q (List.mem_finRange q)
  have only (q : SlotNo) (j : StreamNo) (c : Nat) (held : (allocateSlot k i b e s).slots[q].holds j c = true) :
      (q = k ∧ j = i ∧ c = b) ∨ (q ≠ k ∧ s.slots[q].holds j c = true) := by
    unfold allocateSlot at held
    rw [slots_set] at held
    split at held
    next e =>
      simp only [Slot.holds, Bool.and_eq_true, beq_iff_eq] at held
      exact .inl ⟨e, held.1.symm, held.2.symm⟩
    next ne => exact .inr ⟨ne, held⟩
  refine ⟨fun q => ?_, fun q r j c hq hr => ?_⟩
  · unfold allocateSlot
    rw [slots_set]
    split
    · exact ⟨nofun, nofun⟩
    · exact law.1 q
  · obtain ⟨rfl, rfl, rfl⟩ | ⟨-, heldQ⟩ := only q j c hq <;> obtain ⟨rfl, same⟩ | ⟨-, heldR⟩ := only r _ _ hr
    · rfl
    · exact absurd heldR (none r)
    · obtain ⟨rfl, rfl⟩ := same; exact absurd heldQ (none q)
    · exact law.2 q r j c heldQ heldR

/-- The state of a held slot turns to one that is not FREE. -/
theorem slotLaw_verify {k : SlotNo} {h : Holder} (held : s.slots[k].holder = some h) (law : SlotLaw s) :
    SlotLaw (s.setSlot k { s.slots[k] with state := .verified }) := by
  have holder (q : SlotNo) : (s.setSlot k { s.slots[k] with state := .verified }).slots[q].holder = s.slots[q].holder := by
    rw [slots_set]; split
    next e => rw [e]
    next => rfl
  have holds (q : SlotNo) (i : StreamNo) (b : Nat) :
      (s.setSlot k { s.slots[k] with state := .verified }).slots[q].holds i b = s.slots[q].holds i b := by
    unfold Slot.holds; rw [holder]
  refine ⟨fun q => ?_, fun q r i b hq hr => law.2 q r i b (holds q i b ▸ hq) (holds r i b ▸ hr)⟩
  rw [slots_set]; split
  · exact ⟨nofun, fun none => nomatch held.symm.trans none⟩
  · exact law.1 q

/-- What a list of `n` entries needs in extents covers the declared length (R4, R7). -/
theorem declaredLength_le {len n : Nat} (h : declaredCount len = some n) :
    len ≤ 64 + entrySize * extentEntries * extentsFor n := by
  unfold declaredCount at h
  split at h
  next hl =>
    cases h
    simp only [extentsFor, extentEntries, entrySize]
    omega
  next => cases h

/-- The pool holds each extent once, below 32, and in no list (R3). -/
theorem nodup_freeExtents (s : State) : (freeExtents s).Nodup := List.nodup_range.filter _

theorem mem_freeExtents {e : Nat} : e ∈ freeExtents s ↔ e < 32 ∧ ∀ i : StreamNo, e ∉ s.manifests[i].extents := by
  simp [freeExtents]

theorem manifests_set (s : State) (i : StreamNo) (y) (j : StreamNo) :
    (s.setManifest i y).manifests[j] = if j = i then y else s.manifests[j] := by
  simp only [State.setManifest_manifests, Fin.getElem_fin, Vector.getElem_set, Fin.ext_iff, eq_comm]

/-- The extents of a stream's list once stream `i` begins to load. -/
theorem beginLoad_manifests (i : StreamNo) (len n : Nat) (s : State) (j : StreamNo) :
    (beginLoad i len n s).manifests[j] = if j = i then
      { s.manifests[i] with extents := (freeExtents s).take (extentsFor n), declaredLength := some len,
                            declaredBlocks := some n, received := 0 }
    else s.manifests[j] := by
  unfold beginLoad
  dsimp only [State.setStream_manifests]
  rw [manifests_set]
  rfl

theorem extentLaw_beginLoad {i : StreamNo} {len n : Nat} (declared : declaredCount len = some n)
    (room : extentsFor n ≤ (freeExtents s).length) (law : ExtentLaw s) : ExtentLaw (beginLoad i len n s) := by
  have taken {e} (he : e ∈ (freeExtents s).take (extentsFor n)) : e < 32 ∧ ∀ j : StreamNo, e ∉ s.manifests[j].extents :=
    mem_freeExtents.mp (List.mem_of_mem_take he)
  refine ⟨fun j => ?_, fun j k e hj hk => ?_⟩
  · rw [beginLoad_manifests]
    split
    · refine ⟨(nodup_freeExtents s).sublist (List.take_sublist _ _), fun e he => (taken he).1, ?_⟩
      simp only [List.length_take, Nat.min_eq_left room, Option.getD_some]
      exact declaredLength_le declared
    · exact law.1 j
  · rw [beginLoad_manifests] at hj hk
    split at hj <;> split at hk
    next ej ek => rw [ej, ek]
    next => exact absurd hk ((taken hj).2 k)
    next => exact absurd hj ((taken hk).2 j)
    next => exact law.2 j k e hj hk

/-- Of the streams that load after a MANIFEST_BEGIN there is the one it names alone (R6, R7). -/
theorem singleLoadLaw_beginLoad {i : StreamNo} {len n : Nat} (others : otherLoads s i = false) :
    SingleLoadLaw (beginLoad i len n s) := by
  have only (j : StreamNo) (hj : (beginLoad i len n s).streams[j].state.loads = true) : j = i := by
    by_contra ne
    unfold beginLoad at hj
    rw [streams_set, if_neg ne] at hj
    have := List.any_eq_false.mp others j (List.mem_finRange j)
    simp only [Bool.and_eq_true, bne_iff_ne, not_and] at this
    exact this ne hj
  exact fun j k hj hk => (only j hj).trans (only k hk).symm

/-- A descriptor that does not load takes another's place. -/
theorem singleLoadLaw_setStream {i : StreamNo} {x : Stream} (idle : x.state.loads = false) (law : SingleLoadLaw s) :
    SingleLoadLaw (s.setStream i x) := by
  refine singleLoadLaw_of_loads (fun j hj => ?_) law
  rw [streams_set] at hj
  split at hj
  · rw [idle] at hj; cases hj
  · exact hj

/-- The sum reads each descriptor's reservation alone. -/
theorem reservedTotal_congr (same : ∀ i : StreamNo, t.streams[i].reserved = s.streams[i].reserved) :
    reservedTotal t = reservedTotal s := by
  rw [reservedTotal_eq_sum, reservedTotal_eq_sum]
  exact Finset.sum_congr rfl fun i _ => same i

theorem reservedTotal_beginLoad (i : StreamNo) (len n : Nat) (s : State) :
    reservedTotal (beginLoad i len n s) = reservedTotal s := by
  refine reservedTotal_congr fun j => ?_
  unfold beginLoad
  rw [streams_set]
  split
  next e => rw [e]; rfl
  next => rfl

/-- A descriptor with the reservation of the one it replaces leaves the sum as it is. -/
theorem reservedTotal_setStream {i : StreamNo} {x : Stream} (same : x.reserved = s.streams[i].reserved) :
    reservedTotal (s.setStream i x) = reservedTotal s := by
  refine reservedTotal_congr fun j => ?_
  rw [streams_set]
  split
  next e => rw [same, e]
  next => rfl

theorem allotted_turn {k : TurnKind} (h : Turn k s t) (a : Allotted s) : Allotted t := by
  obtain ⟨loads, extents, reservations, slots⟩ := a
  cases h with
  | join | snapshot | commit => exact ⟨loads, extents, reservations, slots⟩
  | allocate unheld _ => exact ⟨loads, extents, reservations, slotLaw_allocate unheld slots⟩
  | verify held _ _ => exact ⟨loads, extents, reservations, slotLaw_verify held slots⟩
  | load _ others declared room =>
    refine ⟨singleLoadLaw_beginLoad others, extentLaw_beginLoad declared room extents, ?_, slots⟩
    exact (reservedTotal_beginLoad _ _ _ s).le.trans reservations
  | @start _ i x _ active _ room =>
    refine ⟨singleLoadLaw_setStream (by rw [active]; rfl) loads, extents, ?_, slots⟩
    exact (reservedTotal_setStream_le s i x).trans room
  | accept =>
    refine ⟨singleLoadLaw_setStream rfl loads, extents, (reservedTotal_setStream ?_).le.trans reservations, slots⟩
    rfl

theorem volatileReset_streams (s : State) (phase : Phase) (pins : Pins) (params : Params) (i : StreamNo) :
    (volatileReset s phase pins params).streams[i] = Stream.vacant := by simp [volatileReset, State.reset]

theorem volatileReset_manifests (s : State) (phase : Phase) (pins : Pins) (params : Params) (i : StreamNo) :
    (volatileReset s phase pins params).manifests[i] = ManifestRec.empty := by simp [volatileReset, State.reset]

theorem volatileReset_slots (s : State) (phase : Phase) (pins : Pins) (params : Params) (k : SlotNo) :
    (volatileReset s phase pins params).slots[k] = Slot.free := by simp [volatileReset, State.reset]

theorem allotted_reset (phase : Phase) (pins : Pins) (params : Params) : Allotted (volatileReset s phase pins params) := by
  refine ⟨fun i j hi => ?_, ⟨fun i => ?_, fun i j e hi => ?_⟩, ?_, fun k => ?_, fun k q i b hk => ?_⟩
  · rw [volatileReset_streams] at hi; cases hi
  · rw [volatileReset_manifests]
    exact ⟨List.nodup_nil, fun e he => (List.not_mem_nil he).elim, Nat.zero_le _⟩
  · rw [volatileReset_manifests] at hi; cases hi
  · simp only [ReservationLaw, reservedTotal_eq_sum, volatileReset_streams]
    decide
  · rw [volatileReset_slots]; exact Slot.free_heldUnlessFree
  · rw [volatileReset_slots] at hk; cases hk

theorem kept_allotted : Kept Allotted where
  settles := allotted_settles
  turn := allotted_turn
  reset phase pins params _ := allotted_reset phase pins params
  store _ a := a

end

/-- Settles O54: settling, each turn and a reset keep the four laws. -/
theorem stepsKeepMemoriesReportsAndCounters : Obligations.StepsKeepMemoriesReportsAndCounters := by
  unfold Obligations.StepsKeepMemoriesReportsAndCounters
  exact fun s t h => kept_bookkept.step h

/-- Settles O56: settling, each turn and a reset keep the four laws. -/
theorem stepsKeepLoadsExtentsAndSlots : Obligations.StepsKeepLoadsExtentsAndSlots := by
  unfold Obligations.StepsKeepLoadsExtentsAndSlots
  exact fun s t h => kept_allotted.step h

end Sys2Proof.Machine

/-! The laws of slots, windows, jobs and releases along a step (O57), and the floor law (O58): the invariants `Flow` and `Stored` through
every command and every reset. -/

namespace Sys2Proof.Machine

section
variable {s t u v : State}

/-! ## Windows, jobs and releases -/

/-- Every command keeps the invariant, over the low edges of the streams that exist before it. -/
theorem flow_of_exec {c : Instr} (h : exec c s = .next t) (laws : ReleaseLaws s) : Flow (edgesOf s) none t := by
  cases hc : isReset c with
  | false => exact flow_exec c hc h laws.flow fun i vacant => if_pos vacant
  | true =>
    obtain ⟨pins, rfl⟩ | ⟨cause, mv, rfl⟩ := resets_exec c hc h
    · exact flow_volatileReset _ _ _ _ _
    · exact flow_beginStartUp _ _ _ _

/-- Every step does. -/
theorem flow_step (h : step s = .next t) (laws : ReleaseLaws s) : Flow (edgesOf s) none t := by
  obtain rfl | ⟨c, rest, -, ran⟩ := step_cases h
  · exact laws.flow
  · exact flow_of_exec (s := s.withPending rest) ran laws

/-- The low edge of a stream that exists before and after is no lower (R26). -/
theorem Flow.lowEdge_le {i : StreamNo} (f : Flow (edgesOf s) none t) (before : s.streams[i].state ≠ .vacant)
    (after : t.streams[i].state ≠ .vacant) : s.streams[i].lowEdge ≤ t.streams[i].lowEdge := by
  obtain vacant | le := f.base i
  · exact absurd vacant after
  · unfold edgesOf at le
    rwa [if_neg before] at le

/-! ## Floors in the governing table -/

theorem FloorsKept.refl (rows : List GovRow) : FloorsKept rows rows := fun _ => Nat.le_refl _

/-- A turn other than a commit leaves the store as it is. -/
theorem turn_floors {k : TurnKind} (h : Turn k s t) (keeps : s.store.KeepsFloor) :
    t.store.KeepsFloor ∧ FloorsKept s.store.governing t.store.governing := by
  cases h with
  | commit commits => exact (commits keeps).symm
  | allocate | join | load | start | snapshot | accept | verify => exact ⟨keeps, .refl _⟩

/-- No command but a reset lowers a floor of the governing table (R134, R136, R138). -/
theorem floors_exec {c : Instr} (hc : isReset c = false) (h : exec c s = .next t) (keeps : s.store.KeepsFloor) :
    t.store.KeepsFloor ∧ FloorsKept s.store.governing t.store.governing := by
  obtain settled | ⟨k, -, u, v, before, turned, after⟩ := moves_exec c hc h
  · rw [settled.governing]
    exact ⟨settled.store keeps, .refl _⟩
  · obtain ⟨keptV, floors⟩ := turn_floors turned (before.store keeps)
    rw [after.governing, ← before.governing]
    exact ⟨after.store keptV, floors⟩

/-! ## Floors as a scan finds them -/

/-- No floor that a scan of the memory would find has fallen. -/
def ScannedFloorsKept (s t : State) : Prop := FloorsKept (scannedStore s.nvm).governing (scannedStore t.nvm).governing

/-- What every step keeps of the version store (R129 to R139). -/
def FloorLaw (s t : State) : Prop := StoreLaw t ∧ t.store.KeepsFloor ∧ ScannedFloorsKept s t

/-- A command that is no reset, while the part runs. -/
theorem floorLaw_exec {c : Instr} (hc : isReset c = false) (sound : ScrubReadsSound c s) (h : exec c s = .next t) (f : Stored s)
    (keeps : s.store.KeepsFloor) : FloorLaw s t := by
  have g : Stored t := stored_exec c hc sound h f
  obtain ⟨keptT, floors⟩ := floors_exec hc h keeps
  refine ⟨g.law, keptT, ?_⟩
  unfold ScannedFloorsKept
  rwa [f.governing, g.governing]

/-- A command that is no reset, while the part is held in reset, moves the input at most. -/
theorem floorLaw_held {c : Instr} (hc : isReset c = false) (h : exec c s = .next t) (held : HeldLaw s) (inReset : s.phase = .inReset)
    (law : StoreLaw s) (keeps : s.store.KeepsFloor) : FloorLaw s t := by
  rw [held_exec hc held inReset h]
  exact ⟨law, keeps, .refl _⟩

/-- What a reset leaves of the memory: canonical, with room, and no floor lower. -/
theorem cutShort_floors (held : HeldLaw s) (law : StoreLaw s) (keeps : s.store.KeepsFloor) :
    (cutShort s).nvm.wf erasedByte = true ∧ RoomLaw (s.withNvm (cutShort s).nvm) ∧
      (scannedStore (cutShort s).nvm).activeSeq ≠ some 0xFFFFFFFF#32 ∧ ScannedFloorsKept s (cutShort s) := by
  by_cases inReset : s.phase = .inReset
  · have noRun : stepInProgress s = none := by rw [held inReset]; rfl
    rw [cutShort_of_none noRun]
    obtain ⟨wf, sequence, room, -, -⟩ := law
    exact ⟨wf, room, sequence, .refl _⟩
  · have f := law.stored inReset
    obtain ⟨wf, room, w, shows, floors⟩ := f.cutShort
    refine ⟨wf, room, shows.seq_ne, ?_⟩
    unfold ScannedFloorsKept
    rw [f.governing, shows.1]
    exact floors keeps

/-- A power-on reset. -/
theorem floorLaw_powerOnReset (pins : Pins) (held : HeldLaw s) (law : StoreLaw s) (keeps : s.store.KeepsFloor) :
    FloorLaw s (volatileReset (cutShort s) .inReset pins Params.default) := by
  obtain ⟨wf, room, sequence, floors⟩ := cutShort_floors held law keeps
  exact ⟨⟨wf, sequence, room_volatileReset (s := s.withNvm (cutShort s).nvm) room .inReset pins Params.default,
    commitLaw_of_idle rfl (.inl rfl), fun awake => absurd rfl awake⟩, trivial, floors⟩

/-- The room law reads the memory and the accepted manifests alone. -/
theorem roomLaw_congr (nvm : t.nvm = s.nvm) (streams : t.streams = s.streams) (law : RoomLaw s) : RoomLaw t := by
  unfold RoomLaw
  rwa [nvm, streams]

/-- A start-up. -/
theorem floorLaw_beginStartUp (cause : StartCause) (mv : Nat) (law : StoreLaw s) : FloorLaw s (beginStartUp cause mv s) := by
  obtain ⟨wf, sequence, room, -, -⟩ := law
  have nvm : (beginStartUp cause mv s).nvm = s.nvm := touches_beginStartUp s cause mv .nvm (by decide)
  refine ⟨?_, KeepsFloor_startScan _ _, ?_⟩
  · let r := volatileReset s .scanning { senseMv := mv, resetnLow := false } s.params
    have measured := touches_firstMeasurement r
    have sameNvm : (firstMeasurement r).nvm = s.nvm := measured .nvm (by decide)
    have samePhase : (firstMeasurement r).phase = .scanning := measured .phase (by decide)
    refine (Stored.startScan (s := firstMeasurement r) ?_ ?_ ?_ ?_ cause).law
    · rwa [sameNvm]
    · rwa [sameNvm]
    · exact roomLaw_congr (s := r) sameNvm (measured .streams (by decide)) (room_volatileReset room _ _ _)
    · rw [samePhase]; decide
  · unfold ScannedFloorsKept
    rw [nvm]
    exact .refl _

/-- Every command, a failed scrub reading soundly. -/
theorem floorLaw_of_exec {c : Instr} (sound : ScrubReadsSound c s) (h : exec c s = .next t) (held : HeldLaw s) (law : StoreLaw s)
    (keeps : s.store.KeepsFloor) : FloorLaw s t := by
  cases hc : isReset c with
  | false =>
    by_cases inReset : s.phase = .inReset
    · exact floorLaw_held hc h held inReset law keeps
    · exact floorLaw_exec hc sound h (law.stored inReset) keeps
  | true =>
    obtain ⟨pins, rfl⟩ | ⟨cause, mv, rfl⟩ := resets_exec c hc h
    · exact floorLaw_powerOnReset pins held law keeps
    · exact floorLaw_beginStartUp cause mv law

/-- A part held in reset is at its reset values whatever waits in its queue. -/
theorem heldLaw_withPending (held : HeldLaw s) (q : List Instr) : HeldLaw (s.withPending q) := fun inReset =>
  congrArg (State.withPending · q) (held inReset)

end

/-- Settles O57: the invariant `Flow` through the step, and what it gives. -/
theorem stepsKeepWindowsJobsAndReleases : Obligations.StepsKeepWindowsJobsAndReleases := by
  unfold Obligations.StepsKeepWindowsJobsAndReleases
  intro s t h laws
  have f := flow_step h laws
  exact ⟨f.laws, fun i => ⟨f.slotsHeld_le i, f.low i, f.lowEdge_le⟩, f.fifo_bounded⟩

/-- Settles O58: the governing table through every command, and the invariant `Stored` through the step. -/
theorem floorsNeverFall : Obligations.FloorsNeverFall := by
  unfold Obligations.FloorsNeverFall
  refine ⟨fun c s t hc h keeps => floors_exec hc h keeps, fun s t h sound ⟨held, law, keeps⟩ => ?_,
    fun s law awake => (law.stored awake).governing.symm⟩
  obtain rfl | ⟨c, rest, queued, ran⟩ := step_cases h
  · exact ⟨law, keeps, FloorsKept.refl _⟩
  · have reads : ScrubReadsSound c s := sound c (by rw [queued]; rfl)
    exact floorLaw_of_exec (s := s.withPending rest) reads ran (heldLaw_withPending held rest) law keeps

end Sys2Proof.Machine

/-! The two halves of the release law's roots (O59, O60): only a digest match makes a slot VERIFIED, and only an authenticated load gives a
stream an accepted manifest. The command is found among those whose turns can do it, and then looked into. -/

namespace Sys2Proof.Machine

section
variable {s t u v : State}

/-! ## A slot becomes VERIFIED -/

/-- Slot `k` turns VERIFIED from `s` to `t`. -/
def Verifies (k : SlotNo) (s t : State) : Prop := t.slots[k].state = .verified ∧ s.slots[k].state ≠ .verified

/-- Settling makes no slot VERIFIED. -/
theorem Settles.not_verifies {k : SlotNo} (h : Settles s t) : ¬ Verifies k s t := fun ⟨after, before⟩ =>
  before ((h.slots k).verified after)

/-- Of the turns only the one named so does. -/
theorem Turn.kind_of_verifies {kind : TurnKind} {k : SlotNo} (h : Turn kind s t) (verifies : Verifies k s t) : kind = .verify := by
  obtain ⟨after, before⟩ := verifies
  cases h with
  | verify => rfl
  | allocate =>
    unfold allocateSlot at after
    rw [slots_set] at after
    split at after
    · cases after
    · exact absurd after before
  | join | load | start | snapshot | accept | commit => exact absurd after before

/-- After a reset every slot is FREE. -/
theorem not_verified_of_reset {c : Instr} {k : SlotNo} (hc : isReset c = true) (h : exec c s = .next t) :
    t.slots[k].state ≠ .verified := by
  obtain ⟨pins, rfl⟩ | ⟨cause, mv, rfl⟩ := resets_exec c hc h
  · rw [volatileReset_slots]; decide
  · intro verified
    obtain ⟨u, x, measured, -, scanned⟩ := beginStartUp_settles cause mv s
    have before := (measured.slots k).verified ((scanned.slots k).verified verified)
    rw [volatileReset_slots] at before
    cases before

theorem eq_blockJobDone_of_turn {c : Instr} (listed : .verify ∈ turnsOf c) : c = .blockJobDone := by
  cases c <;> simp [turnsOf] at listed ⊢

theorem eq_macJobDone_of_turn {c : Instr} (listed : .accept ∈ turnsOf c) : c = .macJobDone := by
  cases c <;> simp [turnsOf] at listed ⊢

/-- Only the completion of a block job can make a slot VERIFIED. -/
theorem blockJobDone_of_verifies {c : Instr} {k : SlotNo} (h : exec c s = .next t) (verifies : Verifies k s t) : c = .blockJobDone := by
  cases hc : isReset c with
  | true => exact absurd verifies.1 (not_verified_of_reset hc h)
  | false =>
    obtain settled | ⟨kind, listed, u, v, before, turned, after⟩ := moves_exec c hc h
    · exact absurd verifies settled.not_verifies
    have ofTurn : Verifies k u v :=
      ⟨(after.slots k).verified verifies.1, fun old => verifies.2 ((before.slots k).verified old)⟩
    rw [turned.kind_of_verifies ofTurn] at listed
    exact eq_blockJobDone_of_turn listed

/-- A match is the only outcome of a block job that makes a slot VERIFIED: the job's own (R96). -/
theorem blockOutcome_verifies {q k : SlotNo} (verifies : Verifies k s (blockOutcome q s)) :
    k = q ∧ ∃ h m, s.slots[q].holder = some h ∧ s.streams[h.stream].state = .active ∧ s.streams[h.stream].manifest = some m ∧
      blockMatches s q h m = true := by
  unfold blockOutcome at verifies
  split at verifies
  next => exact absurd verifies (Settles.refl s).not_verifies
  next h held =>
    split at verifies
    next m active manifest =>
      split at verifies
      next matched =>
        refine ⟨?_, h, m, held, active, manifest, matched⟩
        by_contra other
        have before := ((settles_tryRelease _ _).slots k).verified verifies.1
        rw [slots_set, if_neg other] at before
        exact verifies.2 before
      next => exact absurd verifies (settles_blockMismatch s q h m held).not_verifies
    next => exact absurd verifies (settles_freeEndedSlot s q h.stream).not_verifies

/-! ## A stream comes to hold an accepted manifest -/

/-- Stream `i` comes to hold the manifest `m` from `s` to `t`. -/
def Accepts (i : StreamNo) (m : Accepted) (s t : State) : Prop :=
  t.streams[i].manifest = some m ∧ s.streams[i].manifest ≠ some m

theorem Settles.not_accepts {i : StreamNo} {m : Accepted} (h : Settles s t) : ¬ Accepts i m s t := fun ⟨after, before⟩ =>
  before ((h.streams i).manifest m after)

/-- A descriptor with another's manifest takes its place. -/
theorem not_accepts_setStream {i j : StreamNo} {m : Accepted} {x : Stream} (same : x.manifest = s.streams[j].manifest) :
    ¬ Accepts i m s (s.setStream j x) := by
  rintro ⟨after, before⟩
  rw [streams_set] at after
  split at after
  next e => rw [e, ← same] at before; exact before after
  next => exact before after

/-- A load begins with the descriptor's manifest as it is. -/
theorem not_accepts_beginLoad {i j : StreamNo} {m : Accepted} (len n : Nat) : ¬ Accepts i m s (beginLoad j len n s) := by
  unfold beginLoad
  exact not_accepts_setStream rfl

theorem Turn.kind_of_accepts {kind : TurnKind} {i : StreamNo} {m : Accepted} (h : Turn kind s t) (accepts : Accepts i m s t) :
    kind = .accept := by
  cases h with
  | accept => rfl
  | start _ _ same _ => exact absurd accepts (not_accepts_setStream same)
  | load => exact absurd accepts (not_accepts_beginLoad _ _)
  | allocate | join | snapshot | verify | commit => exact absurd accepts.1 accepts.2

/-- After a reset no stream holds a manifest. -/
theorem no_manifest_of_reset {c : Instr} {i : StreamNo} {m : Accepted} (hc : isReset c = true) (h : exec c s = .next t) :
    t.streams[i].manifest ≠ some m := by
  obtain ⟨pins, rfl⟩ | ⟨cause, mv, rfl⟩ := resets_exec c hc h
  · rw [volatileReset_streams]; exact nofun
  · intro holds
    obtain ⟨u, x, measured, -, scanned⟩ := beginStartUp_settles cause mv s
    have before := (measured.streams i).manifest m ((scanned.streams i).manifest m holds)
    rw [volatileReset_streams] at before
    cases before

/-- Only the completion of a MAC job can. -/
theorem macJobDone_of_accepts {c : Instr} {i : StreamNo} {m : Accepted} (h : exec c s = .next t) (accepts : Accepts i m s t) :
    c = .macJobDone := by
  cases hc : isReset c with
  | true => exact absurd accepts.1 (no_manifest_of_reset hc h)
  | false =>
    obtain settled | ⟨kind, listed, u, v, before, turned, after⟩ := moves_exec c hc h
    · exact absurd accepts settled.not_accepts
    have ofTurn : Accepts i m u v :=
      ⟨(after.streams i).manifest m accepts.1, fun old => accepts.2 ((before.streams i).manifest m old)⟩
    rw [turned.kind_of_accepts ofTurn] at listed
    exact eq_macJobDone_of_turn listed

/-- A manifest that fails no check is not below its target's floor (R19). -/
theorem floor_le_of_no_failure {i : StreamNo} {h : HeaderFields} (passes : acceptanceFailure s i h = none) :
    (floorOf s.store.governing h.accepted.target).toNat ≤ h.accepted.version.toNat := by
  unfold acceptanceFailure at passes
  dsimp only at passes
  repeat' split at passes
  all_goals first | exact Nat.not_lt.mp (by assumption) | cases passes

/-- What stands behind a manifest that a MAC job's completion makes stream `i` hold (R12, R14, R19). -/
theorem macOutcome_accepts {i j : StreamNo} {m : Accepted} (accepts : Accepts i m s (macOutcome j s)) :
    i = j ∧ s.streams[j].state = .authenticating ∧ macMatches s j = true ∧
      m = (readHeader s.manifests[j].header.toList).accepted ∧ (floorOf s.store.governing m.target).toNat ≤ m.version.toNat := by
  unfold macOutcome at accepts
  split at accepts
  next authenticating =>
    split at accepts
    next matched =>
      unfold judgeAcceptance at accepts
      dsimp only at accepts
      split at accepts
      next => exact absurd accepts (settles_enterVacant s j _).not_accepts
      next passes =>
        obtain ⟨after, before⟩ := accepts
        unfold acceptManifest at after
        rw [queueRecord_streams, streams_set] at after
        split at after
        next e =>
          cases after
          exact ⟨e, authenticating, matched, rfl, floor_le_of_no_failure passes⟩
        next => exact absurd after before
    next => exact absurd accepts (settles_enterVacant s j _).not_accepts
  next => exact absurd accepts (settles_resolveAbort s j).not_accepts

end

/-- Settles O59: the command is a block job's completion, and its outcome a match for the slot's own block. -/
theorem onlyAMatchVerifiesABlock : Obligations.OnlyAMatchVerifiesABlock := by
  unfold Obligations.OnlyAMatchVerifiesABlock
  intro c s t k h after before
  obtain rfl := blockJobDone_of_verifies h ⟨after, before⟩
  simp only [exec, execBlockJobDone] at h
  split at h
  · split at h
    next q rest queued =>
      cases h
      have verifies : Verifies k (jobLeft s) (blockOutcome q (jobLeft s)) := ⟨((settles_judgeHead _).slots k).verified after, before⟩
      obtain ⟨rfl, g, m, held, active, manifest, matched⟩ := blockOutcome_verifies verifies
      exact ⟨g, m, rfl, by rw [queued]; rfl, held, active, manifest, eq_of_beq matched⟩
    next => cases h; exact absurd after before
  · cases h; exact absurd after before

/-- Settles O60: the command is a MAC job's completion, and its outcome an acceptance of the received header. -/
theorem onlyAuthenticatedManifestsAreAccepted : Obligations.OnlyAuthenticatedManifestsAreAccepted := by
  unfold Obligations.OnlyAuthenticatedManifestsAreAccepted
  intro c s t i m h after before
  obtain rfl := macJobDone_of_accepts h ⟨after, before⟩
  simp only [exec, execMacJobDone] at h
  split at h
  · split at h
    next j rest queued =>
      cases h
      have accepts : Accepts i m (jobLeft s) (macOutcome j (jobLeft s)) :=
        ⟨((settles_judgeHead _).streams i).manifest m after, before⟩
      obtain ⟨rfl, authenticating, matched, header, floor⟩ := macOutcome_accepts accepts
      exact ⟨rfl, by rw [queued]; rfl, authenticating, eq_of_beq matched, header, floor⟩
    next => cases h; exact absurd after before
  · cases h; exact absurd after before

end Sys2Proof.Machine

/-! The laws of the parameters, the digest engine, the held part and the supply filter (O55), each through every command by the parts that the
command may touch; and every law at reset (O53). -/

namespace Sys2Proof.Machine

section
variable {s t u : State}

/-! ## Parameters (R155 to R158) -/

/-- A request's end keeps what its owner's reply keeps, outside the answer's own parts. -/
theorem judgeRequest_same {l : Lane} {f : Frame} {held : Bool} {n : Nat} {o : Reply} (h : judgeRequest l f held n s o = .next t)
    (p : Part) (hp : p ∉ answerParts := by decide) : p.Same s t ∨ p.Same o.state t := by
  obtain ⟨-, -, ⟨-, rfl⟩ | ⟨-, rfl⟩⟩ := judgeRequest_next h
  · exact .inl (touches_respond _ _ _ p hp)
  · exact .inr (touches_respond _ _ _ p hp)

/-- A movement of the supply that is no reset touches the input and what a change of the supply state touches. -/
theorem untouched_by_departure {mv : Nat} {p : Part} (hc : decide (mv < resetLevelMv) = false) (hp : p ∉ Part.pins :: supplyParts) :
    p ∉ if mv < resetLevelMv then resetParts else .pins :: supplyParts := by
  rwa [if_neg (of_decide_eq_false hc)]

theorem clampTo_range {a b v : Nat} (h : a ≤ b) : a ≤ clampTo a b v ∧ clampTo a b v ≤ b := by
  unfold clampTo
  repeat' split
  all_goals omega

/-- A number in an identifier's range that is not another identifier's value makes another identifier. -/
theorem ident_ne_of_toNat_ne {x : Ident} {w : Nat} (small : w ≤ 0x7FF) (h : w ≠ x.toNat) : BitVec.ofNat 11 w ≠ x := by
  rintro rfl
  rw [BitVec.toNat_ofNat, Nat.mod_eq_of_lt (by omega)] at h
  exact h rfl

/-- A parameter in range that conflicts with none is stored legally (R156). -/
theorem storeParam_legal {p : Params} {n v w : Nat} {k : ParamKind} (kind : paramKind n = some k) (inRange : paramInRange k v = some w)
    (fits : paramConflicts p n w = false) (legal : ParamsLegal p) : ParamsLegal (storeParam p n w) := by
  have identifier (hk : k = .identifier) : w ≤ 0x7FF := by
    subst hk; simp only [paramInRange] at inRange; split at inRange <;> cases inRange; omega
  have number {a b : Nat} (hk : k = .number a b) (hab : a ≤ b) : a ≤ w ∧ w ≤ b := by
    subst hk; cases inRange; exact clampTo_range hab
  obtain ⟨sc, sr, cr, control, lane, numbers⟩ := legal
  unfold paramKind at kind
  split at kind <;> cases kind
  case h_1 =>
    have small := identifier rfl
    simp only [paramConflicts, Bool.or_eq_false_iff, beq_eq_false_iff_ne] at fits
    exact ⟨ident_ne_of_toNat_ne small fits.1, ident_ne_of_toNat_ne small fits.2, cr, control, lane, numbers⟩
  case h_2 =>
    have small := identifier rfl
    simp only [paramConflicts, Bool.or_eq_false_iff, beq_eq_false_iff_ne] at fits
    exact ⟨(ident_ne_of_toNat_ne small fits.1).symm, sr, ident_ne_of_toNat_ne small fits.2, control, lane, numbers⟩
  case h_3 =>
    have small := identifier rfl
    simp only [paramConflicts, Bool.or_eq_false_iff, beq_eq_false_iff_ne] at fits
    exact ⟨sc, (ident_ne_of_toNat_ne small fits.1).symm, (ident_ne_of_toNat_ne small fits.2).symm, control, lane, numbers⟩
  case h_4 =>
    simp only [paramConflicts, Bool.not_eq_false'] at fits
    refine ⟨sc, sr, cr, control, ?_, numbers⟩
    simp only [storeParam, BitVec.getLsbD_ofNat, fits, p.reportLane.isLt, decide_true, Bool.and_self]
  case h_5 =>
    simp only [paramInRange] at inRange
    split at inRange <;> cases inRange
    next ranged =>
      refine ⟨sc, sr, cr, fun zero => ?_, lane, numbers⟩
      have value : v % 2 ^ 4 = 0 := congrArg BitVec.toNat zero
      obtain ⟨small, nonzero⟩ := not_or.mp ranged
      exact nonzero ⟨by omega, trivial⟩
  case h_6 =>
    simp only [paramInRange] at inRange
    split at inRange <;> cases inRange
    next ranged =>
      refine ⟨sc, sr, cr, control, ?_, numbers⟩
      simp only [paramConflicts, Bool.not_eq_false'] at fits
      simpa only [storeParam, Fin.ofNat, Nat.mod_eq_of_lt (show v < 4 by omega)] using fits
  all_goals
    have ranged := number rfl (by decide)
    obtain ⟨ft, gc, qu, st, gl, qt, as, al, bl, pt, ab, sl, sf⟩ := numbers
    refine ⟨sc, sr, cr, control, lane, ?_, ?_, ?_, ?_, ?_, ?_, ?_, ?_, ?_, ?_, ?_, ?_, ?_⟩
    all_goals first | assumption | exact ranged.2

/-- The parameters after a PARAM_WRITE's judgement are legal. -/
theorem paramWriteReply_legal (f : Frame) (legal : ParamsLegal s.params) : ParamsLegal (paramWriteReply f s).state.params := by
  unfold paramWriteReply
  dsimp only
  repeat' split
  · exact legal
  · exact legal
  · exact legal
  all_goals
    rename_i k kind _ w inRange fits _
    have same : (afterParam (byteAt f 2).toNat (s.withParams (storeParam s.params (byteAt f 2).toNat w))).params =
        storeParam s.params (byteAt f 2).toNat w := touches_afterParam _ _ .params (by decide)
    rw [same]
    exact storeParam_legal kind inRange (Bool.eq_false_of_not_eq_true fits) legal

theorem paramsLegal_default : ParamsLegal Params.default := by
  unfold ParamsLegal
  decide

/-- A command that changes the parameters resets them or is a PARAM_WRITE. -/
theorem paramsLegal_exec {c : Instr} (h : exec c s = .next t) (legal : ParamsLegal s.params) : ParamsLegal t.params := by
  have touches : Touches (commandParts c) s t := commandsChangeOnlyTheirParts c s t legal.1 h
  have untouched (hp : .params ∉ commandParts c) : ParamsLegal t.params := by
    have same : t.params = s.params := touches .params hp
    rwa [same]
  cases hc : isReset c with
  | true =>
    obtain ⟨pins, rfl⟩ | ⟨cause, mv, rfl⟩ := resets_exec c hc h
    · exact paramsLegal_default
    · have same : (beginStartUp cause mv s).params = s.params := touches_beginStartUp s cause mv .params (by decide)
      rwa [same]
  | false =>
    cases c with
    | paramWrite l f =>
      obtain same | same := judgeRequest_same h .params
      · exact same ▸ legal
      · exact same ▸ paramWriteReply_legal f legal
    | powerOnReset | startUp => cases hc
    | departureBegin mv | departureEnd mv => exact untouched (untouched_by_departure hc (by decide))
    | _ => exact untouched (by dsimp only [commandParts]; decide)

/-! ## The digest engine (R91) -/

/-- An operation that leaves the engine alone keeps its law. -/
theorem EngineLaw.of_touches {ps : List Part} (law : EngineLaw s) (h : Touches ps s t) (hp : .engine ∉ ps := by decide) :
    EngineLaw t := by
  have same : t.engine = s.engine := h .engine hp
  unfold EngineLaw
  rwa [same]

theorem engineLaw_appendJob (j : Job) (s : State) : EngineLaw (appendJob j s) := engineLaw_judgeHead _

theorem engineLaw_completeSlot (k : SlotNo) (i : StreamNo) (s : State) : EngineLaw (completeSlot k i s) :=
  (engineLaw_appendJob _ _).of_touches (touches_stopQuietIfDone _ i)

theorem EngineLaw.placeSegment (law : EngineLaw s) (l : Lane) (i : StreamNo) (k : SlotNo) (p n : Nat) (bs : List Byte) :
    EngineLaw (placeSegment l i k p n bs s) := by
  unfold Machine.placeSegment
  dsimp only
  split
  · exact engineLaw_completeSlot _ _ _
  · refine EngineLaw.of_touches ?_ (touches_serveMember _ i l)
    exact law

theorem EngineLaw.assemble (law : EngineLaw s) (l : Lane) (i : StreamNo) (k : Nat) (bs : List Byte) : EngineLaw (assemble l i k bs s) := by
  unfold Machine.assemble
  split
  case h_6 => exact law.of_touches (ps := reportParts) ((touches_queueWindow _ _ _ _).after ((touches_countStream s i .ahead).mono))
  case h_8 => exact law.placeSegment _ _ _ _ _ _
  case h_9 => exact EngineLaw.placeSegment (s := allocateSlot _ _ _ _ s) law _ _ _ _ _ _
  all_goals exact law

theorem EngineLaw.takeSegment (law : EngineLaw s) (l : Lane) (f : Frame) : EngineLaw (takeSegment l f s) := by
  have counted : EngineLaw (countLane l .frames s) := law
  unfold Machine.takeSegment
  dsimp only
  split
  · exact law
  · exact counted.of_touches (touches_laneFault _ _ _)
  · exact counted.of_touches (touches_laneFault _ _ _)
  · exact counted.of_touches (touches_laneFault _ _ _)
  · refine EngineLaw.assemble (EngineLaw.of_touches ?_ (touches_laneGood _ l)) _ _ _ _
    exact law

theorem EngineLaw.receiveFrame (law : EngineLaw s) (l : Lane) (d : Ident) (f : Frame) : EngineLaw (receiveFrame l d f s) := by
  unfold Machine.receiveFrame
  repeat' split
  · exact law
  · exact law
  · exact law.takeSegment l f
  · exact law.of_touches (touches_takeControl s l f)
  · exact law

theorem EngineLaw.manifestEnd (law : EngineLaw s) (f : Frame) : EngineLaw (manifestEndReply f s).state := by
  unfold manifestEndReply
  dsimp only
  repeat' split
  all_goals first | exact law | exact engineLaw_appendJob _ _

theorem engineLaw_exec {c : Instr} (hd : s.params.segId ≠ s.params.ctlId) (h : exec c s = .next t) (law : EngineLaw s) : EngineLaw t := by
  have touches : Touches (commandParts c) s t := commandsChangeOnlyTheirParts c s t hd h
  cases hc : isReset c with
  | true =>
    obtain ⟨pins, rfl⟩ | ⟨cause, mv, rfl⟩ := resets_exec c hc h
    · exact fun _ => rfl
    · unfold beginStartUp
      refine EngineLaw.of_touches (EngineLaw.of_touches ?_ (touches_firstMeasurement _)) (touches_startScan _ cause)
      exact fun _ => rfl
  | false =>
    cases c with
    | segmentFrame l f => cases h; exact law.receiveFrame _ _ _
    | otherTrunkFrame l d f => cases h; exact law.receiveFrame _ _ _
    | manifestEnd l f =>
      have same := judgeRequest_same h .engine
      unfold Part.Same at same
      obtain same | same := same
      · unfold EngineLaw; rwa [same]
      · unfold EngineLaw; rw [same]; exact law.manifestEnd f
    | blockJobDone =>
      simp only [exec, execBlockJobDone] at h
      repeat' split at h
      all_goals cases h
      · exact engineLaw_judgeHead _
      all_goals exact law
    | macJobDone =>
      simp only [exec, execMacJobDone] at h
      repeat' split at h
      all_goals cases h
      · exact engineLaw_judgeHead _
      all_goals exact law
    | powerOnReset | startUp => cases hc
    | departureBegin mv | departureEnd mv => exact law.of_touches touches (untouched_by_departure hc (by decide))
    | _ => exact law.of_touches touches (by dsimp only [commandParts]; decide)

/-! ## The held part (R148, R165) -/

/-- The end of a step leaves the phase, or the scan that it ends leaves the part running (R132). -/
theorem afterGoodStep_phase (r : NvmRun) (st : NvmStep) (rest : List NvmStep) (s : State) :
    (afterGoodStep r st rest s).phase = s.phase ∨ (afterGoodStep r st rest s).phase = .running := by
  have done (i : StreamNo) (rec : VersionRecord) (u : State) : (commitDone i rec u).phase = u.phase :=
    touches_commitDone u i rec .phase (by decide)
  unfold afterGoodStep
  dsimp only
  repeat' split
  · exact .inr rfl
  all_goals first | exact .inl rfl | exact .inl (done _ _ _)

theorem afterBadStep_phase (r : NvmRun) (st : NvmStep) (rest : List NvmStep) (s : State) :
    (afterBadStep r st rest s).phase = s.phase ∨ (afterBadStep r st rest s).phase = .running := by
  have done (i : StreamNo) (rec : VersionRecord) (u : State) : (commitDone i rec u).phase = u.phase :=
    touches_commitDone u i rec .phase (by decide)
  have failed (i : StreamNo) (u : State) : (storeFailed i u).phase = u.phase := touches_storeFailed u i .phase (by decide)
  unfold afterBadStep
  dsimp only
  split
  · split
    · exact .inr rfl
    · exact .inl rfl
  · exact .inl (failed _ _)
  · split
    · exact .inl (done _ _ _)
    · exact .inl (failed _ _)
  · exact .inl (failed _ _)
  · exact .inl rfl

theorem awake_nvmStepDone {rb : Readback} (h : execNvmStepDone rb s = .next t) (awake : s.phase ≠ .inReset) : t.phase ≠ .inReset := by
  have ran (u : State) : (runStore u).phase = u.phase := touches_runStore u .phase (by decide)
  have kept {u : State} (hu : u.phase = s.phase ∨ u.phase = .running) : (runStore u).phase ≠ .inReset := by
    rw [ran]
    obtain e | e := hu <;> rw [e]
    · exact awake
    · decide
  unfold execNvmStepDone at h
  repeat' split at h
  all_goals cases h
  · exact kept (afterGoodStep_phase _ _ _ _)
  · exact kept (afterBadStep_phase _ _ _ _)

/-- Only a power-on reset puts a part that runs into reset. -/
theorem awake_exec {c : Instr} (hd : s.params.segId ≠ s.params.ctlId) (hc : isReset c = false) (h : exec c s = .next t)
    (awake : s.phase ≠ .inReset) : t.phase ≠ .inReset := by
  have touches : Touches (commandParts c) s t := commandsChangeOnlyTheirParts c s t hd h
  have untouched (hp : .phase ∉ commandParts c) : t.phase ≠ .inReset := by
    have same : t.phase = s.phase := touches .phase hp
    rwa [same]
  cases c with
  | nvmStepDone rb => exact awake_nvmStepDone h awake
  | powerOnReset | startUp => cases hc
  | departureBegin mv | departureEnd mv => exact untouched (untouched_by_departure hc (by decide))
  | _ => exact untouched (by dsimp only [commandParts]; decide)

/-- A start-up ends the reset. -/
theorem awake_beginStartUp (cause : StartCause) (mv : Nat) (s : State) : (beginStartUp cause mv s).phase ≠ .inReset := by
  let r := volatileReset s .scanning { senseMv := mv, resetnLow := false } s.params
  have measured : (firstMeasurement r).phase = .scanning := touches_firstMeasurement r .phase (by decide)
  unfold beginStartUp startScan
  dsimp only
  split
  · exact nofun
  · have same (x : Store) : (startStep ((firstMeasurement r).withStore x)).phase = .scanning :=
      (touches_startStep _ .phase (by decide)).trans measured
    rw [same]
    decide

theorem heldLaw_exec {c : Instr} (hd : s.params.segId ≠ s.params.ctlId) (h : exec c s = .next t) (held : HeldLaw s) : HeldLaw t := by
  cases hc : isReset c with
  | true =>
    obtain ⟨pins, rfl⟩ | ⟨cause, mv, rfl⟩ := resets_exec c hc h
    · exact fun _ => rfl
    · exact fun inReset => absurd inReset (awake_beginStartUp cause mv s)
  | false =>
    by_cases inReset : s.phase = .inReset
    · rw [held_exec hc held inReset h]
      exact fun _ => congrArg (State.withPins · t.pins) (held inReset)
    · exact fun e => absurd e (awake_exec hd hc h inReset)

/-! ## The supply filter (R145 to R147) -/

/-- The filter timer runs exactly while the sensed voltage departs. -/
def FilterFits (s : State) : Prop := s.supply.filter.isSome = true ↔ departs s s.pins.senseMv = true

/-- The fit reads the supply watch, the input and SUPPLY_LEVEL alone. -/
theorem FilterFits.congr (fits : FilterFits s) (supply : t.supply = s.supply) (pins : t.pins = s.pins)
    (level : t.params.supplyLevel = s.params.supplyLevel) : FilterFits t := by
  unfold FilterFits departs
  rw [supply, pins, level]
  exact fits

theorem FilterFits.of_touches {ps : List Part} (fits : FilterFits s) (h : Touches ps s t)
    (hp : ∀ p ∈ ps, p ∉ [Part.supply, .pins, .params] := by decide) : FilterFits t := by
  have same (p : Part) (hm : p ∈ [Part.supply, .pins, .params]) : p.Same s t := h p fun hn => hp p hn hm
  have params : t.params = s.params := same .params (by decide)
  exact fits.congr (same .supply (by decide)) (same .pins (by decide)) (by rw [params])

/-- A change of the supply state on a departure leaves a voltage that does not depart, and the timer stopped (R145, R146). -/
theorem filterFits_changeSupply (departed : departs s s.pins.senseMv = true) : FilterFits (changeSupply s) := by
  have stopped : FilterFits (s.withSupply { state := s.supply.state.flipped, filter := none }) := by
    refine ⟨nofun, fun again => ?_⟩
    rw [departs_iff] at departed again
    simp only [State.withSupply_supply, State.withSupply_params, State.withSupply_pins] at again
    obtain ⟨state, low⟩ | ⟨state, high⟩ := departed <;> rw [state] at again <;> simp [SupplyState.flipped] at again <;> omega
  unfold changeSupply resumeWork
  dsimp only
  have recorded := stopped.of_touches (touches_queueRecord _ (.supply s.supply.state.flipped))
  split
  · exact (recorded.of_touches (touches_startAllHeld _)).of_touches (touches_startStep _)
  · exact recorded

/-- A comparison leaves the timer as the voltage has it. -/
theorem filterFits_compareSupply (s : State) : FilterFits (compareSupply s) := by
  unfold compareSupply
  split
  next departed =>
    split
    next runs => exact ⟨fun _ => departed, fun _ => runs⟩
    next =>
      split
      · exact filterFits_changeSupply departed
      · exact ⟨fun _ => departed, fun _ => rfl⟩
  next stays => exact ⟨nofun, fun departed => absurd departed stays⟩

/-- A store of any other parameter leaves SUPPLY_LEVEL. -/
theorem storeParam_supplyLevel {p : Params} {n v : Nat} (h : n ≠ 17) : (storeParam p n v).supplyLevel = p.supplyLevel := by
  unfold storeParam
  split <;> first | rfl | exact absurd rfl h

theorem FilterFits.paramWrite (fits : FilterFits s) (f : Frame) : FilterFits (paramWriteReply f s).state := by
  unfold paramWriteReply
  dsimp only
  repeat' split
  · exact fits
  · exact fits
  · exact fits
  all_goals
    rename_i w _ _ _
    by_cases level : (byteAt f 2).toNat = 17
    · rw [level]
      exact filterFits_compareSupply _
    · have stored : FilterFits (s.withParams (storeParam s.params (byteAt f 2).toNat w)) :=
        fits.congr rfl rfl (storeParam_supplyLevel level)
      unfold afterParam
      split
      · exact stored.of_touches (touches_emit _)
      · exact absurd ‹_› level
      · exact stored

/-- A movement of the supply above 6.0 V, while the part runs. -/
theorem filterFits_moveSense {mv : Nat} (high : ¬ mv < resetLevelMv) (awake : s.phase ≠ .inReset) (h : moveSense mv s = .next t) :
    FilterFits t := by
  unfold moveSense at h
  rw [if_neg high, if_neg awake] at h
  cases h
  exact filterFits_compareSupply _

theorem filterFits_exec {c : Instr} (hd : s.params.segId ≠ s.params.ctlId) (hc : isReset c = false) (h : exec c s = .next t)
    (awake : s.phase ≠ .inReset) (fits : FilterFits s) : FilterFits t := by
  have touches : Touches (commandParts c) s t := commandsChangeOnlyTheirParts c s t hd h
  cases c with
  | paramWrite l f =>
    obtain ⟨-, -, ⟨-, rfl⟩ | ⟨-, rfl⟩⟩ := judgeRequest_next h
    · exact fits.of_touches (touches_respond _ _ _)
    · exact (fits.paramWrite f).of_touches (touches_respond _ _ _)
  | departureBegin mv | departureEnd mv => exact filterFits_moveSense (by simpa [isReset] using hc) awake h
  | filterExpiry =>
    simp only [exec, execFilterExpiry] at h
    split at h <;> cases h
    next runs => exact filterFits_changeSupply (fits.mp runs)
    next => exact fits
  | powerOnReset | startUp => cases hc
  | _ => exact fits.of_touches touches (by dsimp only [commandParts]; decide)

/-- The first measurement departs from the state that it gives in no case (R148). -/
theorem filterFits_beginStartUp (cause : StartCause) (mv : Nat) (s : State) : FilterFits (beginStartUp cause mv s) := by
  unfold beginStartUp
  generalize volatileReset s .scanning { senseMv := mv, resetnLow := false } s.params = r
  refine FilterFits.of_touches ?_ (touches_startScan _ cause)
  unfold firstMeasurement
  split
  next high =>
    refine ⟨nofun, fun departed => ?_⟩
    have below : r.pins.senseMv < lowThresholdMv r.params.supplyLevel := of_decide_eq_true departed
    unfold releaseLevelMv at high
    omega
  next low =>
    refine FilterFits.of_touches (s := r.withSupply { state := .low, filter := none }) ?_ (touches_queueRecord _ _)
    exact ⟨nofun, fun departed => absurd (of_decide_eq_true departed) low⟩

theorem filterLaw_exec {c : Instr} (hd : s.params.segId ≠ s.params.ctlId) (h : exec c s = .next t) (held : HeldLaw s)
    (law : FilterLaw s) : FilterLaw t := by
  cases hc : isReset c with
  | true =>
    obtain ⟨pins, rfl⟩ | ⟨cause, mv, rfl⟩ := resets_exec c hc h
    · exact fun awake => absurd rfl awake
    · exact fun _ => filterFits_beginStartUp cause mv s
  | false =>
    by_cases inReset : s.phase = .inReset
    · rw [held_exec hc held inReset h]
      exact fun awake => absurd inReset awake
    · exact fun _ => filterFits_exec hd hc h inReset (law inReset)

/-! ## Every law at reset -/

theorem reset_eq_volatileReset : State.reset = volatileReset State.reset .inReset State.reset.pins Params.default := rfl

/-- An erased memory governs nothing and shows no active page. -/
theorem scannedStore_nil : (scannedStore []).governing = [] ∧ (scannedStore []).activeSeq = none := by decide

theorem storeLaw_reset : StoreLaw State.reset := by
  obtain ⟨governing, sequence⟩ := scannedStore_nil
  have noSequence : (scannedStore State.reset.nvm).activeSeq ≠ some 0xFFFFFFFF#32 := by
    change (scannedStore []).activeSeq ≠ _
    rw [sequence]
    exact nofun
  refine ⟨rfl, noSequence, ⟨[], Nat.zero_le _, ?_, fun i m hm => ?_⟩, commitLaw_of_idle rfl (.inl rfl), fun awake => absurd rfl awake⟩
  · intro g hg
    change g ∈ (scannedStore []).governing at hg
    rw [governing] at hg
    cases hg
  · rw [reset_eq_volatileReset, volatileReset_streams] at hm
    cases hm

theorem bookkept_atReset : Bookkept State.reset := by
  refine ⟨⟨rfl, rfl, rfl, rfl⟩, reportLaw_idle rfl, ⟨Counters.bounded_zero, Counters.bounded_zero, Nat.zero_le _⟩, fun l => ?_⟩
  simp only [State.reset, Fin.getElem_fin, Vector.getElem_replicate]
  exact Nat.zero_le _

theorem allotted_atReset : Allotted State.reset := reset_eq_volatileReset ▸ allotted_reset .inReset State.reset.pins Params.default

end

/-- Settles O55: each of the four laws through every command. -/
theorem stepsKeepParametersEngineAndSupply : Obligations.StepsKeepParametersEngineAndSupply := by
  unfold Obligations.StepsKeepParametersEngineAndSupply
  intro s t h laws
  obtain rfl | ⟨c, rest, -, ran⟩ := step_cases h
  · exact laws
  obtain ⟨legal, engine, held, filter⟩ := laws
  have differ : (s.withPending rest).params.segId ≠ (s.withPending rest).params.ctlId := legal.1
  have heldNow := heldLaw_withPending held rest
  exact ⟨paramsLegal_exec ran legal, engineLaw_exec differ ran engine, heldLaw_exec differ ran heldNow,
    filterLaw_exec differ ran heldNow filter⟩

/-- Settles O53: law by law. -/
theorem lawsHoldAtReset : Obligations.LawsHoldAtReset := by
  unfold Obligations.LawsHoldAtReset
  obtain ⟨memories, report, counters, queues⟩ := bookkept_atReset
  obtain ⟨loads, extents, reservations, -⟩ := allotted_atReset
  exact ⟨memories, report, counters, queues, paramsLegal_default, fun _ => rfl, fun _ => rfl, fun awake => absurd rfl awake, loads,
    extents, reservations, (flow_reset fun _ => 0).laws, trivial, storeLaw_reset⟩

end Sys2Proof.Machine

/-! The step, the reset values, the events without a subject, and the requests that are always taken or only select (O1, O2, O3, O28, O32, O34). -/

namespace Sys2Proof.Machine

/-- Settles O1: the step's two equations. -/
theorem stepRunsTheFrontCommand : Obligations.StepRunsTheFrontCommand := by
  unfold Obligations.StepRunsTheFrontCommand
  refine ⟨fun c rest s => rfl, fun s idle => ?_⟩
  unfold step
  rw [idle]

/-! ## Reset values -/

theorem laneCount_reset (l : Lane) (k : LaneCounter) : laneCount State.reset l k = 0 := by
  simp [laneCount, State.reset, Counters.zero]

theorem streamCount_reset (i : StreamNo) (k : StreamCounter) : streamCount State.reset i k = 0 := by
  simp [streamCount, State.reset, Counters.zero]

/-- At reset no list holds an extent (R3). -/
theorem freeExtents_reset : freeExtents State.reset = List.range 32 := by
  refine List.filter_eq_self.mpr fun e _ => ?_
  simp [State.reset, ManifestRec.empty]

/-- Settles O2: the vectors entry by entry, the rest by definition. -/
theorem resetValuesAreAsStated : Obligations.ResetValuesAreAsStated := by
  unfold Obligations.ResetValuesAreAsStated
  refine ⟨rfl, rfl, fun l => ⟨?_, ?_, laneCount_reset l⟩, fun i => ⟨volatileReset_streams State.reset .inReset State.reset.pins Params.default i,
    volatileReset_manifests State.reset .inReset State.reset.pins Params.default i, ?_, streamCount_reset i⟩,
    volatileReset_slots State.reset .inReset State.reset.pins Params.default, rfl, fun p => ?_, rfl, rfl, rfl, fun e b _ => ⟨rfl, rfl⟩,
    freeExtents_reset, fun l i n => ⟨?_, ?_⟩, rfl, rfl, rfl, rfl⟩
  all_goals simp [State.reset, LaneRx.idle, TrunkTx.idle, ReleaseCtx.idle, BranchPort.idle, Counters.zero]

/-! ## Events without a subject -/

section
variable {s : State}

/-- A request that the interpreter is not judging stops by name. -/
theorem judgeRequest_notHeld {l : Lane} {f : Frame} (h : s.interp.judging ≠ some ⟨l, f⟩) (held : Bool) (n : Nat) (o : Reply) :
    judgeRequest l f held n s o = .fault .requestNotHeld :=
  if_neg fun both => h both.1

theorem exec_blockJobDone_of_none (h : (∀ k rest, s.engine.fifo ≠ .block k :: rest) ∨ s.engine.busy = false) :
    exec .blockJobDone s = .next s := by
  simp only [exec, execBlockJobDone]
  split
  next busy =>
    split
    next k rest e =>
      obtain none | idle := h
      · exact absurd e (none k rest)
      · rw [idle] at busy; cases busy
    next => rfl
  next => rfl

theorem exec_macJobDone_of_none (h : (∀ i rest, s.engine.fifo ≠ .mac i :: rest) ∨ s.engine.busy = false) :
    exec .macJobDone s = .next s := by
  simp only [exec, execMacJobDone]
  split
  next busy =>
    split
    next i rest e =>
      obtain none | idle := h
      · exact absurd e (none i rest)
      · rw [idle] at busy; cases busy
    next => rfl
  next => rfl

/-- The end of an NVM step that is not in progress stops by name. -/
theorem exec_nvmStepDone_of_none (rb : Readback) (h : stepInProgress s = none) : exec (.nvmStepDone rb) s = .fault .noStepInProgress := by
  simp only [exec, execNvmStepDone]
  split
  next => rfl
  next r run =>
    split
    next => rfl
    next st rest steps =>
      rw [if_pos]
      simpa [stepInProgress, run, steps] using h

/-- A readback without the step's shape does too. -/
theorem exec_nvmStepDone_of_shape {rb : Readback} {st : NvmStep} (h : stepInProgress s = some st) (shape : stepResult s.nvm st rb = none) :
    exec (.nvmStepDone rb) s = .fault .readbackShape := by
  obtain ⟨r, rest, run, steps, stepping⟩ := stepInProgress_run h
  simp only [exec, execNvmStepDone, run, steps, stepping, shape, Bool.true_eq_false, if_false]

/-- The expiry of a stopped timer, the end of a frame that is no longer the part's: the test that finds no subject. -/
theorem exec_quietExpiry_of_stopped {i : StreamNo} {l : Lane} (h : s.streams[i].members[l].bind Member.timer = none) :
    exec (.quietExpiry i l) s = .next s := by
  simp only [exec, execQuietExpiry]
  split
  next m member =>
    rw [member] at h
    rw [if_neg]
    simpa using h
  next => rfl

theorem exec_stallExpiry_of_stopped {i : StreamNo} (h : s.streams[i].stallTimer = none ∨ s.streams[i].state ≠ .active) :
    exec (.stallExpiry i) s = .next s := by
  refine if_neg fun ⟨runs, active⟩ => ?_
  obtain stopped | idle := h
  · rw [stopped] at runs; cases runs
  · exact idle active

/-- A start-up that is not due stops by name. -/
theorem exec_startUp_not_due {mv : Nat}
    (h : mv < 6000 ∨ (s.phase ≠ .inReset ∧ (s.interp.restartIssued = false ∨ stepInProgress s ≠ none))) :
    exec (.startUp mv) s = .fault .noStartUpDue := by
  simp only [exec, execStartUp]
  obtain low | ⟨awake, notDue⟩ := h
  · exact if_pos low
  · rw [if_neg awake, if_neg (c := _ ∧ _), ite_self]
    rintro ⟨issued, idle⟩
    obtain none | step := notDue
    · rw [issued] at none; cases none
    · exact step idle

end

/-- Settles O3: in each case the command's first test finds no subject. -/
theorem eventsWithoutASubjectChangeNothingOrStop : Obligations.EventsWithoutASubjectChangeNothingOrStop := by
  unfold Obligations.EventsWithoutASubjectChangeNothingOrStop
  refine ⟨⟨fun l o s h => ?_, fun p o s h => ?_, fun s => ⟨exec_blockJobDone_of_none, exec_macJobDone_of_none⟩, fun mv s held high =>
      ⟨moveSense_inReset high held, moveSense_inReset high held⟩⟩,
    ⟨fun l s h => ?_, fun i s => exec_stallExpiry_of_stopped, fun i l s => exec_quietExpiry_of_stopped, fun i s h => ?_, fun s h => ?_,
      fun s h => ?_, fun s h => ?_⟩,
    fun rb s => ⟨exec_nvmStepDone_of_none rb, fun st => exec_nvmStepDone_of_shape⟩, fun l f s h c hc => ?_, fun mv s => exec_startUp_not_due⟩
  · simp only [exec, execTrunkTxEnd, h]
  · simp only [exec, execBranchTxEnd, h]
  · simp only [exec, execQuarantineExpiry, h, Option.isSome_none, Bool.false_eq_true, if_false]
  · simp only [exec, execAckTimeout, h, Option.isSome_none, Bool.false_eq_true, if_false]
  · simp only [exec, execFilterExpiry, h, Option.isSome_none, Bool.false_eq_true, if_false]
  · simp only [exec, execPacketTimerExpiry, h, Option.isSome_none, Bool.false_eq_true, if_false]
  · simp only [exec, execAbsoluteTimerExpiry, h, Option.isSome_none, Bool.false_eq_true, if_false]
  · simp only [List.mem_cons, List.not_mem_nil, or_false] at hc
    rcases hc with rfl | rfl | rfl | rfl | rfl | rfl | rfl | rfl | rfl | rfl | rfl | rfl | rfl | rfl | rfl | rfl | rfl | rfl | rfl | rfl | rfl | rfl
    all_goals exact judgeRequest_notHeld h _ _ _

end Sys2Proof.Machine

/-! SNAPSHOT, the table requests that only select, and RESTART (R161, R164, R179). -/

namespace Sys2Proof.Machine

/-- The model's table sizes are the seven of section 9.4. -/
theorem tableSize_eq (t : Fin 7) : tableSize t = [8, 4, 32, 2048, 32, 16, 13].getD t.val 0 := by
  revert t; decide

/-- Settles O28: the snapshot's own equations, given by the interpreter as the answer. -/
theorem snapshotCopiesAndZeroes : Obligations.SnapshotCopiesAndZeroes := by
  unfold Obligations.SnapshotCopiesAndZeroes
  intro l f s judging
  refine ⟨takeSnapshot s, satInc counterMax s.snapshot.count, judgeKind_next judging _, rfl, rfl, fun m k => ?_, fun i k => ?_, rfl,
    touches_takeSnapshot s⟩
  · simp [laneCount, takeSnapshot, Counters.zero]
  · simp [streamCount, takeSnapshot, Counters.zero]

/-- TABLE_SELECT's judgement of a table number (R161). -/
theorem tableSelectReply_of_table {f : Frame} {t : Fin 7} (s : State) (number : (byteAt f 2).toNat = t.val) :
    tableSelectReply f s = {
      status := .ok
      data := byteAt f 2 :: beBytes 2 (tableSize t)
      state := s.withInterp { s.interp with table := t, cursor := 0 } } := by
  have below : (byteAt f 2).toNat < 7 := number ▸ t.isLt
  have table : (⟨(byteAt f 2).toNat, below⟩ : Fin 7) = t := Fin.ext number
  have byte : byteOf t.val = byteAt f 2 := by rw [← number, byteOf_toNat]
  unfold tableSelectReply
  dsimp only
  rw [dif_pos below, table, State.withInterp_interp, byte]

/-- TABLE_SELECT refuses any other number. -/
theorem tableSelectReply_of_none {f : Frame} (s : State) (above : 6 < (byteAt f 2).toNat) :
    ∃ data, tableSelectReply f s = { status := .range, data := data, state := s } := by
  refine ⟨byteOf s.interp.table :: beBytes 2 (tableSize s.interp.table), ?_⟩
  unfold tableSelectReply
  exact dif_neg (by omega)

/-- Settles O32: the replies of the two requests, by the number and the index they name. -/
theorem tablesAndCursorsAreSelected : Obligations.TablesAndCursorsAreSelected := by
  unfold Obligations.TablesAndCursorsAreSelected
  refine ⟨fun l f s judging => ⟨fun t number => ?_, fun above => ?_⟩, fun l f s judging => ?_⟩
  · rw [← tableSize_eq t]
    exact judgeKind_reply judging (tableSelectReply_of_table s number)
  · obtain ⟨data, reply⟩ := tableSelectReply_of_none s above
    exact ⟨data, judgeKind_reply judging reply⟩
  · dsimp only
    rw [← tableSize_eq]
    exact ⟨fun below => judgeKind_reply judging (if_pos below), fun above => judgeKind_reply judging (if_neg (Nat.not_lt.mpr above))⟩

/-- While a restart is pending the search finds no request (R164). -/
theorem serveLane_of_pending {s : State} (pending : s.interp.restartPending = true) : serveLane s = s := by
  unfold serveLane
  rw [pending, Bool.not_true, Bool.and_false]
  rfl

/-- Handing a frame over leaves the interpreter alone. -/
theorem handOver_interp (l : Lane) (s : State) : (handOver l s).interp = s.interp := touches_handOver s l .interp (by decide)

/-- Settles O34: RESTART's reply, and the search that a pending restart ends. -/
theorem restartIsAlwaysTaken : Obligations.RestartIsAlwaysTaken := by
  unfold Obligations.RestartIsAlwaysTaken
  intro l f s judging
  refine ⟨judgeKind_next judging _, ?_⟩
  unfold answered respond
  rw [serveLane_of_pending] <;> rfl

end Sys2Proof.Machine

/-! Answers, the frames the part sends on the trunk, and the report unit (O12 to O16): R151 to R154, R164, R166 to R174. -/

namespace Sys2Proof.Machine

section
variable {s : State}

/-! ## The trunk sections and the search -/

theorem trunk_set (s : State) (l m : Lane) (x : TrunkTx) : (s.setTrunk l x).trunk[m] = if m = l then x else s.trunk[m] := by
  simp only [State.setTrunk_trunk, Fin.getElem_fin, Vector.getElem_set, Fin.ext_iff, eq_comm]

theorem State.setTrunk_setTrunk (s : State) (l : Lane) (x y : TrunkTx) : (s.setTrunk l x).setTrunk l y = s.setTrunk l y := by
  simp only [State.setTrunk, Vector.set_set]

/-- Handing over, by what the lane's transmit section holds (R154). -/
theorem handOver_of_sending {l : Lane} (h : s.trunk[l].sending.isSome = true) : handOver l s = s := if_pos h

theorem handOver_of_response {l : Lane} (idle : s.trunk[l].sending = none) (h : s.trunk[l].response.isSome = true) :
    handOver l s = s.setTrunk l { s.trunk[l] with sending := some ⟨.response, s.params.rspId⟩ } := by
  exact (if_neg (Option.not_isSome_iff_eq_none.mpr idle)).trans (if_pos h)

theorem handOver_of_report {l : Lane} (idle : s.trunk[l].sending = none) (empty : s.trunk[l].response = none)
    (h : s.trunk[l].report.isSome = true) :
    handOver l s = s.setTrunk l { s.trunk[l] with sending := some ⟨.report, s.params.rspId⟩ } := by
  exact (if_neg (Option.not_isSome_iff_eq_none.mpr idle)).trans ((if_neg (Option.not_isSome_iff_eq_none.mpr empty)).trans (if_pos h))

theorem handOver_of_empty {l : Lane} (idle : s.trunk[l].sending = none) (empty : s.trunk[l].response = none)
    (h : s.trunk[l].report = none) : handOver l s = s := by
  exact (if_neg (Option.not_isSome_iff_eq_none.mpr idle)).trans ((if_neg (Option.not_isSome_iff_eq_none.mpr empty)).trans
    (if_neg (Option.not_isSome_iff_eq_none.mpr h)))

/-- A lane's own section after its response has been placed. -/
theorem trunk_placed (s : State) (l : Lane) (x : TrunkTx) : (s.setTrunk l x).trunk[l] = x := by rw [trunk_set, if_pos rfl]

theorem laneEligible_eq_false_iff {l : Lane} :
    laneEligible s l = false ↔ s.lanes[l].queue = [] ∨ s.trunk[l].response.isSome = true := by
  unfold laneEligible
  rw [Bool.and_eq_false_iff, Bool.not_eq_false', List.isEmpty_iff, Option.isNone_eq_false_iff]

/-- The search takes the first lane of its order that passes the test (R151). -/
theorem searchOrder_find (q : Lane → Bool) (p d : Lane) (h : q (p + 1 + d) = true) (hn : ∀ e, e < d → q (p + 1 + e) = false) :
    (searchOrder p).find? q = some (p + 1 + d) := by
  have order : searchOrder p = (List.finRange 4).map (p + 1 + ·) := by clear h hn; revert p; decide
  rw [order, List.find?_map, Option.map_eq_some_iff]
  refine ⟨d, ?_, rfl⟩
  rw [List.find?_eq_some_iff_getElem]
  refine ⟨h, d.val, by simp, by simp, fun j hj => ?_⟩
  simpa using hn ⟨j, by omega⟩ hj

theorem serveLane_of_held (h : s.interp.judging.isSome = true ∨ s.interp.restartPending = true) : serveLane s = s := by
  obtain judging | pending := h
  · unfold serveLane
    rw [← Option.not_isSome, judging]
    rfl
  · exact serveLane_of_pending pending

theorem serveLane_of_none (h : ∀ l, laneEligible s l = false) : serveLane s = s := by
  have found : findLane s = none := List.find?_eq_none.mpr fun l _ => by rw [h l]; decide
  unfold serveLane
  rw [found]
  exact ite_self s

/-- The lane the search finds gives its oldest frame (R151, R52). -/
theorem serveLane_of_found {l : Lane} {f : Frame} {rest : List Frame} (idle : s.interp.judging = none)
    (free : s.interp.restartPending = false) (found : findLane s = some l) (queue : s.lanes[l].queue = f :: rest) :
    serveLane s = (s.setLane l { s.lanes[l] with queue := rest }).withInterp
      { s.interp with lastServed := l, judging := some ⟨l, f⟩ } := by
  unfold serveLane
  rw [idle, free, found]
  dsimp only
  rw [queue]
  rfl

theorem findLane_eq {d : Lane} {l : Lane} (place : l = s.interp.lastServed + 1 + d) (eligible : laneEligible s l = true)
    (before : ∀ e, e < d → laneEligible s (s.interp.lastServed + 1 + e) = false) : findLane s = some l := by
  subst place
  exact searchOrder_find _ _ d eligible before

/-- A response placed, by whether its lane transmits (R153, R154). -/
theorem respond_of_idle {l : Lane} (frame : Frame) (idle : s.trunk[l].sending = none) :
    respond l frame s = serveLane ((s.setTrunk l { s.trunk[l] with
      response := some frame, sending := some ⟨.response, s.params.rspId⟩ }).withInterp { s.interp with judging := none }) := by
  unfold respond
  rw [handOver_of_response (by rw [trunk_placed]; exact idle) (by rw [trunk_placed]; rfl), trunk_placed, State.setTrunk_setTrunk]
  rfl

theorem respond_of_sending {l : Lane} (frame : Frame) (busy : s.trunk[l].sending.isSome = true) :
    respond l frame s = serveLane ((s.setTrunk l { s.trunk[l] with response := some frame }).withInterp
      { s.interp with judging := none }) := by
  unfold respond
  rw [handOver_of_sending (by rw [trunk_placed]; exact busy)]

end

/-- Settles O12: the response by whether the lane transmits, the search by what it finds. -/
theorem answersArePlacedAndTheSearchGoesOn : Obligations.AnswersArePlacedAndTheSearchGoesOn := by
  unfold Obligations.AnswersArePlacedAndTheSearchGoesOn
  refine ⟨fun l frame s => ⟨respond_of_idle frame, respond_of_sending frame⟩, fun s => ⟨serveLane_of_held, fun none => ?_,
    fun d l f rest idle free place queue empty before => ?_⟩⟩
  · exact serveLane_of_none fun l => laneEligible_eq_false_iff.mpr (none l)
  · have eligible : laneEligible s l = true := by
      unfold laneEligible
      rw [queue, empty]
      rfl
    exact serveLane_of_found idle free
      (findLane_eq place eligible fun e earlier => laneEligible_eq_false_iff.mpr (before e earlier _ rfl)) queue

/-! ## The end of a trunk transmission -/

/-- The test for the end of a RESTART's response is R164's. -/
theorem issuesRestart_iff (s : State) (l : Lane) (x : TrunkSending) : issuesRestart s l x.slot = true ↔ RestartAnswered s l x := by
  unfold issuesRestart RestartAnswered
  rw [Bool.and_eq_true, Bool.and_eq_true, beq_iff_eq, and_assoc]
  refine and_congr_right fun _ => and_congr_right fun _ => ?_
  cases response : s.trunk[l].response with
  | none => simp
  | some f => simp [isRestartResponse, RequestKind.code, Status.code, and_assoc]

/-- The state after the end of transmission `x` on lane `l`: the slot empty and, after the response to a RESTART, the restart issued
(R154, R164). It is what `execTrunkTxEnd` hands over from. -/
def slotEmptied (s : State) (l : Lane) (x : TrunkSending) : State :=
  let s1 := if issuesRestart s l x.slot then s.withInterp { s.interp with restartIssued := true } else s
  s1.setTrunk l (s1.trunk[l].ended x.slot)

theorem slotEmptied_trunk (s : State) (l m : Lane) (x : TrunkSending) :
    (slotEmptied s l x).trunk[m] = if m = l then s.trunk[l].ended x.slot else s.trunk[m] := by
  unfold slotEmptied
  dsimp only
  rw [trunk_set]
  split_ifs <;> rfl

theorem slotEmptied_interp (s : State) (l : Lane) (x : TrunkSending) :
    (slotEmptied s l x).interp = if issuesRestart s l x.slot then { s.interp with restartIssued := true } else s.interp := by
  unfold slotEmptied
  split_ifs <;> rfl

theorem touches_slotEmptied (s : State) (l : Lane) (x : TrunkSending) : Touches [.trunk, .interp] s (slotEmptied s l x) := by
  unfold slotEmptied
  dsimp only
  split
  next => exact (touches_setTrunk _ l _).after (touches_withInterp s _).mono
  next => exact (touches_setTrunk _ l _).mono

/-- Settles O13: the state in which the slot has been emptied and the restart, when due, issued; then the case split of handing over. -/
theorem transmissionEndsEmptyTheSlot : Obligations.TransmissionEndsEmptyTheSlot := by
  unfold Obligations.TransmissionEndsEmptyTheSlot
  refine ⟨fun l o s x sending => ?_, fun l s => ⟨handOver_of_sending, fun idle => ⟨handOver_of_response idle,
    handOver_of_report idle, handOver_of_empty idle⟩⟩⟩
  have run : exec (.trunkTxEnd l o) s = .next (emit (serveLane (handOver l (slotEmptied s l x)))) := by
    simp only [exec, execTrunkTxEnd, sending]
    rfl
  refine ⟨slotEmptied s l x, run, fun slot => ?_, fun slot => ?_, fun m other => ?_, fun answered => ?_, fun other => ?_,
    touches_slotEmptied s l x⟩
  · rw [slotEmptied_trunk, if_pos rfl, slot]; rfl
  · rw [slotEmptied_trunk, if_pos rfl, slot]; rfl
  · rw [slotEmptied_trunk, if_neg other]
  · rw [slotEmptied_interp, if_pos ((issuesRestart_iff s l x).mpr answered)]
  · rw [slotEmptied_interp, if_neg fun due => other ((issuesRestart_iff s l x).mp due)]

/-! ## Reports -/

theorem emissionDue_iff (r : ReportUnit) : emissionDue r = true ↔ ReportDue r := by
  unfold emissionDue ReportDue
  rw [Bool.or_eq_true, decide_eq_true_eq, Bool.and_eq_true, Bool.or_eq_true, Bool.not_eq_true', List.isEmpty_eq_false_iff]
  rfl

/-- A frame that is not due, or has no room, is not formed (R171). -/
theorem emit_of_not_due {s : State} (h : s.trunk[s.params.reportLane].report.isSome = true ∨ ¬ ReportDue s.report) : emit s = s := by
  refine if_neg fun both => ?_
  obtain ⟨empty, due⟩ := Bool.and_eq_true_iff.mp both
  obtain full | idle := h
  · rw [Option.isSome_eq_false_iff.mpr empty] at full; cases full
  · exact idle ((emissionDue_iff _).mp due)

/-- Settles O14: the records the frame takes are those that fit, in order, and no more would. -/
theorem reportFramesAreFormed : Obligations.ReportFramesAreFormed := by
  unfold Obligations.ReportFramesAreFormed
  refine fun s => ⟨emit_of_not_due, fun empty due => ⟨(takeFitting reportRoom s.report.queue).1, (takeFitting reportRoom s.report.queue).2,
    (takeFitting_append _ _).symm, takeFitting_fits _ _, takeFitting_maximal _ _, if_pos ?_⟩⟩
  rw [empty, (emissionDue_iff _).mpr due]
  rfl

/-! ## Drains -/

theorem beginDrain_of_nothing {s : State} (empty : s.report.queue = []) (owed : s.report.owed = false) :
    beginDrain s = s.withReport { s.report with packet := none, absolute := none, drain := false } :=
  if_pos (by rw [empty, owed]; rfl)

theorem beginDrain_of_something {s : State} (h : s.report.queue ≠ [] ∨ s.report.owed = true) :
    beginDrain s = emit (s.withReport { s.report with packet := none, absolute := none, drain := true }) := by
  refine if_neg fun both => ?_
  obtain ⟨empty, owed⟩ := Bool.and_eq_true_iff.mp both
  obtain some | frame := h
  · exact some (List.isEmpty_iff.mp empty)
  · rw [frame] at owed; cases owed

/-! ## Records joining the queue -/

/-- The capacity is 64 records (R168). -/
theorem appendRecord_of_room (r : Record) {s : State} (room : s.report.queue.length < 64) :
    appendRecord r s = afterRecord s.report.queue.isEmpty (s.withReport { s.report with queue := s.report.queue ++ [r] }) := if_pos room

theorem appendRecord_of_full (r : Record) {s : State} (full : 64 ≤ s.report.queue.length) :
    appendRecord r s = (s.withReport { s.report with lost := satInc lostMax s.report.lost }).withCounters s.counters.raiseLost :=
  if_neg (Nat.not_lt.mpr full)

/-- What follows a record: the drain that runs goes on, PACKET_TIMER 0 begins one, any other restarts the timers (R171, R172). -/
theorem afterRecord_of_drain {s : State} (b : Bool) (drain : s.report.drain = true) : afterRecord b s = emit s := if_pos drain

theorem afterRecord_of_noTimer {s : State} (b : Bool) (idle : s.report.drain = false) (zero : s.params.packetTimer = 0) :
    afterRecord b s = beginDrain s := (if_neg (by rw [idle]; decide)).trans (if_pos zero)

theorem afterRecord_of_timer {s : State} (b : Bool) (idle : s.report.drain = false) (timer : 1 ≤ s.params.packetTimer) :
    afterRecord b s = emit (s.withReport (s.report.timersTouched s.params b)) :=
  (if_neg (by rw [idle]; decide)).trans (if_neg (by omega))

/-- The timers' record after an append reads the queue as it was (R172). -/
theorem timersTouched_append (r : Record) (s : State) :
    ({ s.report with queue := s.report.queue ++ [r] } : ReportUnit).timersTouched s.params s.report.queue.isEmpty =
      { s.report with
        queue := s.report.queue ++ [r]
        packet := some s.params.packetTimer
        absolute := if s.report.queue = [] ∧ 1 ≤ s.params.absoluteTimer then some (s.params.absoluteTimer * 8) else s.report.absolute } := by
  unfold ReportUnit.timersTouched
  simp only [Bool.and_eq_true, List.isEmpty_iff, decide_eq_true_eq]

/-- What an urgent record does once it has been appended or lost (R168). -/
def drainIfUrgent (r : Record) (u : State) : State := if r.urgent = true then beginDrain u else u

theorem queueRecord_eq (r : Record) (s : State) : queueRecord r s = drainIfUrgent r (appendRecord r s) := rfl

theorem isWindowOf_iff {i : StreamNo} {r : Record} : r.isWindowOf i = true ↔ ∃ a b, r = .window i a b := by
  cases r <;> simp [Record.isWindowOf]

theorem isWindowOf_eq_false {i : StreamNo} {r : Record} (h : ∀ a b, r ≠ .window i a b) : r.isWindowOf i = false :=
  Bool.eq_false_iff.mpr fun is => (isWindowOf_iff.mp is).elim fun a ⟨b, e⟩ => h a b e

/-- A stream with no WINDOW record waiting gets one (R169). -/
theorem queueWindow_of_none {i : StreamNo} (low w : Nat) {s : State} (none : ∀ r ∈ s.report.queue, ∀ a b, r ≠ .window i a b) :
    queueWindow i low w s = queueRecord (.window i low w) s := by
  refine if_neg fun some => ?_
  obtain ⟨r, member, window⟩ := List.any_eq_true.mp some
  rw [isWindowOf_eq_false (none r member)] at window
  cases window

/-- The waiting WINDOW record is updated in its place (R169). -/
theorem queueWindow_of_waiting {i : StreamNo} (low w : Nat) {s : State} {before after : List Record} {a b : Nat}
    (queue : s.report.queue = before ++ .window i a b :: after) (only : ∀ r ∈ before ++ after, ∀ c d, r ≠ .window i c d) :
    queueWindow i low w s = afterRecord false (s.withReport { s.report with queue := before ++ .window i low w :: after }) := by
  have unchanged : ∀ q : List Record, q ⊆ before ++ after → (q.map fun r => if r.isWindowOf i then .window i low w else r) = q := by
    refine fun q sub => List.map_congr_left (fun r member => ?_) |>.trans (List.map_id q)
    rw [isWindowOf_eq_false (only r (sub member))]
    rfl
  have updated : (s.report.queue.map fun r => if r.isWindowOf i then .window i low w else r) = before ++ .window i low w :: after := by
    rw [queue, List.map_append, List.map_cons, unchanged before (List.subset_append_left _ _),
      unchanged after (List.subset_append_right _ _), if_pos (isWindowOf_iff.mpr ⟨a, b, rfl⟩)]
  have waiting : s.report.queue.any (Record.isWindowOf i) = true :=
    List.any_eq_true.mpr ⟨_, by rw [queue]; simp, isWindowOf_iff.mpr ⟨a, b, rfl⟩⟩
  rw [← updated]
  exact if_pos waiting

/-- Settles O15: the urgent records, a record appended or lost, and a WINDOW record in its place. -/
theorem recordsAreQueuedUpdatedOrLost : Obligations.RecordsAreQueuedUpdatedOrLost := by
  unfold Obligations.RecordsAreQueuedUpdatedOrLost
  refine ⟨urgent_iff, fun r s => ⟨fun room => ⟨fun drain => ?_, fun idle zero => ?_, fun idle timer => ?_⟩, fun full => ?_⟩,
    fun i low w s => ⟨queueWindow_of_none low w, fun before after a b queue only => ⟨fun drain => ?_, fun idle zero => ?_, fun idle timer => ?_⟩⟩⟩
  · exact congrArg (drainIfUrgent r) ((appendRecord_of_room r room).trans (afterRecord_of_drain _ drain))
  · exact congrArg (drainIfUrgent r) ((appendRecord_of_room r room).trans (afterRecord_of_noTimer _ idle zero))
  · refine congrArg (drainIfUrgent r) ((appendRecord_of_room r room).trans ((afterRecord_of_timer _ ?_ ?_).trans ?_))
    · exact idle
    · exact timer
    · exact congrArg (fun u => emit (s.withReport u)) (timersTouched_append r s)
  · exact congrArg (drainIfUrgent r) (appendRecord_of_full r full)
  · exact (queueWindow_of_waiting low w queue only).trans (afterRecord_of_drain _ drain)
  · exact (queueWindow_of_waiting low w queue only).trans (afterRecord_of_noTimer _ idle zero)
  · exact (queueWindow_of_waiting low w queue only).trans (afterRecord_of_timer _ idle timer)

/-- Settles O16: a drain with something to send and one with nothing, and the three commands that begin one. -/
theorem drainsBegin : Obligations.DrainsBegin := by
  unfold Obligations.DrainsBegin
  exact ⟨fun s => ⟨beginDrain_of_nothing, beginDrain_of_something⟩, fun s runs => if_pos runs, fun s runs => if_pos runs,
    fun l f s judging => judgeKind_reply judging rfl⟩

end Sys2Proof.Machine

/-! Trunk lanes and the segments the assembler refuses (O7, O8, O9): R48 to R63, R69 to R74. -/

namespace Sys2Proof.Machine

section
variable {s : State} {l : Lane}

/-! ## The path of a frame -/

theorem lanes_set (s : State) (l m : Lane) (x : LaneRx) : (s.setLane l x).lanes[m] = if m = l then x else s.lanes[m] := by
  simp only [State.setLane_lanes, Fin.getElem_fin, Vector.getElem_set, Fin.ext_iff, eq_comm]

theorem State.setLane_setLane (s : State) (l : Lane) (x y : LaneRx) : (s.setLane l x).setLane l y = s.setLane l y := by
  simp only [State.setLane, Vector.set_set]

/-- A lane that takes no frames discards each (R48, R49). -/
theorem receiveFrame_of_not (h : ¬ Receiving l s) (d : Ident) (f : Frame) : receiveFrame l d f s = s := by
  unfold receiveFrame
  split
  next => rfl
  next running =>
    refine if_pos (Bool.eq_false_iff.mpr fun enabled => h ⟨?_, enabled⟩)
    exact Decidable.not_not.mp running

/-- A lane that takes frames goes by the identifier (R49). -/
theorem receiveFrame_of_receiving (h : Receiving l s) (d : Ident) (f : Frame) :
    receiveFrame l d f s = if d = s.params.segId then takeSegment l f s else if d = s.params.ctlId then takeControl l f s else s := by
  obtain ⟨running, enabled⟩ := h
  unfold receiveFrame
  rw [if_neg (not_not.mpr running), if_neg (by rw [enabled]; decide)]

theorem exec_segmentFrame (h : Receiving l s) (f : Frame) : exec (.segmentFrame l f) s = .next (takeSegment l f s) :=
  congrArg _ ((receiveFrame_of_receiving h _ f).trans (if_pos rfl))

theorem exec_controlFrame (h : Receiving l s) (distinct : s.params.segId ≠ s.params.ctlId) (f : Frame) :
    exec (.controlFrame l f) s = .next (takeControl l f s) :=
  congrArg _ ((receiveFrame_of_receiving h _ f).trans ((if_neg distinct.symm).trans (if_pos rfl)))

end

/-- Settles O7: what a lane does with a frame by its identifier, and with a control frame by its set and its queue. -/
theorem framesTakeThePathOfTheirIdentifier : Obligations.FramesTakeThePathOfTheirIdentifier := by
  unfold Obligations.FramesTakeThePathOfTheirIdentifier
  refine ⟨⟨fun l d f s off => ?_, fun l d f s on => ⟨?_, ?_, fun seg ctl => ?_⟩⟩,
    fun l f s on distinct => ⟨fun foreign => ?_, fun listed full => ?_, fun listed room => ?_⟩⟩
  · exact ⟨congrArg _ (receiveFrame_of_not off _ f), congrArg _ (receiveFrame_of_not off _ f), congrArg _ (receiveFrame_of_not off d f)⟩
  · rintro rfl; rfl
  · rintro rfl; rfl
  · exact congrArg _ ((receiveFrame_of_receiving on d f).trans ((if_neg seg).trans (if_neg ctl)))
  · rw [exec_controlFrame on distinct]
    exact congrArg _ (if_pos foreign)
  · rw [exec_controlFrame on distinct]
    exact congrArg _ ((if_neg (by rw [listed]; decide)).trans (if_pos full))
  · rw [exec_controlFrame on distinct]
    exact congrArg _ ((if_neg (by rw [listed]; decide)).trans (if_neg (Nat.not_le.mpr room)))

/-! ## What a lane's checks find -/

section
variable {s : State} {l : Lane} {f : Frame} {i : StreamNo} {n : Nat}

/-- The header tests of the lane are R55's. -/
theorem headerOk_iff : headerOk l f = true ↔ HeaderPasses l f := by
  have lane : byteAt f 6 = byteOf l ↔ (byteAt f 6).toNat = l.val := by
    rw [← BitVec.toNat_inj]
    simp only [byteOf, BitVec.toNat_ofNat]
    omega
  unfold headerOk HeaderPasses checkSumOk
  simp only [Bool.and_eq_true, beq_iff_eq, decide_eq_true_eq, and_assoc, lane, Nat.lt_succ_iff]
  rfl

/-- A fault of the frame is what the lane counts it under (R53). -/
theorem takeSegment_of_fault {k : LaneCounter} (heard : s.lanes[l].integrity ≠ .blocked) (h : SegmentFault l f k) :
    takeSegment l f s = laneFault l k (countLane l .frames s) := by
  unfold takeSegment frameVerdict
  rw [if_neg heard]
  obtain ⟨rfl, brief⟩ | ⟨rfl, long, fails⟩ | ⟨rfl, long, passes, cut⟩ | ⟨rfl, passes, whole, sum⟩ := h
  · rw [if_pos brief]
  · rw [if_neg (Nat.not_lt.mpr long), if_pos (Bool.eq_false_iff.mpr fun ok => fails (headerOk_iff.mp ok))]
  · rw [if_neg (Nat.not_lt.mpr long), if_neg (by rw [headerOk_iff.mpr passes]; decide), if_pos cut]
  · rw [if_neg (by omega), if_neg (by rw [headerOk_iff.mpr passes]; decide), if_neg (Nat.not_lt.mpr whole), if_pos sum]

/-- A frame that passes every check reaches the assembler (R57). -/
theorem takeSegment_of_good (heard : s.lanes[l].integrity ≠ .blocked) (h : GoodSegment l f i n) :
    takeSegment l f s = assemble l i n (segmentPayload f) (goodTaken l s) := by
  obtain ⟨passes, whole, sum, stream, index⟩ := h
  unfold takeSegment frameVerdict
  rw [if_neg heard, if_neg (by omega), if_neg (by rw [headerOk_iff.mpr passes]; decide), if_neg (Nat.not_lt.mpr whole),
    if_neg (not_not.mpr sum), streamNoOf_eq stream, index]
  rfl

theorem takeSegment_of_blocked (f : Frame) (shut : s.lanes[l].integrity = .blocked) :
    takeSegment l f s = countLane l .blocked (countLane l .frames s) := by
  unfold takeSegment frameVerdict
  rw [if_pos shut]

theorem segmentPayload_length (h : GoodSegment l f i n) : (segmentPayload f).length = (byteAt f 3).toNat := by
  obtain ⟨_, whole, _⟩ := h
  rw [segmentPayload, List.length_take, List.length_drop]
  omega

theorem exec_takesSegment (h : TakesSegment l f i n s) :
    exec (.segmentFrame l f) s = .next (assemble l i n (segmentPayload f) (goodTaken l s)) := by
  obtain ⟨on, heard, good⟩ := h
  rw [exec_segmentFrame on, takeSegment_of_good heard good]

/-! ## The integrity machine -/

/-- A lane fault, by the state of the integrity machine (R58, R60). -/
theorem laneFault_below (k : LaneCounter) (opened : s.lanes[l].integrity = .opened) (below : s.lanes[l].faults + 1 < s.params.faultThreshold) :
    laneFault l k s = (countLane l k s).setLane l { s.lanes[l] with faults := s.lanes[l].faults + 1 } := by
  have lanes : (countLane l k s).lanes = s.lanes := rfl
  unfold laneFault
  dsimp only
  rw [lanes, opened]
  exact if_neg (Nat.not_le.mpr below)

/-- The lane as blocking leaves it, with `c` faults counted (R58). -/
def laneBlocked (s : State) (l : Lane) (c : Nat) : LaneRx :=
  { s.lanes[l] with integrity := .blocked, faults := c, quarantine := some (s.params.quarantine * 10) }

theorem laneFault_reached (k : LaneCounter) (opened : s.lanes[l].integrity = .opened) (reached : s.params.faultThreshold ≤ s.lanes[l].faults + 1) :
    laneFault l k s = queueRecord (.lane l .blocked) ((countLane l k s).setLane l (laneBlocked s l (s.lanes[l].faults + 1))) := by
  have lanes : (countLane l k s).lanes = s.lanes := rfl
  unfold laneFault
  dsimp only
  rw [lanes, opened]
  refine (if_pos reached).trans ?_
  unfold blockLane
  rw [lanes_set, if_pos rfl, State.setLane_setLane]
  rfl

theorem laneFault_guarded (k : LaneCounter) (guarded : s.lanes[l].integrity = .guarded) :
    laneFault l k s = queueRecord (.lane l .blocked) ((countLane l k s).setLane l (laneBlocked s l s.lanes[l].faults)) := by
  have lanes : (countLane l k s).lanes = s.lanes := rfl
  unfold laneFault
  dsimp only
  rw [lanes, guarded]
  rfl

/-- A good segment, by the state of the integrity machine (R58, R60). -/
theorem laneGood_opened (opened : s.lanes[l].integrity = .opened) : laneGood l s = s.setLane l { s.lanes[l] with faults := 0 } := by
  unfold laneGood
  rw [opened]

theorem laneGood_below (guarded : s.lanes[l].integrity = .guarded) (below : s.lanes[l].good + 1 < s.params.guardCount) :
    laneGood l s = s.setLane l { s.lanes[l] with good := s.lanes[l].good + 1 } := by
  unfold laneGood
  rw [guarded]
  exact if_neg (Nat.not_le.mpr below)

theorem laneGood_reached (guarded : s.lanes[l].integrity = .guarded) (reached : s.params.guardCount ≤ s.lanes[l].good + 1) :
    laneGood l s = queueRecord (.lane l .opened)
      (s.setLane l { s.lanes[l] with integrity := .opened, good := s.lanes[l].good + 1, faults := 0 }) := by
  unfold laneGood
  rw [guarded]
  exact if_pos reached

end

/-- Settles O8: a segment frame on a blocked lane, a lane fault, a good segment and the quarantine's end, by the state of the machine. -/
theorem theLaneIntegrityMachine : Obligations.TheLaneIntegrityMachine := by
  unfold Obligations.TheLaneIntegrityMachine
  refine ⟨fun l f s on => ⟨fun shut => ?_, fun k fault => ⟨fun opened below => ?_, fun opened reached => ?_, fun guarded => ?_⟩⟩,
    fun l s => ⟨fun opened => laneGood_opened opened, fun guarded below => laneGood_below guarded below,
      fun guarded reached => laneGood_reached guarded reached⟩, fun l s runs => if_pos runs⟩
  · rw [exec_segmentFrame on, takeSegment_of_blocked f shut]
  all_goals rw [exec_segmentFrame on, takeSegment_of_fault (by simp only [*]; decide) fault]
  · exact congrArg _ (laneFault_below k opened below)
  · exact congrArg _ (laneFault_reached k opened reached)
  · exact congrArg _ (laneFault_guarded k guarded)

/-! ## Counters -/

section
variable {s : State}

theorem raiseAt_getElem (row : Vector Nat 10) (i j : Fin 10) :
    (raiseAt row i)[j] = if j = i then satInc counterMax row[i] else row[j] := by
  simp only [raiseAt, Fin.getElem_fin, Vector.getElem_set, Fin.ext_iff, eq_comm]

theorem raiseLane_lanes (c : Counters) (l m : Lane) (k : LaneCounter) :
    (c.raiseLane l k).lanes[m] = if m = l then raiseAt c.lanes[l] k.index else c.lanes[m] := by
  simp only [Counters.raiseLane, Fin.getElem_fin, Vector.getElem_set, Fin.ext_iff, eq_comm]

theorem raiseStream_streams (c : Counters) (i j : StreamNo) (k : StreamCounter) :
    (c.raiseStream i k).streams[j] = if j = i then raiseAt c.streams[i] k.index else c.streams[j] := by
  simp only [Counters.raiseStream, Fin.getElem_fin, Vector.getElem_set, Fin.ext_iff, eq_comm]

theorem LaneCounter.index_inj {j k : LaneCounter} : j.index = k.index ↔ j = k := by
  constructor
  · cases j <;> cases k <;> first | exact fun _ => rfl | exact fun e => absurd e (by decide)
  · rintro rfl; rfl

theorem StreamCounter.index_inj {j k : StreamCounter} : j.index = k.index ↔ j = k := by
  constructor
  · cases j <;> cases k <;> first | exact fun _ => rfl | exact fun e => absurd e (by decide)
  · rintro rfl; rfl

theorem laneCount_countLane (l m : Lane) (k j : LaneCounter) (s : State) :
    laneCount (countLane l k s) m j = if m = l ∧ j = k then satInc counterMax (laneCount s l k) else laneCount s m j := by
  show ((s.counters.raiseLane l k).lanes[m])[j.index] = _
  rw [raiseLane_lanes]
  by_cases lane : m = l
  · subst lane
    rw [if_pos rfl, raiseAt_getElem]
    simp only [LaneCounter.index_inj, true_and]
    rfl
  · rw [if_neg lane, if_neg fun both => lane both.1]
    rfl

theorem streamCount_countStream (i j : StreamNo) (k q : StreamCounter) (s : State) :
    streamCount (countStream i k s) j q = if j = i ∧ q = k then satInc counterMax (streamCount s i k) else streamCount s j q := by
  show ((s.counters.raiseStream i k).streams[j])[q.index] = _
  rw [raiseStream_streams]
  by_cases stream : j = i
  · subst stream
    rw [if_pos rfl, raiseAt_getElem]
    simp only [StreamCounter.index_inj, true_and]
    rfl
  · rw [if_neg stream, if_neg fun both => stream both.1]
    rfl

/-! ## The steps of R69 -/

/-- The steps read the streams and the slots alone. -/
theorem segmentOutcome_congr {t : State} (streams : t.streams = s.streams) (slots : t.slots = s.slots) (l : Lane) (i : StreamNo) (k n : Nat) :
    segmentOutcome t l i k n = segmentOutcome s l i k n := by
  unfold segmentOutcome slotOf lowestFree
  rw [streams, slots]

theorem touches_goodTaken (l : Lane) (s : State) : Touches laneParts s (goodTaken l s) :=
  (touches_laneGood _ l).after ((touches_countLane _ l _).after (touches_countLane s l _).mono)

theorem segmentOutcome_goodTaken (l : Lane) (s : State) (i : StreamNo) (k n : Nat) :
    segmentOutcome (goodTaken l s) l i k n = segmentOutcome s l i k n :=
  segmentOutcome_congr (touches_goodTaken l s .streams (by decide)) (touches_goodTaken l s .slots (by decide)) l i k n

variable {l : Lane} {i : StreamNo} {k n : Nat} {m : Accepted}

theorem segmentOutcome_of_idle (idle : s.streams[i].state ≠ .active) : segmentOutcome s l i k n = .inactive := by
  unfold segmentOutcome
  dsimp only
  split
  next => rfl
  next => exact if_pos idle

section
variable (active : s.streams[i].state = .active) (man : s.streams[i].manifest = some m)
include active man

/-- The steps after the first two, for an ACTIVE stream with its manifest. -/
theorem segmentOutcome_of_active :
    segmentOutcome s l i k n =
      if s.streams[i].members[l].isNone then .foreign
      else if m.segmentCount ≤ k then .beyond
      else if n ≠ m.segmentLength k then .length
      else if k / m.perBlock < s.streams[i].lowEdge then .stale
      else if s.streams[i].lowEdge + s.streams[i].window ≤ k / m.perBlock then .ahead
      else match slotOf s i (k / m.perBlock) with
        | some q =>
          if s.slots[q].state.reachedComplete || s.slots[q].filled.getLsbD (k % m.perBlock) then .duplicate
          else .place q (k % m.perBlock) m.segmentUnit
        | none =>
          match lowestFree s with
          | some q => .allocate q (k / m.perBlock) (m.blockSegments (k / m.perBlock)) (k % m.perBlock) m.segmentUnit
          | none => .ahead := by
  unfold segmentOutcome
  dsimp only
  rw [man]
  exact if_neg (not_not.mpr active)

theorem segmentOutcome_of_foreign (foreign : s.streams[i].members[l] = none) : segmentOutcome s l i k n = .foreign := by
  rw [segmentOutcome_of_active active man, if_pos (by rw [foreign]; rfl)]

variable (member : s.streams[i].members[l].isSome = true)
include member

theorem segmentOutcome_of_beyond (beyond : m.segmentCount ≤ k) : segmentOutcome s l i k n = .beyond := by
  rw [segmentOutcome_of_active active man, if_neg (by simpa using Option.isSome_iff_ne_none.mp member), if_pos beyond]

theorem segmentOutcome_of_length (counted : k < m.segmentCount) (odd : n ≠ m.segmentLength k) : segmentOutcome s l i k n = .length := by
  rw [segmentOutcome_of_active active man, if_neg (by simpa using Option.isSome_iff_ne_none.mp member), if_neg (Nat.not_le.mpr counted), if_pos odd]

variable (fits : k < m.segmentCount ∧ n = m.segmentLength k)
include fits

/-- The steps after the fifth, for a segment that fits the stream. -/
theorem segmentOutcome_of_fits :
    segmentOutcome s l i k n =
      if k / m.perBlock < s.streams[i].lowEdge then .stale
      else if s.streams[i].lowEdge + s.streams[i].window ≤ k / m.perBlock then .ahead
      else match slotOf s i (k / m.perBlock) with
        | some q =>
          if s.slots[q].state.reachedComplete || s.slots[q].filled.getLsbD (k % m.perBlock) then .duplicate
          else .place q (k % m.perBlock) m.segmentUnit
        | none =>
          match lowestFree s with
          | some q => .allocate q (k / m.perBlock) (m.blockSegments (k / m.perBlock)) (k % m.perBlock) m.segmentUnit
          | none => .ahead := by
  obtain ⟨counted, length⟩ := fits
  rw [segmentOutcome_of_active active man, if_neg (by simpa using Option.isSome_iff_ne_none.mp member),
    if_neg (Nat.not_le.mpr counted), if_neg (not_not.mpr length)]

theorem segmentOutcome_of_stale (stale : k / m.perBlock < s.streams[i].lowEdge) : segmentOutcome s l i k n = .stale := by
  rw [segmentOutcome_of_fits active man member fits, if_pos stale]

variable (low : s.streams[i].lowEdge ≤ k / m.perBlock)
include low

theorem segmentOutcome_of_ahead (ahead : s.streams[i].lowEdge + s.streams[i].window ≤ k / m.perBlock) :
    segmentOutcome s l i k n = .ahead := by
  rw [segmentOutcome_of_fits active man member fits, if_neg (Nat.not_lt.mpr low), if_pos ahead]

variable (high : k / m.perBlock < s.streams[i].lowEdge + s.streams[i].window)
include high

theorem segmentOutcome_of_slot {q : SlotNo} (slot : slotOf s i (k / m.perBlock) = some q) :
    segmentOutcome s l i k n =
      if s.slots[q].state.reachedComplete || s.slots[q].filled.getLsbD (k % m.perBlock) then .duplicate
      else .place q (k % m.perBlock) m.segmentUnit := by
  rw [segmentOutcome_of_fits active man member fits, if_neg (Nat.not_lt.mpr low), if_neg (Nat.not_le.mpr high), slot]

theorem segmentOutcome_of_noSlot {q : SlotNo} (slot : slotOf s i (k / m.perBlock) = none) (free : lowestFree s = some q) :
    segmentOutcome s l i k n =
      .allocate q (k / m.perBlock) (m.blockSegments (k / m.perBlock)) (k % m.perBlock) m.segmentUnit := by
  rw [segmentOutcome_of_fits active man member fits, if_neg (Nat.not_lt.mpr low), if_neg (Nat.not_le.mpr high), slot, free]

end

/-- A segment the lane takes is judged by the steps of R69, on the state as it was. -/
theorem exec_segmentFrame_of_outcome {f : Frame} {o : SegmentOutcome} (takes : TakesSegment l f i k s)
    (outcome : segmentOutcome s l i k (byteAt f 3).toNat = o) :
    exec (.segmentFrame l f) s = .next (assemble l i k (segmentPayload f) (goodTaken l s)) ∧
      segmentOutcome (goodTaken l s) l i k (segmentPayload f).length = o := by
  obtain ⟨_, _, good⟩ := id takes
  exact ⟨exec_takesSegment takes, by rw [segmentOutcome_goodTaken, segmentPayload_length good, outcome]⟩

end

/-- Settles O9: the two counters' updates, and the refusing steps of R69 in their order. -/
theorem refusedSegmentsAreCounted : Obligations.RefusedSegmentsAreCounted := by
  unfold Obligations.RefusedSegmentsAreCounted
  refine ⟨fun l k s => ⟨?_, fun m j other => ?_, fun i j => rfl, rfl, touches_countLane s l k⟩,
    fun i k s => ⟨?_, fun j q other => ?_, fun l q => rfl, rfl, touches_countStream s i k⟩, fun l f i n s takes => ⟨fun idle => ?_, fun m active man =>
      ⟨fun foreign => ?_, fun member => ⟨fun beyond => ?_, fun counted odd => ?_, fun fits stale => ?_, fun fits low ahead => ?_,
        fun fits low high q slot taken => ?_⟩⟩⟩⟩
  · rw [laneCount_countLane, if_pos ⟨rfl, rfl⟩]; rfl
  · rw [laneCount_countLane, if_neg (by tauto)]
  · rw [streamCount_countStream, if_pos ⟨rfl, rfl⟩]; rfl
  · rw [streamCount_countStream, if_neg (by tauto)]
  · obtain ⟨run, outcome⟩ := exec_segmentFrame_of_outcome takes (segmentOutcome_of_idle idle)
    rw [run, assemble, outcome]
  · obtain ⟨run, outcome⟩ := exec_segmentFrame_of_outcome takes (segmentOutcome_of_foreign active man foreign)
    rw [run, assemble, outcome]
  · obtain ⟨run, outcome⟩ := exec_segmentFrame_of_outcome takes (segmentOutcome_of_beyond active man member beyond)
    rw [run, assemble, outcome]
  · obtain ⟨run, outcome⟩ := exec_segmentFrame_of_outcome takes (segmentOutcome_of_length active man member counted odd)
    rw [run, assemble, outcome]
  · obtain ⟨run, outcome⟩ := exec_segmentFrame_of_outcome takes (segmentOutcome_of_stale active man member fits stale)
    rw [run, assemble, outcome]
  · obtain ⟨run, outcome⟩ := exec_segmentFrame_of_outcome takes (segmentOutcome_of_ahead active man member fits low ahead)
    have streams : (goodTaken l s).streams = s.streams := touches_goodTaken l s .streams (by decide)
    rw [run, assemble, outcome, ← streams]
  · have taken' := (segmentOutcome_of_slot active man member fits low high slot).trans (if_pos (Bool.or_eq_true _ _ ▸ taken))
    obtain ⟨run, outcome⟩ := exec_segmentFrame_of_outcome takes taken'
    rw [run, assemble, outcome]

end Sys2Proof.Machine

/-! Segments placed and blocks completed (O10, O11): R33 to R35, R67, R74 to R78. -/

namespace Sys2Proof.Machine

section
variable {s : State} {l : Lane} {i : StreamNo} {q : SlotNo}

theorem State.setSlot_setSlot (s : State) (q : SlotNo) (x y : Slot) : (s.setSlot q x).setSlot q y = s.setSlot q y := by
  simp only [State.setSlot, Vector.set_set]

/-! ## The storing of a segment -/

/-- The state between a segment's storing and the serving of its member: bytes, position, counter and stall timer (R77). -/
def segmentStored (i : StreamNo) (q : SlotNo) (p unit : Nat) (bs : List Byte) (s : State) : State :=
  let s3 := countStream i .placed ((s.withStaging (s.staging.writeAll 0 (stagingAddress q (p * unit)) bs)).setSlot q
    (s.slots[q].fill p bs.length))
  s3.setStream i { s3.streams[i] with stallCount := 0, stallTimer := some (stallInterval s3) }

/-- A placement is the storing, the serving of the member, and at the last position the slot's completion (R77, R78). -/
theorem placeSegment_eq (l : Lane) (i : StreamNo) (q : SlotNo) (p unit : Nat) (bs : List Byte) (s : State) :
    placeSegment l i q p unit bs s =
      let w := serveMember i l (segmentStored i q p unit bs s)
      if w.slots[q].isFull then completeSlot q i w else w := rfl

theorem segmentStored_slots (p unit : Nat) (bs : List Byte) (s : State) (r : SlotNo) :
    (segmentStored i q p unit bs s).slots[r] = if r = q then s.slots[q].fill p bs.length else s.slots[r] := by
  show ((s.withStaging _).setSlot q _).slots[r] = _
  rw [slots_set]
  rfl

theorem segmentStored_streams (p unit : Nat) (bs : List Byte) (s : State) (j : StreamNo) :
    (segmentStored i q p unit bs s).streams[j] =
      if j = i then { s.streams[i] with stallCount := 0, stallTimer := some (s.params.stallTime * 10) } else s.streams[j] := by
  unfold segmentStored
  dsimp only
  rw [streams_set]
  rfl

theorem touches_segmentStored (i : StreamNo) (q : SlotNo) (p unit : Nat) (bs : List Byte) (s : State) :
    Touches ([.staging, .slots, .streams] ++ reportParts) s (segmentStored i q p unit bs s) :=
  (touches_setStream _ i _).after ((touches_countStream _ i _).after ((touches_setSlot _ q _).after (touches_withStaging s _).mono))

/-! ## The quiet timers at a placement -/

/-- A block no slot of which has reached COMPLETE has not (R33). -/
theorem blockReachedComplete_of_slots {t : State} {b : Nat} (h : ∀ k, slotOf t i b = some k → t.slots[k].state.reachedComplete = false) :
    blockReachedComplete t i b = false := by
  unfold blockReachedComplete
  split
  next k slot => exact h k slot
  next => rfl

theorem not_holds_of_slotOf {b : Nat} (h : slotOf s i b = none) (k : SlotNo) : s.slots[k].holds i b = false :=
  Bool.eq_false_iff.mpr (List.find?_eq_none.mp h k (List.mem_finRange k))

theorem holds_congr {x y : Slot} (h : x.holder = y.holder) (b : Nat) : x.holds i b = y.holds i b := by
  unfold Slot.holds
  rw [h]

/-- While a slot is filled its block has not reached COMPLETE. -/
theorem blockReachedComplete_of_filling {t : State} {m : Accepted} {b p : Nat} {x : Slot} (place : PlacementSlot s i m b p q x)
    (state : t.slots[q].state = x.state) (holder : t.slots[q].holder = x.holder) (others : ∀ r, r ≠ q → t.slots[r] = s.slots[r]) :
    blockReachedComplete t i b = false := by
  refine blockReachedComplete_of_slots fun k found => ?_
  have here : k = q ∧ x.state = .filling := by
    obtain ⟨slot, rfl, filling, _⟩ | ⟨slot, _, rfl⟩ := place
    · have holders : ∀ r : SlotNo, t.slots[r].holder = s.slots[r].holder := fun r => by
        by_cases e : r = q
        · rw [e, holder]
        · rw [others r e]
      rw [slotOf_congr holders, slot] at found
      exact ⟨(Option.some.inj found).symm, filling⟩
    · refine ⟨Decidable.byContradiction fun e => ?_, rfl⟩
      have other := holds_of_slotOf found
      rw [others k e, not_holds_of_slotOf slot k] at other
      cases other
  obtain ⟨rfl, filling⟩ := here
  rw [state, filling]
  rfl

/-! ## The member served by a placement -/

/-- The descriptor of stream `i` with the member of lane `l` served while the quiet timers run (R34). -/
def memberServed (l : Lane) (i : StreamNo) (t : State) : Stream :=
  { t.streams[i] with
    members := t.streams[i].members.set l (some { state := .active, timer := some (t.params.quietTime * 10) }) }

/-- Serving a member while the quiet timers run: its record, and the MEMBER record of a QUIET one (R34). -/
theorem serveMember_eq {t : State} (member : t.streams[i].members[l].isSome = true) (quiet : quietCondition t i = true) :
    serveMember i l t = (memberRecords t l i).foldl (fun v r => queueAny r v) (t.setStream i (memberServed l i t)) := by
  obtain ⟨m, some⟩ := Option.isSome_iff_exists.mp member
  unfold serveMember memberRecords
  dsimp only
  rw [some, quiet]
  dsimp only [Option.map_some]
  by_cases q : m.state = .quiet
  · rw [if_pos q, if_pos (congrArg _ q)]
    rfl
  · rw [if_neg q, if_neg fun e => q (Option.some.inj e)]
    rfl

/-- Records queued on states the report unit cannot tell apart. -/
theorem SameReportView.queueAll {t : State} (h : SameReportView s t) (rs : List Record) :
    SameReportView (rs.foldl (fun v r => queueAny r v) s) (rs.foldl (fun v r => queueAny r v) t) := by
  induction rs generalizing s t with
  | nil => exact h
  | cons r rs ih =>
    refine ih ?_
    dsimp only [queueAny]
    split
    next => exact h.queueWindow _ _ _
    next => exact h.queueRecord _

theorem touches_queueAll (rs : List Record) (s : State) : Touches reportParts s (rs.foldl (fun v r => queueAny r v) s) := by
  induction rs generalizing s with
  | nil => exact .refl _ s
  | cons r rs ih =>
    refine (ih _).trans' ?_
    dsimp only [queueAny]
    split
    next => exact touches_queueWindow s _ _ _
    next => exact touches_queueRecord s _

/-! ## The placement -/

/-- What a placement in slot `q`, left reading `y`, makes of the state before the frame, `s`: the common conclusion of O10 and O11. -/
structure Placed (l : Lane) (i : StreamNo) (q : SlotNo) (start : Nat) (f : Frame) (y : Slot) (s t : State) : Prop where
  slot : t.slots[q] = y
  otherSlots : OtherSlotsSame q s t
  bytes : ∀ a, t.staging.read 0 a =
    if start ≤ a ∧ a < start + (byteAt f 3).toNat then byteAt f (8 + (a - start)) else s.staging.read 0 a
  stream : t.streams[i] = placedStream s l i
  otherStreams : OtherStreamsSame i s t
  reports : Reports (memberRecords s l i) (countStream i .placed (goodTaken l s)) t
  lanes : t.lanes = (goodTaken l s).lanes
  touches : Touches ([.lanes, .staging, .slots, .streams] ++ reportParts) s t

theorem segmentStored_view (p unit : Nat) (bs : List Byte) (s : State) :
    SameReportView (countStream i .placed s) (segmentStored i q p unit bs s) := ⟨rfl, rfl, rfl, rfl⟩

theorem SameReportView.trans {t u : State} (h : SameReportView s t) (k : SameReportView t u) : SameReportView s u := by
  obtain ⟨report, trunk, params, counters⟩ := h
  obtain ⟨report', trunk', params', counters'⟩ := k
  exact ⟨report'.trans report, trunk'.trans trunk, params'.trans params, counters'.trans counters⟩

/-- The report unit does not read the slots. -/
theorem SameReportView.countStream_of_touches {t : State} (h : Touches [.slots] s t) (k : StreamCounter) :
    SameReportView (countStream i k s) (countStream i k t) :=
  ⟨h .report (by decide), h .trunk (by decide), h .params (by decide), congrArg (Counters.raiseStream · i k) (h .counters (by decide))⟩

/-- The slot record may be changed once more. -/
theorem Placed.setSlot {start : Nat} {f : Frame} {y : Slot} {t : State} (h : Placed l i q start f y s t) (x : Slot) :
    Placed l i q start f x s (t.setSlot q x) where
  slot := by rw [slots_set, if_pos rfl]
  otherSlots r other := by rw [slots_set, if_neg other]; exact h.otherSlots r other
  bytes := h.bytes
  stream := h.stream
  otherStreams := h.otherStreams
  reports := h.reports
  lanes := h.lanes
  touches := (touches_setSlot t q x).after h.touches

/-- Byte `j` of the payload is byte `8 + j` of the frame (section 3.4). -/
theorem segmentPayload_getElem {f : Frame} {j : Nat} (h : j < (segmentPayload f).length) : (segmentPayload f)[j] = byteAt f (8 + j) := by
  have inside : 8 + j < f.length := by
    rw [segmentPayload, List.length_take, List.length_drop] at h
    omega
  simp only [segmentPayload, List.getElem_take, List.getElem_drop, byteAt, List.getD_eq_getElem?_getD, List.getElem?_eq_getElem inside, Option.getD_some]

/-- What the storing of a segment into slot `q`, left reading `y`, makes of the state before the frame. -/
structure SlotFilled (l : Lane) (i : StreamNo) (q : SlotNo) (start : Nat) (f : Frame) (y : Slot) (s w : State) : Prop where
  slot : w.slots[q] = y
  otherSlots : OtherSlotsSame q s w
  staging : w.staging = s.staging.writeAll 0 start (segmentPayload f)
  stream : w.streams[i] = { s.streams[i] with stallCount := 0, stallTimer := some (s.params.stallTime * 10) }
  otherStreams : ∀ j, j ≠ i → w.streams[j] = s.streams[j]
  view : SameReportView (countStream i .placed (goodTaken l s)) w
  lanes : w.lanes = (goodTaken l s).lanes
  touches : Touches ([.lanes, .staging, .slots, .streams] ++ reportParts) s w

/-- The storing into `v`, which is what the lane made of `s` with slot `q` reading `x`. -/
theorem slotFilled_segmentStored {f : Frame} {n p unit : Nat} {x : Slot} {v : State} (good : GoodSegment l f i n) (slot : v.slots[q] = x)
    (others : ∀ r, r ≠ q → v.slots[r] = s.slots[r]) (lane : Touches [.slots] (goodTaken l s) v) :
    SlotFilled l i q (q.val * 3584 + p * unit) f (x.fill p (byteAt f 3).toNat) s (segmentStored i q p unit (segmentPayload f) v) := by
  have before : Touches (.slots :: laneParts) s v := lane.after (touches_goodTaken l s).mono
  have streams : v.streams = s.streams := before .streams (by decide)
  have params : v.params = s.params := before .params (by decide)
  have memory : v.staging = s.staging := before .staging (by decide)
  have stored := touches_segmentStored i q p unit (segmentPayload f) v
  constructor
  case slot => rw [segmentStored_slots, if_pos rfl, slot, segmentPayload_length good]
  case otherSlots => exact fun r other => by rw [segmentStored_slots, if_neg other, others r other]
  case staging =>
    rw [← memory]
    rfl
  case stream => rw [segmentStored_streams, if_pos rfl, streams, params]
  case otherStreams => exact fun j other => by rw [segmentStored_streams, if_neg other, streams]
  case view => exact (SameReportView.countStream_of_touches lane .placed).trans (segmentStored_view p unit (segmentPayload f) v)
  case lanes => rw [stored .lanes (by decide), lane .lanes (by decide)]
  case touches => exact stored.after before.mono

/-- Once the segment is stored the quiet timers run: its block has not reached COMPLETE (R33). -/
theorem SlotFilled.quiet {f : Frame} {n p start len : Nat} {m : Accepted} {x : Slot} {w : State}
    (h : SlotFilled l i q start f (x.fill p len) s w) (window : InWindow s l i m n len)
    (place : PlacementSlot s i m (n / m.perBlock) (n % m.perBlock) q x) : quietCondition w i = true := by
  obtain ⟨active, man, _, _, _, low, _, counted⟩ := window
  refine (quietCondition_iff w i).mpr ⟨by rw [h.stream]; exact active, n / m.perBlock, by rw [h.stream]; exact low, ?_, ?_⟩
  · rw [h.stream]
    unfold Stream.blockCount
    rw [show s.streams[i].manifest = some m from man]
    exact counted
  · exact blockReachedComplete_of_filling place (by rw [h.slot]; rfl) (by rw [h.slot]; rfl) h.otherSlots

/-- The member served, the placement is whole. -/
theorem SlotFilled.placed {f : Frame} {start : Nat} {y : Slot} {w : State} (h : SlotFilled l i q start f y s w)
    (payload : (segmentPayload f).length = (byteAt f 3).toNat) (canonical : s.staging.wf 0 = true)
    (member : s.streams[i].members[l].isSome = true) (quiet : quietCondition w i = true) :
    Placed l i q start f y s (serveMember i l w) := by
  have served := serveMember_eq (t := w) (l := l) (by rw [h.stream]; exact member) quiet
  have records : memberRecords w l i = memberRecords s l i := by unfold memberRecords; rw [h.stream]
  rw [records] at served
  have queued := touches_queueAll (memberRecords s l i) (w.setStream i (memberServed l i w))
  rw [← served] at queued
  have params : w.params = s.params := h.touches .params (by decide)
  have kept := touches_serveMember w i l
  have all : Touches ([.lanes, .staging, .slots, .streams] ++ reportParts) s (serveMember i l w) := kept.after h.touches
  have streams : (serveMember i l w).streams = (w.setStream i (memberServed l i w)).streams := queued .streams (by decide)
  constructor
  case slot => rw [kept .slots (by decide), h.slot]
  case otherSlots => exact fun r other => by rw [kept .slots (by decide), h.otherSlots r other]
  case bytes =>
    intro a
    rw [kept .staging (by decide), h.staging, Memory.read_writeAll canonical, ← payload]
    split
    next => exact segmentPayload_getElem _
    next => rfl
  case stream =>
    rw [streams, streams_set, if_pos rfl, memberServed, h.stream, params]
    rfl
  case otherStreams =>
    intro j other
    refine ⟨?_, ?_, ?_⟩
    · rw [streams, streams_set, if_neg other, h.otherStreams j other]
    · rw [all .manifests (by decide)]
    · rw [all .contexts (by decide)]
  case reports =>
    have view : SameReportView w (w.setStream i (memberServed l i w)) := ⟨rfl, rfl, rfl, rfl⟩
    obtain ⟨report, trunk, _, counters⟩ := (h.view.trans view).queueAll (memberRecords s l i)
    rw [← served] at report trunk counters
    exact ⟨report, trunk, counters⟩
  case lanes => rw [kept .lanes (by decide), h.lanes]
  case touches => exact all

/-- The placement into `v`, which is what the lane made of `s` with slot `q` reading `x`. -/
theorem placed_serveMember {f : Frame} {n : Nat} {m : Accepted} {x : Slot} {v : State} (takes : TakesSegment l f i n s)
    (canonical : MemoriesCanonical s) (window : InWindow s l i m n (byteAt f 3).toNat)
    (place : PlacementSlot s i m (n / m.perBlock) (n % m.perBlock) q x) (slot : v.slots[q] = x)
    (others : ∀ r, r ≠ q → v.slots[r] = s.slots[r]) (lane : Touches [.slots] (goodTaken l s) v) :
    Placed l i q (q.val * 3584 + n % m.perBlock * m.segmentUnit) f (x.fill (n % m.perBlock) (byteAt f 3).toNat) s
      (serveMember i l (segmentStored i q (n % m.perBlock) m.segmentUnit (segmentPayload f) v)) := by
  obtain ⟨_, _, good⟩ := takes
  obtain ⟨_, staging, _, _⟩ := canonical
  have filled := slotFilled_segmentStored (p := n % m.perBlock) (unit := m.segmentUnit) good slot others lane
  have quiet := filled.quiet window place
  obtain ⟨_, _, member, _⟩ := window
  exact filled.placed (segmentPayload_length good) staging member quiet

/-- A placement's segment is placed, in the slot that holds its block or in the one allocated for it (R74, R76). -/
theorem exec_segmentFrame_of_placement {f : Frame} {n : Nat} {m : Accepted} {x : Slot} (takes : TakesSegment l f i n s)
    (window : InWindow s l i m n (byteAt f 3).toNat) (place : PlacementSlot s i m (n / m.perBlock) (n % m.perBlock) q x) :
    ∃ v, exec (.segmentFrame l f) s = .next (placeSegment l i q (n % m.perBlock) m.segmentUnit (segmentPayload f) v) ∧
      v.slots[q] = x ∧ (∀ r, r ≠ q → v.slots[r] = s.slots[r]) ∧ Touches [.slots] (goodTaken l s) v := by
  obtain ⟨active, man, member, counted, length, low, high, _⟩ := window
  have slots : (goodTaken l s).slots = s.slots := touches_goodTaken l s .slots (by decide)
  obtain ⟨slot, rfl, filling, empty⟩ | ⟨slot, free, rfl⟩ := place
  · have found := (segmentOutcome_of_slot active man member ⟨counted, length⟩ low high slot).trans
      (if_neg (by rw [filling, empty]; decide))
    obtain ⟨run, outcome⟩ := exec_segmentFrame_of_outcome takes found
    rw [assemble, outcome] at run
    exact ⟨_, run, by rw [slots], fun r _ => by rw [slots], .refl _ _⟩
  · obtain ⟨run, outcome⟩ := exec_segmentFrame_of_outcome takes (segmentOutcome_of_noSlot active man member ⟨counted, length⟩ low high slot free)
    rw [assemble, outcome] at run
    refine ⟨_, run, ?_, fun r other => ?_, touches_setSlot _ q _⟩
    · rw [allocateSlot, slots_set, if_pos rfl]
    · rw [allocateSlot, slots_set, if_neg other, slots]

end

/-- Settles O10: the placement, with positions still to fill. -/
theorem segmentsArePlaced : Obligations.SegmentsArePlaced := by
  unfold Obligations.SegmentsArePlaced
  intro l f i n s m q x takes canonical window place partial_
  obtain ⟨v, run, slot, others, lane⟩ := exec_segmentFrame_of_placement takes window place
  have placed := placed_serveMember takes canonical window place slot others lane
  refine ⟨_, ?_, placed.slot, placed.otherSlots, placed.bytes, placed.stream, placed.otherStreams, placed.reports, placed.lanes, placed.touches⟩
  rw [run, placeSegment_eq]
  dsimp only
  rw [placed.slot, if_neg (by rw [partial_]; decide)]

theorem stopQuietIfDone_of_run {s : State} {i : StreamNo} (h : QuietTimersRun s i) : stopQuietIfDone i s = s :=
  if_pos ((quietCondition_iff s i).mpr h)

theorem stopQuietIfDone_of_not {s : State} {i : StreamNo} (h : ¬ QuietTimersRun s i) :
    stopQuietIfDone i s = s.setStream i s.streams[i].quietStopped := if_neg fun q => h ((quietCondition_iff s i).mp q)

/-- Settles O11: the placement that fills the last position, and the slot's completion. -/
theorem fullBlocksQueueADigestJob : Obligations.FullBlocksQueueADigestJob := by
  unfold Obligations.FullBlocksQueueADigestJob
  refine ⟨fun i s => ⟨stopQuietIfDone_of_run, fun done => ⟨_, stopQuietIfDone_of_not done, fun l => ?_⟩⟩, ?_⟩
  · simp [Fin.getElem_fin, Vector.getElem_map]
  · intro l f i n s m q x takes canonical window place full
    obtain ⟨v, run, slot, others, lane⟩ := exec_segmentFrame_of_placement takes window place
    have placed := placed_serveMember takes canonical window place slot others lane
    have complete := placed.setSlot { x.fill (n % m.perBlock) (byteAt f 3).toNat with state := .complete }
    refine ⟨_, _, ?_, rfl, complete.slot, complete.otherSlots, complete.bytes, complete.stream, complete.otherStreams,
      complete.reports, complete.lanes, complete.touches⟩
    rw [run, placeSegment_eq]
    dsimp only
    rw [placed.slot, if_pos full, completeSlot, placed.slot]

end Sys2Proof.Machine

/-! The load requests (O17 to O20): R3 to R11. -/

namespace Sys2Proof.Machine

section
variable {s t u : State} {i : StreamNo} {l : Lane} {f : Frame}

/-! ## The conditions of the load requests -/

theorem declaredCount_eq {n : Nat} (low : 1 ≤ n) (high : n ≤ 2048) : declaredCount (64 + 34 * n) = some n := by
  unfold declaredCount
  rw [if_pos (by omega), Nat.add_sub_cancel_left, Nat.mul_div_cancel_left n (by decide)]

theorem declaredCount_eq_none {len : Nat} (h : ∀ n, 1 ≤ n → n ≤ 2048 → len ≠ 64 + 34 * n) : declaredCount len = none := by
  refine if_neg fun ⟨low, high, whole⟩ => h ((len - 64) / 34) ?_ ?_ ?_
  all_goals omega

theorem loads_iff {x : StreamState} : x.loads = true ↔ x = .loading ∨ x = .authenticating := by
  rw [StreamState.loads, Bool.or_eq_true, beq_iff_eq, beq_iff_eq]

theorem otherLoads_iff : otherLoads s i = true ↔ ∃ j, j ≠ i ∧ (s.streams[j].state = .loading ∨ s.streams[j].state = .authenticating) := by
  simp only [otherLoads, List.any_eq_true, List.mem_finRange, true_and, Bool.and_eq_true, bne_iff_ne, loads_iff]

theorem loadingStream_eq (single : SingleLoadLaw s) (loading : s.streams[i].state = .loading) : loadingStream s = some i := by
  cases found : loadingStream s with
  | none =>
    have := List.find?_eq_none.mp found i (List.mem_finRange i)
    rw [loading] at this
    exact absurd rfl this
  | some j =>
    have other : s.streams[j].state = .loading := beq_iff_eq.mp (List.find?_some (p := fun k : StreamNo => s.streams[k].state == .loading) found)
    rw [single j i (by rw [other]; rfl) (by rw [loading]; rfl)]

theorem loadingStream_eq_none (idle : ∀ j : StreamNo, s.streams[j].state ≠ .loading) : loadingStream s = none :=
  List.find?_eq_none.mpr fun j _ => by rw [beq_iff_eq]; exact idle j

theorem loadingData_eq (h : loadingStream s = some i) : loadingData s = byteOf i :: beBytes 3 s.manifests[i].received := by
  unfold loadingData
  rw [h]
  rfl

theorem loadingData_of_none (h : loadingStream s = none) : loadingData s = [0xFF#8, 0#8, 0#8, 0#8] := by
  unfold loadingData
  rw [h]
  rfl

/-! ## MANIFEST_BEGIN -/

/-- The listed extents read cleared after a load has begun (R4). -/
theorem extentsCleared_beginLoad (canonical : MemoriesCanonical s) (i : StreamNo) (len n : Nat) :
    ExtentsCleared ((freeExtents s).take (extentsFor n)) s (beginLoad i len n s) := by
  obtain ⟨_, _, bytes, counts⟩ := canonical
  intro e b below
  have byte := (read_clearedEntries ((freeExtents s).take (extentsFor n)) s.entryBytes bytes).2 e b below
  have count := (read_clearedCounts ((freeExtents s).take (extentsFor n)) s.entryCounts counts).2 e
  refine ⟨fun inside => ⟨byte.trans (if_pos inside), count.trans (if_pos inside)⟩,
    fun outside => ⟨byte.trans (if_neg outside), count.trans (if_neg outside)⟩⟩

theorem beginLoad_streams (i j : StreamNo) (len n : Nat) (s : State) :
    (beginLoad i len n s).streams[j] = if j = i then { s.streams[i] with state := .loading } else s.streams[j] := by
  unfold beginLoad
  dsimp only
  rw [streams_set]
  rfl

/-- The first two conditions of R7. -/
theorem manifestBeginReply_of_range (range : 7 < (byteAt f 2).toNat) :
    manifestBeginReply f s = { status := .range, data := [0#8, byteOf (freeExtents s).length], state := s } := by
  unfold manifestBeginReply
  rw [streamNoOf_none range]

section
variable (number : (byteAt f 2).toNat = i.val)
include number

theorem manifestBeginReply_of_state (held : s.streams[i].state ≠ .vacant) :
    manifestBeginReply f s = { status := .state, data := [0#8, byteOf (freeExtents s).length], state := s } := by
  unfold manifestBeginReply
  rw [streamNoOf_eq number]
  exact if_pos held

variable (vacant : s.streams[i].state = .vacant)
include vacant

theorem manifestBeginReply_of_order (order : otherLoads s i = true) :
    manifestBeginReply f s = { status := .order, data := [0#8, byteOf (freeExtents s).length], state := s } := by
  unfold manifestBeginReply
  rw [streamNoOf_eq number]
  exact (if_neg (not_not.mpr vacant)).trans (if_pos order)

variable (alone : ¬ otherLoads s i = true)
include alone

theorem manifestBeginReply_of_vacant : manifestBeginReply f s = match declaredCount (fieldAt f 3 3) with
    | none => { status := .range, data := [0#8, byteOf (freeExtents s).length], state := s }
    | some n =>
      if (freeExtents s).length < extentsFor n then { status := .noRoom, data := [0#8, byteOf (freeExtents s).length], state := s }
      else
        let s1 := beginLoad i (fieldAt f 3 3) n s
        { status := .ok, data := [byteOf (extentsFor n), byteOf (freeExtents s1).length], state := s1 } := by
  unfold manifestBeginReply
  rw [streamNoOf_eq number]
  exact (if_neg (not_not.mpr vacant)).trans (if_neg alone)

theorem manifestBeginReply_of_length (odd : ∀ n, 1 ≤ n → n ≤ 2048 → fieldAt f 3 3 ≠ 64 + 34 * n) :
    manifestBeginReply f s = { status := .range, data := [0#8, byteOf (freeExtents s).length], state := s } := by
  rw [manifestBeginReply_of_vacant number vacant alone, declaredCount_eq_none odd]

theorem manifestBeginReply_of_declared {n : Nat} (low : 1 ≤ n) (high : n ≤ 2048) (len : fieldAt f 3 3 = 64 + 34 * n) :
    manifestBeginReply f s =
      if (freeExtents s).length < extentsFor n then { status := .noRoom, data := [0#8, byteOf (freeExtents s).length], state := s }
      else
        let s1 := beginLoad i (64 + 34 * n) n s
        { status := .ok, data := [byteOf (extentsFor n), byteOf (freeExtents s1).length], state := s1 } := by
  rw [manifestBeginReply_of_vacant number vacant alone, len, declaredCount_eq low high]

end

end

/-- Settles O17: the last branch of R7's conditions, and what the load's beginning leaves. -/
theorem manifestBeginTakesExtents : Obligations.ManifestBeginTakesExtents := by
  unfold Obligations.ManifestBeginTakesExtents
  intro l f i n s judging canonical number vacant alone low high len room
  have single : ¬ otherLoads s i = true := fun loads => by
    obtain ⟨j, other, loading | authenticating⟩ := otherLoads_iff.mp loads
    · exact (alone j other).1 loading
    · exact (alone j other).2 authenticating
  have reply := (manifestBeginReply_of_declared number vacant single low high len).trans (if_neg (Nat.not_lt.mpr room))
  refine ⟨beginLoad i (64 + 34 * n) n s, judgeKind_reply judging reply, ?_, ?_, fun j other => ⟨?_, ?_, rfl⟩,
    extentsCleared_beginLoad canonical i _ n, touches_beginLoad s i _ n⟩
  · rw [beginLoad_manifests, if_pos rfl]; rfl
  · rw [beginLoad_streams, if_pos rfl]
  · rw [beginLoad_streams, if_neg other]
  · rw [beginLoad_manifests, if_neg other]

/-! ## Bytes of a manifest -/

section
variable {s t u : State} {i : StreamNo} {g : Nat → Byte} {o n m : Nat}

/-- The bytes `g x` for `x` from `o` to `o + n - 1` have been stored in the manifest of stream `i` (R9). -/
structure BytesStored (i : StreamNo) (o n : Nat) (g : Nat → Byte) (s t : State) : Prop where
  header : ∃ h, t.manifests[i] = { s.manifests[i] with header := h } ∧
    ∀ x : Fin 64, h[x] = if o ≤ x.val ∧ x.val < o + n then g x else s.manifests[i].header[x]
  entry : ∀ j b, j < 64 * s.manifests[i].extents.length → b < 34 →
    entryByte t (entryIndex s.manifests[i] j) b =
      if o ≤ 64 + 34 * j + b ∧ 64 + 34 * j + b < o + n then g (64 + 34 * j + b) else entryByte s (entryIndex s.manifests[i] j) b
  count : ∀ j, j < 64 * s.manifests[i].extents.length →
    t.entryCounts.read 0 (entryIndex s.manifests[i] j) =
      s.entryCounts.read 0 (entryIndex s.manifests[i] j) + byteOf (arrivingBytes o n j)
  outside : ∀ e b, e / 64 ∉ s.manifests[i].extents → b < 34 →
    entryByte t e b = entryByte s e b ∧ t.entryCounts.read 0 e = s.entryCounts.read 0 e
  others : ∀ j, j ≠ i → t.manifests[j] = s.manifests[j]
  canonical : t.entryBytes.wf 0 = true ∧ t.entryCounts.wf 0 = true

/-- Arrivals split where the bytes do. -/
theorem countP_range_split (bs : List Nat) (a o n m : Nat) :
    bs.countP (fun b => decide (o ≤ a + b ∧ a + b < o + (n + m))) =
      bs.countP (fun b => decide (o ≤ a + b ∧ a + b < o + n)) + bs.countP (fun b => decide (o + n ≤ a + b ∧ a + b < o + n + m)) := by
  induction bs with
  | nil => rfl
  | cons b bs ih =>
    simp only [List.countP_cons, ih, decide_eq_true_eq]
    split_ifs <;> omega

theorem arrivingBytes_add (o n m j : Nat) : arrivingBytes o (n + m) j = arrivingBytes o n j + arrivingBytes (o + n) m j := by
  simp only [arrivingBytes, ← List.countP_eq_length_filter]
  exact countP_range_split _ _ o n m

theorem arrivingBytes_zero (o j : Nat) : arrivingBytes o 0 j = 0 := by
  rw [arrivingBytes, List.length_eq_zero_iff, List.filter_eq_nil_iff]
  intro b _
  rw [decide_eq_true_eq]
  omega

/-- One byte arrives in the one entry that holds its offset. -/
theorem arrivingBytes_one (o j : Nat) : arrivingBytes o 1 j = if 64 + 34 * j ≤ o ∧ o < 64 + 34 * j + 34 then 1 else 0 := by
  have only : ∀ b ∈ List.range 34, decide (o ≤ 64 + 34 * j + b ∧ 64 + 34 * j + b < o + 1) = true ↔ 64 + 34 * j + b = o := by
    intro b _
    rw [decide_eq_true_eq]
    omega
  rw [arrivingBytes, ← List.countP_eq_length_filter]
  split
  next inside =>
    have here : ∀ b ∈ List.range 34, decide (o ≤ 64 + 34 * j + b ∧ 64 + 34 * j + b < o + 1) = true ↔ (b == o - (64 + 34 * j)) = true := by
      intro b mem
      rw [only b mem, beq_iff_eq]
      omega
    rw [List.countP_congr here]
    exact List.count_eq_one_of_mem List.nodup_range (List.mem_range.mpr (by omega))
  next outside =>
    refine List.countP_eq_zero.mpr fun b mem arrives => outside ?_
    have := (only b mem).mp arrives
    have := List.mem_range.mp mem
    omega

theorem byteOf_add (a b : Nat) : byteOf (a + b) = byteOf a + byteOf b := BitVec.ofNat_add a b

/-- The table index of an entry lies in an extent of the list (R3, R9). -/
theorem entryIndex_div {r : ManifestRec} {j : Nat} (h : j < 64 * r.extents.length) : entryIndex r j / 64 ∈ r.extents := by
  have place : j / 64 < r.extents.length := by omega
  have eq : entryIndex r j / 64 = r.extents[j / 64] := by
    unfold entryIndex extentEntries
    rw [List.getD_eq_getElem _ _ place]
    omega
  exact eq ▸ List.getElem_mem place

/-- Two entries of one manifest have two indices, its extents being distinct. -/
theorem entryIndex_inj {r : ManifestRec} (distinct : r.extents.Nodup) {j k : Nat} (hj : j < 64 * r.extents.length)
    (hk : k < 64 * r.extents.length) : entryIndex r j = entryIndex r k ↔ j = k := by
  refine ⟨fun e => ?_, congrArg _⟩
  have pj : j / 64 < r.extents.length := by omega
  have pk : k / 64 < r.extents.length := by omega
  unfold entryIndex extentEntries at e
  rw [List.getD_eq_getElem _ _ pj, List.getD_eq_getElem _ _ pk] at e
  have extent : r.extents[j / 64] = r.extents[k / 64] := by omega
  have := (List.Nodup.getElem_inj_iff distinct).mp extent
  omega

theorem BytesStored.none (canonical : s.entryBytes.wf 0 = true ∧ s.entryCounts.wf 0 = true) : BytesStored i o 0 g s s where
  header := ⟨s.manifests[i].header, rfl, fun x => by rw [if_neg (by omega)]⟩
  entry j b _ _ := by rw [if_neg (by omega)]
  count j _ := by rw [arrivingBytes_zero]; exact (BitVec.add_zero _).symm
  outside e b _ _ := ⟨rfl, rfl⟩
  others j _ := rfl
  canonical := canonical

theorem BytesStored.append (h : BytesStored i o n g s t) (k : BytesStored i (o + n) m g t u) : BytesStored i o (n + m) g s u := by
  obtain ⟨h1, record1, header1⟩ := h.header
  obtain ⟨h2, record2, header2⟩ := k.header
  have index : entryIndex t.manifests[i] = entryIndex s.manifests[i] := by rw [record1]; rfl
  have extents : t.manifests[i].extents = s.manifests[i].extents := by rw [record1]
  constructor
  case header =>
    refine ⟨h2, by rw [record2, record1], fun x => ?_⟩
    rw [header2 x, record1, header1 x]
    split_ifs <;> first | rfl | omega
  case entry =>
    intro j b below small
    rw [← index, k.entry j b (by rw [extents]; exact below) small, index, h.entry j b below small]
    split_ifs <;> first | rfl | omega
  case count =>
    intro j below
    rw [← index, k.count j (by rw [extents]; exact below), index, h.count j below, arrivingBytes_add, byteOf_add, BitVec.add_assoc]
  case outside =>
    intro e b out small
    obtain ⟨byte1, count1⟩ := h.outside e b out small
    obtain ⟨byte2, count2⟩ := k.outside e b (by rw [extents]; exact out) small
    exact ⟨byte2.trans byte1, count2.trans count1⟩
  case others => exact fun j other => (k.others j other).trans (h.others j other)
  case canonical => exact k.canonical

/-- A header byte is stored (R9). -/
theorem BytesStored.headerByte (small : o < 64) (canonical : s.entryBytes.wf 0 = true ∧ s.entryCounts.wf 0 = true) :
    BytesStored i o 1 g s (storeManifestByte i o (g o) s) := by
  have stored : storeManifestByte i o (g o) s =
      s.setManifest i { s.manifests[i] with header := s.manifests[i].header.set o (g o) } := dif_pos small
  rw [stored]
  constructor
  case header =>
    refine ⟨_, by rw [manifests_set, if_pos rfl], fun x => ?_⟩
    simp only [Fin.getElem_fin, Vector.getElem_set]
    by_cases e : o = x.val
    · rw [if_pos e, if_pos (by omega), e]
    · rw [if_neg e, if_neg (by omega)]
  case entry =>
    intro j b _ _
    rw [if_neg (by omega)]
    rfl
  case count =>
    intro j _
    rw [arrivingBytes_one, if_neg (by omega)]
    exact (BitVec.add_zero _).symm
  case outside => exact fun e b _ _ => ⟨rfl, rfl⟩
  case others => exact fun j other => by rw [manifests_set, if_neg other]
  case canonical => exact canonical

/-- An entry's byte is stored, and its count rises (R9). -/
theorem BytesStored.entryByte (large : 64 ≤ o) (inside : o < 64 + 34 * (64 * s.manifests[i].extents.length))
    (distinct : s.manifests[i].extents.Nodup) (canonical : s.entryBytes.wf 0 = true ∧ s.entryCounts.wf 0 = true) :
    BytesStored i o 1 g s (storeManifestByte i o (g o) s) := by
  have below : (o - 64) / 34 < 64 * s.manifests[i].extents.length := by omega
  have stored : storeManifestByte i o (g o) s =
      s.withEntries (s.entryBytes.write 0 (entryAddress (entryIndex s.manifests[i] ((o - 64) / 34)) ((o - 64) % 34)) (g o))
        (s.entryCounts.write 0 (entryIndex s.manifests[i] ((o - 64) / 34))
          (s.entryCounts.read 0 (entryIndex s.manifests[i] ((o - 64) / 34)) + 1)) := dif_neg (Nat.not_lt.mpr large)
  obtain ⟨bytes, counts⟩ := canonical
  rw [stored]
  constructor
  case header => exact ⟨s.manifests[i].header, rfl, fun x => by rw [if_neg (by omega)]⟩
  case entry =>
    intro j b entry small
    refine (Memory.read_write bytes _ _ _).trans ?_
    by_cases e : 64 + 34 * j + b = o
    · rw [show (o - 64) / 34 = j by omega, show (o - 64) % 34 = b by omega, if_pos rfl, if_pos (by omega), e]
    · refine Eq.trans (if_neg fun same => e ?_) (if_neg (by omega)).symm
      unfold entryAddress entrySize at same
      have := (entryIndex_inj distinct entry below).mp (by omega)
      rw [this] at same
      omega
  case count =>
    intro j entry
    refine (Memory.read_write counts _ _ _).trans ?_
    rw [arrivingBytes_one]
    by_cases e : j = (o - 64) / 34
    · rw [if_pos (by rw [e]), if_pos (by omega), e]
      rfl
    · rw [if_neg fun same => e ((entryIndex_inj distinct entry below).mp same), if_neg (by omega)]
      exact (BitVec.add_zero _).symm
  case outside =>
    intro e b out small
    have other : e / 64 ≠ entryIndex s.manifests[i] ((o - 64) / 34) / 64 := fun same => out (same ▸ entryIndex_div below)
    refine ⟨(Memory.read_write bytes _ _ _).trans (if_neg fun same => other ?_),
      (Memory.read_write counts _ _ _).trans (if_neg fun same => other (by rw [same]))⟩
    unfold entryAddress entrySize at same
    omega
  case others => exact fun j _ => rfl
  case canonical => exact ⟨Memory.wf_write bytes _ _, Memory.wf_write counts _ _⟩

/-- Storing consecutive bytes, all within the declared extents. -/
theorem bytesStored_storeManifestBytes (vs : List Byte) (values : ∀ x (h : x < vs.length), vs[x] = g (o + x))
    (inside : o + vs.length ≤ 64 + 34 * (64 * s.manifests[i].extents.length)) (distinct : s.manifests[i].extents.Nodup)
    (canonical : s.entryBytes.wf 0 = true ∧ s.entryCounts.wf 0 = true) :
    BytesStored i o vs.length g s (storeManifestBytes i o vs s) := by
  induction vs generalizing o s with
  | nil => exact .none canonical
  | cons v vs ih =>
    rw [List.length_cons] at inside
    have first : v = g o := values 0 (by simp)
    have one : BytesStored i o 1 g s (storeManifestByte i o v s) := by
      rw [first]
      by_cases small : o < 64
      · exact .headerByte small canonical
      · exact .entryByte (Nat.not_lt.mp small) (by omega) distinct canonical
    have extents : (storeManifestByte i o v s).manifests[i].extents = s.manifests[i].extents := by
      obtain ⟨h, record, _⟩ := one.header
      rw [record]
    have rest := ih (o := o + 1) (s := storeManifestByte i o v s)
      (fun x below => by
        have := values (x + 1) (by rw [List.length_cons]; omega)
        rw [List.getElem_cons_succ] at this
        rw [this]
        congr 1
        omega)
      (by rw [extents]; omega) (by rw [extents]; exact distinct) one.canonical
    have both := one.append rest
    rw [Nat.add_comm 1] at both
    exact both

end

/-! ## MANIFEST_DATA -/

section
variable {s : State} {i : StreamNo} {l : Lane} {f : Frame}

theorem manifestDataReply_of_range (range : (byteAt f 5).toNat < 1 ∨ 58 < (byteAt f 5).toNat) :
    manifestDataReply f s = { status := .range, data := loadingData s, state := s } := if_pos range

section
variable (low : 1 ≤ (byteAt f 5).toNat) (high : (byteAt f 5).toNat ≤ 58)
include low high

theorem manifestDataReply_of_none (none : loadingStream s = none) :
    manifestDataReply f s = { status := .state, data := loadingData s, state := s } := by
  unfold manifestDataReply
  dsimp only
  rw [if_neg (by omega), none]

/-- The last condition of R8, and the data taken. -/
theorem manifestDataReply_of_loading {len : Nat} (found : loadingStream s = some i) (declared : s.manifests[i].declaredLength = some len) :
    manifestDataReply f s =
      if fieldAt f 2 3 ≠ s.manifests[i].received ∨ len < fieldAt f 2 3 + (byteAt f 5).toNat then
        { status := .order, data := loadingData s, state := s }
      else
        let u := takeManifestData i (fieldAt f 2 3) ((f.drop 6).take (byteAt f 5).toNat) s
        { status := .ok, data := loadingData u, state := u } := by
  unfold manifestDataReply
  dsimp only
  rw [if_neg (by omega), found]
  dsimp only
  rw [declared]
  rfl

end

theorem takeManifestData_manifests (o : Nat) (vs : List Byte) (j : StreamNo) :
    (takeManifestData i o vs s).manifests[j] =
      if j = i then { (storeManifestBytes i o vs s).manifests[i] with
        received := (storeManifestBytes i o vs s).manifests[i].received + vs.length }
      else (storeManifestBytes i o vs s).manifests[j] := by
  unfold takeManifestData
  dsimp only
  rw [manifests_set]

/-- The bytes of the request arrive in order from byte 6 (R8). -/
theorem dataBytes_getElem {n x : Nat} (h : x < ((f.drop 6).take n).length) : ((f.drop 6).take n)[x] = byteAt f (6 + x) := by
  have inside : 6 + x < f.length := by
    rw [List.length_take, List.length_drop] at h
    omega
  simp only [List.getElem_take, List.getElem_drop, byteAt, List.getD_eq_getElem?_getD, List.getElem?_eq_getElem inside, Option.getD_some]

theorem dataBytes_length {n : Nat} (judging : Judging .manifestData l f s) (count : (byteAt f 5).toNat = n) (low : 1 ≤ n) (high : n ≤ 58) :
    ((f.drop 6).take n).length = n := by
  obtain ⟨_, _, long⟩ := judging
  have enough : 6 + n ≤ f.length := by
    unfold minLength at long
    dsimp only at long
    rw [count, if_pos ⟨low, high⟩] at long
    exact long
  rw [List.length_take, List.length_drop]
  omega

end

/-- Settles O18: R8's conditions passed, and the bytes stored one after the other. -/
theorem manifestDataStoresItsBytes : Obligations.ManifestDataStoresItsBytes := by
  unfold Obligations.ManifestDataStoresItsBytes
  intro l f i len s judging canonical single law loading r n low high offset declared fits
  have found := loadingStream_eq single loading
  have length : ((f.drop 6).take n).length = n := dataBytes_length judging rfl low high
  obtain ⟨_, _, bytes, counts⟩ := canonical
  obtain ⟨lists, _⟩ := law
  obtain ⟨distinct, _, room⟩ := lists i
  rw [declared, Option.getD_some] at room
  have stored : BytesStored i r.received n (fun x => byteAt f (6 + (x - r.received))) s
      (storeManifestBytes i r.received ((f.drop 6).take n) s) := by
    have := bytesStored_storeManifestBytes (s := s) (i := i) (o := r.received) (g := fun x => byteAt f (6 + (x - r.received)))
      ((f.drop 6).take n) (fun x below => by rw [dataBytes_getElem, Nat.add_sub_cancel_left])
      (by
        have enough : len ≤ 64 + 34 * 64 * r.extents.length := room
        show r.received + _ ≤ 64 + 34 * (64 * r.extents.length)
        omega) distinct ⟨bytes, counts⟩
    rw [length] at this
    exact this
  obtain ⟨h, record, header⟩ := stored.header
  have touched := touches_takeManifestData s i r.received ((f.drop 6).take n)
  have streams : (takeManifestData i r.received ((f.drop 6).take n) s).streams = s.streams := touched .streams (by decide)
  have manifest : (takeManifestData i r.received ((f.drop 6).take n) s).manifests[i] = { r with received := r.received + n, header := h } := by
    rw [takeManifestData_manifests, if_pos rfl, record, length]
  refine ⟨takeManifestData i r.received ((f.drop 6).take n) s, ?_, ⟨h, manifest, header⟩,
    fun j b below small => ⟨stored.entry j b below small, stored.count j below⟩, stored.outside, fun j other => ⟨?_, ?_, ?_⟩, touched⟩
  · have reply := (manifestDataReply_of_loading low high found declared).trans
      (if_neg (not_or.mpr ⟨not_not.mpr offset, by rw [offset]; exact Nat.not_lt.mpr fits⟩))
    rw [offset] at reply
    have data : loadingData (takeManifestData i r.received ((f.drop 6).take n) s) = byteOf i :: beBytes 3 (r.received + n) := by
      rw [loadingData_eq (i := i) (by unfold loadingStream; rw [streams]; exact found), manifest]
    rw [← data]
    exact judgeKind_reply judging reply
  · rw [streams]
  · rw [takeManifestData_manifests, if_neg other, stored.others j other]
  · rw [touched .contexts (by decide)]

/-! ## MANIFEST_END -/

section
variable {s : State} {i : StreamNo} {f : Frame}

theorem any_isMac_iff {q : List Job} : q.any Job.isMac = true ↔ ∃ j, .mac j ∈ q := by
  rw [List.any_eq_true]
  refine ⟨fun ⟨x, member, mac⟩ => ?_, fun ⟨j, member⟩ => ⟨_, member, rfl⟩⟩
  cases x with
  | mac j => exact ⟨j, member⟩
  | block k => cases mac

theorem manifestEndReply_of_range (range : 7 < (byteAt f 2).toNat) :
    manifestEndReply f s = { status := .range, data := loadData (byteAt f 2) 0, state := s } := by
  unfold manifestEndReply
  rw [streamNoOf_none range]

section
variable (number : (byteAt f 2).toNat = i.val)
include number

/-- R11's conditions in order, for a stream number. -/
theorem manifestEndReply_of_number :
    manifestEndReply f s =
      let refuse (st : Status) : Reply := { status := st, data := loadData (byteOf i) s.manifests[i].received, state := s }
      if s.streams[i].state ≠ .loading then refuse .state
      else if s.manifests[i].received ≠ s.manifests[i].declaredLength.getD 0 then refuse .order
      else if s.engine.fifo.any Job.isMac then refuse .order
      else if s.store.keyState ≠ .installed then refuse .noKey
      else
        { status := .accepted, data := loadData (byteOf i) s.manifests[i].received
          state := beginAuthentication i ((f.drop 3).take 32) s } := by
  unfold manifestEndReply
  rw [streamNoOf_eq number]

theorem manifestEndReply_of_state (idle : s.streams[i].state ≠ .loading) :
    manifestEndReply f s = { status := .state, data := loadData (byteOf i) s.manifests[i].received, state := s } := by
  rw [manifestEndReply_of_number number]
  exact if_pos idle

variable {len : Nat} (loading : s.streams[i].state = .loading) (declared : s.manifests[i].declaredLength = some len)
include loading declared

theorem manifestEndReply_of_part (part : s.manifests[i].received ≠ len) :
    manifestEndReply f s = { status := .order, data := loadData (byteOf i) s.manifests[i].received, state := s } := by
  rw [manifestEndReply_of_number number]
  exact (if_neg (not_not.mpr loading)).trans (if_pos (by rw [declared]; exact part))

variable (whole : s.manifests[i].received = len)
include whole

/-- The conditions after the second, for a whole manifest. -/
theorem manifestEndReply_of_whole :
    manifestEndReply f s =
      let refuse (st : Status) : Reply := { status := st, data := loadData (byteOf i) s.manifests[i].received, state := s }
      if s.engine.fifo.any Job.isMac then refuse .order
      else if s.store.keyState ≠ .installed then refuse .noKey
      else
        { status := .accepted, data := loadData (byteOf i) s.manifests[i].received
          state := beginAuthentication i ((f.drop 3).take 32) s } := by
  rw [manifestEndReply_of_number number]
  exact (if_neg (not_not.mpr loading)).trans (if_neg (by rw [declared]; exact not_not.mpr whole))

theorem manifestEndReply_of_mac (mac : ∃ j, .mac j ∈ s.engine.fifo) :
    manifestEndReply f s = { status := .order, data := loadData (byteOf i) s.manifests[i].received, state := s } := by
  rw [manifestEndReply_of_whole number loading declared whole]
  exact if_pos (any_isMac_iff.mpr mac)

variable (noMac : ∀ j, .mac j ∉ s.engine.fifo)
include noMac

theorem manifestEndReply_of_noKey (noKey : s.store.keyState ≠ .installed) :
    manifestEndReply f s = { status := .noKey, data := loadData (byteOf i) s.manifests[i].received, state := s } := by
  rw [manifestEndReply_of_whole number loading declared whole]
  exact (if_neg fun mac => (any_isMac_iff.mp mac).elim noMac).trans (if_pos noKey)

theorem manifestEndReply_of_key (key : s.store.keyState = .installed) :
    manifestEndReply f s = { status := .accepted, data := loadData (byteOf i) s.manifests[i].received,
                             state := beginAuthentication i ((f.drop 3).take 32) s } := by
  rw [manifestEndReply_of_whole number loading declared whole]
  exact (if_neg fun mac => (any_isMac_iff.mp mac).elim noMac).trans (if_neg (not_not.mpr key))

end

end

/-- Settles O19: every condition of R11 passed. -/
theorem manifestEndQueuesAMacJob : Obligations.ManifestEndQueuesAMacJob := by
  unfold Obligations.ManifestEndQueuesAMacJob
  intro l f i s judging number loading declared noMac key
  exact judgeKind_reply judging (manifestEndReply_of_key number loading declared rfl noMac key)

/-- Settles O20: each request's conditions in their order. -/
theorem loadRequestsAreRefusedInOrder : Obligations.LoadRequestsAreRefusedInOrder := by
  unfold Obligations.LoadRequestsAreRefusedInOrder
  refine ⟨fun l f s judging => ?_, fun l f s judging => ?_, fun l f s judging => ?_⟩
  · refine ⟨fun range => ?_, fun i number => ⟨fun held => ?_, fun vacant others => ?_, fun vacant alone => ⟨fun odd => ?_,
      fun n low high len full => ?_⟩⟩⟩
    · exact judgeKind_reply judging (manifestBeginReply_of_range range)
    · exact judgeKind_reply judging (manifestBeginReply_of_state number held)
    · exact judgeKind_reply judging (manifestBeginReply_of_order number vacant (otherLoads_iff.mpr others))
    · exact judgeKind_reply judging (manifestBeginReply_of_length number vacant (fun h => alone (otherLoads_iff.mp h)) odd)
    · exact judgeKind_reply judging ((manifestBeginReply_of_declared number vacant (fun h => alone (otherLoads_iff.mp h)) low high len).trans
        (if_pos full))
  · refine ⟨fun range => ⟨_, judgeKind_reply judging (manifestDataReply_of_range range)⟩,
      fun low high => ⟨fun idle => ?_, fun i len single loading declared order => ?_⟩⟩
    · have none := loadingStream_eq_none idle
      rw [← loadingData_of_none none]
      exact judgeKind_reply judging (manifestDataReply_of_none low high none)
    · have found := loadingStream_eq single loading
      rw [← loadingData_eq found]
      exact judgeKind_reply judging ((manifestDataReply_of_loading low high found declared).trans (if_pos order))
  · refine ⟨fun range => ⟨_, judgeKind_reply judging (manifestEndReply_of_range range)⟩, fun i len number => ⟨fun idle => ?_,
      fun loading declared => ⟨fun part => ?_, fun whole => ⟨fun mac => ?_, fun noMac noKey => ?_⟩⟩⟩⟩
    · exact judgeKind_reply judging (manifestEndReply_of_state number idle)
    · exact judgeKind_reply judging (manifestEndReply_of_part number loading declared part)
    · exact judgeKind_reply judging (manifestEndReply_of_mac number loading declared whole mac)
    · exact judgeKind_reply judging (manifestEndReply_of_noKey number loading declared whole noMac noKey)

end Sys2Proof.Machine

/-! Stream requests, and what stopped, freed and vacant streams return (O21 to O25): R5, R25 to R44, R83, R85, R104, R124. -/

namespace Sys2Proof.Machine

section
variable {s : State} {i : StreamNo} {l : Lane} {f : Frame}

/-! ## STREAM_START -/

theorem startStream_eq (i : StreamNo) (lanes : Byte) (w : Nat) (s : State) :
    startStream i lanes w s = [Record.stream i .active none, .window i 0 w].foldl (fun u r => queueAny r u)
      (s.setStream i { s.streams[i] with
        state := .active, members := newMembers lanes (some (quietInterval s)), window := w, reservationHeld := true,
        lowEdge := 0, stallCount := 0, stallTimer := some (stallInterval s) }) := rfl

theorem startStream_streams (i j : StreamNo) (lanes : Byte) (w : Nat) (s : State) :
    (startStream i lanes w s).streams[j] = if j = i then { s.streams[i] with
        state := .active, members := newMembers lanes (some (quietInterval s)), window := w, reservationHeld := true,
        lowEdge := 0, stallCount := 0, stallTimer := some (stallInterval s) }
      else s.streams[j] := by
  rw [startStream_eq, touches_queueAll _ _ .streams (by decide), streams_set]

theorem reports_startStream (i : StreamNo) (lanes : Byte) (w : Nat) (s : State) :
    Reports [.stream i .active none, .window i 0 w] s (startStream i lanes w s) := by
  rw [startStream_eq]
  have view : ∀ x, SameReportView s (s.setStream i x) := fun x => ⟨rfl, rfl, rfl, rfl⟩
  obtain ⟨report, trunk, _, counters⟩ := (view _).queueAll [.stream i .active none, .window i 0 w]
  exact ⟨report, trunk, counters⟩

theorem touches_startStream_reports (i : StreamNo) (lanes : Byte) (w : Nat) (s : State) :
    Touches (.streams :: reportParts) s (startStream i lanes w s) := by
  rw [startStream_eq]
  exact (touches_queueAll _ _).after (touches_setStream s i _).mono

theorem stateByte_eq (number : (byteAt f 2).toNat = i.val) (s : State) : stateByte s (byteAt f 2) = s.streams[i].state.code := by
  unfold stateByte
  rw [streamNoOf_eq number]

theorem streamStartReply_of_range (range : 7 < (byteAt f 2).toNat) : ∃ data,
    streamStartReply f s = { status := .range, data := data, state := s } := by
  unfold streamStartReply
  dsimp only
  rw [streamNoOf_none range]
  exact ⟨_, rfl⟩

section
variable (number : (byteAt f 2).toNat = i.val)
include number

/-- R29's conditions in order, for a stream number. -/
theorem streamStartReply_of_number :
    streamStartReply f s =
      let refuse (st : Status) (last : Nat) : Reply :=
        { status := st, data := [byteAt f 2, s.streams[i].state.code, byteAt f 4, byteOf last], state := s }
      if s.streams[i].state ≠ .ready then refuse .state (reservedTotal s)
      else if laneBitsOk (byteAt f 3) = false then refuse .range (reservedTotal s)
      else if (byteAt f 4).toNat < 1 then refuse .range (reservedTotal s)
      else if totalSlots < reservedTotal s + windowTaken (byteAt f 4).toNat then refuse .noRoom (totalSlots - reservedTotal s)
      else
        let u := startStream i (byteAt f 3) (windowTaken (byteAt f 4).toNat) s
        { status := if 16 < (byteAt f 4).toNat then .clamped else .ok
          data := [byteAt f 2, u.streams[i].state.code, byteOf u.streams[i].window, byteOf (reservedTotal u)]
          state := u } := by
  unfold streamStartReply
  dsimp only
  rw [streamNoOf_eq number, stateByte_eq number]

theorem streamStartReply_of_state (unready : s.streams[i].state ≠ .ready) :
    streamStartReply f s = { status := .state,
                             data := [byteAt f 2, s.streams[i].state.code, byteAt f 4, byteOf (reservedTotal s)], state := s } := by
  rw [streamStartReply_of_number number]
  exact if_pos unready

variable (ready : s.streams[i].state = .ready)
include ready

theorem streamStartReply_of_lanes (none : (byteAt f 3).toNat = 0 ∨ 15 < (byteAt f 3).toNat) :
    streamStartReply f s = { status := .range,
                             data := [byteAt f 2, s.streams[i].state.code, byteAt f 4, byteOf (reservedTotal s)], state := s } := by
  rw [streamStartReply_of_number number]
  exact (if_neg (not_not.mpr ready)).trans (if_pos (laneBitsOk_of_not_range none))

variable (low : 1 ≤ (byteAt f 3).toNat) (high : (byteAt f 3).toNat ≤ 15)
include low high

theorem streamStartReply_of_noWindow (zero : (byteAt f 4).toNat = 0) :
    streamStartReply f s = { status := .range,
                             data := [byteAt f 2, s.streams[i].state.code, byteAt f 4, byteOf (reservedTotal s)], state := s } := by
  rw [streamStartReply_of_number number]
  exact (if_neg (not_not.mpr ready)).trans
    ((if_neg (by rw [laneBitsOk_of_range low high]; decide)).trans (if_pos (by omega)))

variable (window : 1 ≤ (byteAt f 4).toNat)
include window

theorem streamStartReply_of_noRoom (full : 32 < reservedTotal s + min (byteAt f 4).toNat 16) :
    streamStartReply f s = { status := .noRoom,
                             data := [byteAt f 2, s.streams[i].state.code, byteAt f 4, byteOf (32 - reservedTotal s)], state := s } := by
  rw [streamStartReply_of_number number, windowTaken_eq_min]
  exact (if_neg (not_not.mpr ready)).trans ((if_neg (by rw [laneBitsOk_of_range low high]; decide)).trans
    ((if_neg (Nat.not_lt.mpr window)).trans (if_pos full)))

theorem streamStartReply_of_room {w : Nat} (taken : w = min (byteAt f 4).toNat 16) (room : reservedTotal s + w ≤ 32) :
    streamStartReply f s =
      { status := if 16 < (byteAt f 4).toNat then .clamped else .ok
        data := [byteAt f 2, StreamState.active.code, byteOf w, byteOf (reservedTotal (startStream i (byteAt f 3) w s))]
        state := startStream i (byteAt f 3) w s } := by
  have stream := startStream_streams i i (byteAt f 3) w s
  rw [if_pos rfl] at stream
  rw [streamStartReply_of_number number, windowTaken_eq_min, ← taken]
  refine (if_neg (not_not.mpr ready)).trans ((if_neg (by rw [laneBitsOk_of_range low high]; decide)).trans
    ((if_neg (Nat.not_lt.mpr window)).trans ((if_neg (Nat.not_lt.mpr room)).trans ?_)))
  dsimp only
  rw [stream]

end

/-! ## STREAM_LANES -/

/-- A lane set read back from the member records (R25). -/
theorem laneSet_eq {x : Stream} {b : Byte} (members : ∀ m : Lane, x.members[m].isSome = b.getLsbD m) (high : b.toNat ≤ 15) :
    x.laneSet.setWidth 8 = b := by
  have small : ∀ k : Fin 16,
      (BitVec.ofNat 4 ((List.finRange 4).foldl (fun acc (l : Fin 4) => if (BitVec.ofNat 8 k.val).getLsbD l then acc + 2 ^ l.val else acc) 0)).setWidth 8 =
        BitVec.ofNat 8 k.val := by decide
  have byte : BitVec.ofNat 8 b.toNat = b := BitVec.ofNat_toNat 8 b |>.trans (BitVec.setWidth_eq b)
  have := small ⟨b.toNat, by omega⟩
  rw [byte] at this
  unfold Stream.laneSet
  simp only [members]
  exact this

theorem replaceLanes_members (lanes : Byte) (m : Lane) :
    (replaceLanes i lanes s).streams[i].members[m] = if lanes.getLsbD m then
      some (s.streams[i].members[m].getD { state := .active, timer := if quietCondition s i then some (quietInterval s) else none })
    else none := by
  unfold replaceLanes
  dsimp only
  rw [streams_set, if_pos rfl]
  simp only [Fin.getElem_fin, Vector.getElem_ofFn]

theorem streamLanesReply_of_range (range : 7 < (byteAt f 2).toNat) :
    streamLanesReply f s = { status := .range, data := [byteAt f 2, 0#8, 0#8], state := s } := by
  unfold streamLanesReply
  dsimp only
  rw [streamNoOf_none range]

section
variable (number : (byteAt f 2).toNat = i.val)
include number

/-- R32's conditions in order, for a stream number. -/
theorem streamLanesReply_of_number :
    streamLanesReply f s =
      let data (t : State) : List Byte := [byteAt f 2, t.streams[i].state.code, t.streams[i].laneSet.setWidth 8]
      if s.streams[i].state ≠ .active then { status := .state, data := data s, state := s }
      else if laneBitsOk (byteAt f 3) = false then { status := .range, data := data s, state := s }
      else
        let u := replaceLanes i (byteAt f 3) s
        { status := .ok, data := data u, state := u } := by
  unfold streamLanesReply
  dsimp only
  rw [streamNoOf_eq number]

theorem streamLanesReply_of_state (idle : s.streams[i].state ≠ .active) :
    streamLanesReply f s = { status := .state,
                             data := [byteAt f 2, s.streams[i].state.code, s.streams[i].laneSet.setWidth 8], state := s } := by
  rw [streamLanesReply_of_number number]
  exact if_pos idle

variable (active : s.streams[i].state = .active)
include active

theorem streamLanesReply_of_lanes (none : (byteAt f 3).toNat = 0 ∨ 15 < (byteAt f 3).toNat) :
    streamLanesReply f s = { status := .range,
                             data := [byteAt f 2, s.streams[i].state.code, s.streams[i].laneSet.setWidth 8], state := s } := by
  rw [streamLanesReply_of_number number]
  exact (if_neg (not_not.mpr active)).trans (if_pos (laneBitsOk_of_not_range none))

theorem streamLanesReply_of_taken (low : 1 ≤ (byteAt f 3).toNat) (high : (byteAt f 3).toNat ≤ 15) :
    streamLanesReply f s = { status := .ok, data := [byteAt f 2, StreamState.active.code, byteAt f 3],
                             state := replaceLanes i (byteAt f 3) s } := by
  have state : (replaceLanes i (byteAt f 3) s).streams[i].state = .active := by
    unfold replaceLanes
    dsimp only
    rw [streams_set, if_pos rfl]
    exact active
  have set : (replaceLanes i (byteAt f 3) s).streams[i].laneSet.setWidth 8 = byteAt f 3 :=
    laneSet_eq (fun m => by rw [replaceLanes_members]; cases (byteAt f 3).getLsbD m <;> rfl) high
  rw [streamLanesReply_of_number number]
  refine (if_neg (not_not.mpr active)).trans ((if_neg (by rw [laneBitsOk_of_range low high]; decide)).trans ?_)
  dsimp only
  rw [state, set]

end

end

/-- Settles O21: both requests past their conditions. -/
theorem streamStartAndLanesSetTheMembers : Obligations.StreamStartAndLanesSetTheMembers := by
  unfold Obligations.StreamStartAndLanesSetTheMembers
  refine ⟨fun l f i w s judging number ready low high window taken room => ?_, fun l f i s judging number active low high => ?_⟩
  · have touched := touches_startStream_reports i (byteAt f 3) w s
    refine ⟨startStream i (byteAt f 3) w s, judgeKind_reply judging (streamStartReply_of_room number ready low high window taken room),
      ?_, fun j other => ⟨?_, ?_, ?_⟩, reports_startStream i (byteAt f 3) w s, touched⟩
    · rw [startStream_streams, if_pos rfl]; rfl
    · rw [startStream_streams, if_neg other]
    · rw [touched .manifests (by decide)]
    · rw [touched .contexts (by decide)]
  · refine ⟨_, _, judgeKind_reply judging (streamLanesReply_of_taken number active low high), rfl, fun m => ⟨fun out => ?_,
      fun inside old => ?_, fun inside new => ⟨fun runs => ?_, fun stopped => ?_⟩⟩⟩
    all_goals simp only [Fin.getElem_fin, Vector.getElem_ofFn]
    · rw [show (byteAt f 3).getLsbD m.val = false from out]; rfl
    · obtain ⟨r, member⟩ := Option.isSome_iff_exists.mp old
      rw [show (byteAt f 3).getLsbD m.val = true from inside]
      simp only [Fin.getElem_fin] at member
      rw [member]; rfl
    · rw [show (byteAt f 3).getLsbD m.val = true from inside, (quietCondition_iff s i).mpr runs]
      simp only [Fin.getElem_fin] at new
      rw [new]; rfl
    · rw [show (byteAt f 3).getLsbD m.val = true from inside, Bool.eq_false_iff.mpr fun q => stopped ((quietCondition_iff s i).mp q)]
      simp only [Fin.getElem_fin] at new
      rw [new]; rfl

/-! ## Abort and close -/

section
variable {s : State} {i : StreamNo} {f : Frame} {act : StreamNo → State → Status × State}

theorem streamReply_of_range (range : 7 < (byteAt f 2).toNat) :
    streamReply f s act = { status := .range, data := [byteAt f 2, 0#8], state := s } := by
  unfold streamReply
  dsimp only
  rw [streamNoOf_none range]

/-- The reply of a request on stream `i` is what the request does to it. -/
theorem streamReply_of_act (number : (byteAt f 2).toNat = i.val) {st : Status} {u : State} {x : StreamState} (h : act i s = (st, u))
    (state : u.streams[i].state = x) : streamReply f s act = { status := st, data := [byteAt f 2, x.code], state := u } := by
  unfold streamReply
  dsimp only
  rw [streamNoOf_eq number]
  dsimp only
  rw [h, state]

theorem enterVacant_state (i : StreamNo) (c : Cause) (s : State) : (enterVacant i c s).streams[i].state = .vacant := by
  unfold enterVacant
  rw [queueRecord_streams]
  dsimp only [State.setCtx_streams]
  rw [streams_set, if_pos rfl]
  rfl

theorem returnReservation_state (i j : StreamNo) (s : State) : (returnReservation i s).streams[j].state = s.streams[j].state := by
  unfold returnReservation
  dsimp only
  split
  · rw [streams_set]
    split
    next e => rw [e]
    next => rfl
  · rfl

theorem enterAborting_state (i : StreamNo) (c : Cause) (s : State) : (enterAborting i c s).streams[i].state = .aborting := by
  unfold enterAborting
  rw [returnReservation_state, streams_set, if_pos rfl]

theorem releaseStream_of_idle (c : Cause) (idle : inFlight (stopStream i s) i = false) :
    releaseStream i c s = (.ok, enterVacant i c (stopStream i s)) := if_neg (by rw [idle]; decide)

theorem releaseStream_of_busy (c : Cause) (busy : inFlight (stopStream i s) i = true) :
    releaseStream i c s = (.accepted, enterAborting i c (stopStream i s)) := if_pos busy

theorem abortStream_of_started (h : s.streams[i].state = .active ∨ s.streams[i].state = .committing ∨ s.streams[i].state = .ending ∨
    s.streams[i].state = .done ∨ s.streams[i].state = .faulted) : abortStream i s = releaseStream i .aborted s := by
  unfold abortStream
  rcases h with h | h | h | h | h <;> rw [h]

theorem abortStream_of_unstarted (h : s.streams[i].state = .loading ∨ s.streams[i].state = .ready) :
    abortStream i s = (.ok, enterVacant i .aborted s) := by
  unfold abortStream
  rcases h with h | h <;> rw [h]

theorem abortStream_of_authenticating (h : s.streams[i].state = .authenticating) :
    abortStream i s = (.accepted, enterAborting i .aborted s) := by unfold abortStream; rw [h]

theorem abortStream_of_aborting (h : s.streams[i].state = .aborting) : abortStream i s = (.accepted, s) := by unfold abortStream; rw [h]

theorem abortStream_of_vacant (h : s.streams[i].state = .vacant) : abortStream i s = (.state, s) := by unfold abortStream; rw [h]

theorem closeStream_of_ended (h : s.streams[i].state = .done ∨ s.streams[i].state = .faulted) :
    closeStream i s = releaseStream i .closed s := by
  unfold closeStream
  rcases h with h | h <;> rw [h]

theorem closeStream_of_not_ended (done : s.streams[i].state ≠ .done) (faulted : s.streams[i].state ≠ .faulted) :
    closeStream i s = (.state, s) := by
  unfold closeStream
  cases h : s.streams[i].state
  case done => exact absurd h done
  case faulted => exact absurd h faulted
  all_goals rfl

end

/-- Settles O22: each request's refusals by number, state and conditions. -/
theorem streamRequestsAreRefused : Obligations.StreamRequestsAreRefused := by
  unfold Obligations.StreamRequestsAreRefused
  intro l f s
  refine ⟨fun range => ⟨fun judging => ?_, fun judging => ⟨_, judgeKind_reply judging (streamLanesReply_of_range range)⟩,
      fun judging => ⟨_, judgeKind_reply judging (streamReply_of_range range)⟩,
      fun judging => ⟨_, judgeKind_reply judging (streamReply_of_range range)⟩⟩,
    fun i number => ⟨fun judging => ⟨fun unready => ?_, fun ready => ⟨fun lanes => ?_, fun low high => ⟨fun zero => ?_, fun window full => ?_⟩⟩⟩,
      fun judging => ⟨fun idle => ?_, fun active lanes => ?_⟩, fun judging vacant => ?_, fun judging done faulted => ?_⟩⟩
  · obtain ⟨data, reply⟩ := streamStartReply_of_range (s := s) range
    exact ⟨data, judgeKind_reply judging reply⟩
  · exact ⟨_, judgeKind_reply judging (streamStartReply_of_state number unready)⟩
  · exact ⟨_, judgeKind_reply judging (streamStartReply_of_lanes number ready lanes)⟩
  · exact ⟨_, judgeKind_reply judging (streamStartReply_of_noWindow number ready low high zero)⟩
  · exact judgeKind_reply judging (streamStartReply_of_noRoom number ready low high window full)
  · exact ⟨_, judgeKind_reply judging (streamLanesReply_of_state number idle)⟩
  · exact ⟨_, judgeKind_reply judging (streamLanesReply_of_lanes number active lanes)⟩
  · exact judgeKind_reply judging (streamReply_of_act number (abortStream_of_vacant vacant) rfl)
  · exact judgeKind_reply judging (streamReply_of_act number (closeStream_of_not_ended done faulted) rfl)

/-- Settles O23: the outcomes by the stream's state. -/
theorem abortAndCloseReleaseTheStream : Obligations.AbortAndCloseReleaseTheStream := by
  unfold Obligations.AbortAndCloseReleaseTheStream
  intro l f i s number
  refine ⟨fun judging => ⟨fun unstarted => ?_, fun authenticating => ?_, fun started => ⟨fun idle => ?_, fun busy => ?_⟩, fun aborting => ?_⟩,
    fun judging ended => ⟨fun idle => ?_, fun busy => ?_⟩⟩
  · exact judgeKind_reply judging (streamReply_of_act number (abortStream_of_unstarted unstarted) (enterVacant_state i _ _))
  · exact judgeKind_reply judging (streamReply_of_act number (abortStream_of_authenticating authenticating) (enterAborting_state i _ _))
  · exact judgeKind_reply judging (streamReply_of_act number ((abortStream_of_started started).trans (releaseStream_of_idle _ idle))
      (enterVacant_state i _ _))
  · exact judgeKind_reply judging (streamReply_of_act number ((abortStream_of_started started).trans (releaseStream_of_busy _ busy))
      (enterAborting_state i _ _))
  · exact judgeKind_reply judging (streamReply_of_act number (abortStream_of_aborting aborting) aborting)
  · exact judgeKind_reply judging (streamReply_of_act number ((closeStream_of_ended ended).trans (releaseStream_of_idle _ idle))
      (enterVacant_state i _ _))
  · exact judgeKind_reply judging (streamReply_of_act number ((closeStream_of_ended ended).trans (releaseStream_of_busy _ busy))
      (enterAborting_state i _ _))

/-! ## What a stop leaves -/

section
variable {s : State} {i : StreamNo}

theorem inFlight_iff (s : State) (i : StreamNo) : inFlight s i = true ↔ .mac i ∈ s.engine.fifo ∨
    (∃ k h, Job.block k ∈ s.engine.fifo ∧ s.slots[k].holder = some h ∧ h.stream = i) ∨
    (∃ f, (∃ p : Port, s.ports[p].position = some f) ∧ f.stream = i ∧ f.answered = false) ∨ .commit i ∈ s.store.ops := by
  unfold inFlight
  rw [Bool.or_eq_true, Bool.or_eq_true, jobInFlight_iff, frameInFlight_iff, commitInFlight_iff, or_assoc, or_assoc]

/-- A frame in flight depends on the ports alone. -/
theorem frameInFlight_congr {t : State} (ports : t.ports = s.ports) : frameInFlight t i = frameInFlight s i := by
  unfold frameInFlight
  rw [ports]

/-- What stopping the release makes of the stream's descriptor (R124). -/
theorem stopRelease_streams (i : StreamNo) (s : State) (j : StreamNo) :
    (stopRelease i s).streams[j] =
      if j = i then { s.streams[i] with stage := if frameInFlight s i = true then s.streams[i].stage else none } else s.streams[j] := by
  unfold stopRelease
  dsimp only
  by_cases sends : frameInFlight s i = true
  · rw [if_pos sends, if_pos sends]
    split
    next e => rw [e]; rfl
    next => rfl
  · rw [if_neg sends, if_neg sends, streams_set]
    rfl

theorem stopStream_streams (i : StreamNo) (s : State) (j : StreamNo) :
    (stopStream i s).streams[j] =
      if j = i then { s.streams[i].timersStopped with stage := if frameInFlight s i = true then s.streams[i].stage else none }
      else s.streams[j] := by
  unfold stopStream
  dsimp only
  rw [touches_freeIdleSlots _ i .streams (by decide), stopRelease_streams, streams_set, if_pos rfl, streams_set,
    frameInFlight_congr (s := s) rfl]
  split <;> rfl

theorem stopRelease_contexts (i : StreamNo) (s : State) (j : StreamNo) :
    (stopRelease i s).contexts[j] =
      if j = i then { s.contexts[i] with ackTimer := none, resendHeld := false, startHeld := false } else s.contexts[j] := by
  have set := contexts_set s i { s.contexts[i] with ackTimer := none, resendHeld := false, startHeld := false } j
  unfold stopRelease
  dsimp only
  split
  · exact set
  · exact set

theorem stopStream_contexts (i : StreamNo) (s : State) (j : StreamNo) :
    (stopStream i s).contexts[j] =
      if j = i then { s.contexts[i] with ackTimer := none, resendHeld := false, startHeld := false } else s.contexts[j] := by
  unfold stopStream
  dsimp only
  rw [touches_freeIdleSlots _ i .contexts (by decide), stopRelease_contexts]
  rfl

theorem stopStream_slots (i : StreamNo) (s : State) (k : SlotNo) :
    (stopStream i s).slots[k] = if s.slots[k].heldBy i && !slotBusy s k then Slot.free else s.slots[k] := by
  have kept : Touches [.contexts, .streams] s (stopRelease i (s.setStream i s.streams[i].timersStopped)) :=
    (touches_stopRelease _ i).after (touches_setStream s i _).mono
  unfold stopStream
  dsimp only
  rw [freeIdleSlots_get, slotBusy_congr (kept .engine (by decide)) (kept .ports (by decide)) (kept .slots (by decide)),
    kept .slots (by decide)]

/-- The slots a stop frees: held for the stream, without work in flight (R41, R85). -/
theorem stopFrees_iff (s : State) (i : StreamNo) (k : SlotNo) : (s.slots[k].heldBy i && !slotBusy s k) = true ↔
    ∃ h, s.slots[k].holder = some h ∧ h.stream = i ∧ Job.block k ∉ s.engine.fifo ∧ blockInTransmission s h.stream h.block = false := by
  unfold Slot.heldBy slotBusy
  cases holder : s.slots[k].holder with
  | none => simp
  | some h => simp

/-! ## Freed slots and vacant streams -/

theorem freeSlot_of_holder {k : SlotNo} {h : Holder} (holder : s.slots[k].holder = some h) :
    freeSlot k s = returnReservation h.stream (s.setSlot k Slot.free) := by
  unfold freeSlot
  rw [holder]

/-- The condition under which a reservation is returned (R31, R83). -/
theorem returnsReservation_iff (s : State) (i : StreamNo) :
    (s.streams[i].reservationHeld && s.streams[i].state != .ready && s.streams[i].state != .active && slotsHeld s i == 0) = true ↔
      s.streams[i].reservationHeld = true ∧ s.streams[i].state ≠ .ready ∧ s.streams[i].state ≠ .active ∧
        ∀ (k : SlotNo) (h : Holder), s.slots[k].holder = some h → h.stream ≠ i := by
  rw [← slotsHeld_eq_zero_iff]
  simp only [Bool.and_eq_true, bne_iff_ne, beq_iff_eq, and_assoc]

/-- The state a stream enters VACANT in, before its record (R5, R25, R27, R104). -/
def vacated (i : StreamNo) (s : State) : State := ((releaseExtents i s).setStream i Stream.vacant).setCtx i ReleaseCtx.idle

theorem enterVacant_eq (i : StreamNo) (c : Cause) (s : State) : enterVacant i c s = queueRecord (.stream i .vacant (some c)) (vacated i s) := rfl

theorem touches_vacated (i : StreamNo) (s : State) : Touches [.manifests, .entries, .streams, .contexts] s (vacated i s) :=
  (touches_setCtx _ i _).after ((touches_setStream _ i _).after (touches_releaseExtents s i).mono)

theorem vacated_manifests (i j : StreamNo) (s : State) :
    (vacated i s).manifests[j] = if j = i then ManifestRec.empty else s.manifests[j] := by
  show ((s.withEntries _ _).setManifest i ManifestRec.empty).manifests[j] = _
  rw [manifests_set]
  rfl

theorem vacated_streams (i j : StreamNo) (s : State) : (vacated i s).streams[j] = if j = i then Stream.vacant else s.streams[j] := by
  show ((releaseExtents i s).setStream i Stream.vacant).streams[j] = _
  rw [streams_set, touches_releaseExtents s i .streams (by decide)]

theorem vacated_contexts (i j : StreamNo) (s : State) : (vacated i s).contexts[j] = if j = i then ReleaseCtx.idle else s.contexts[j] := by
  unfold vacated
  rw [contexts_set, State.setStream_contexts, touches_releaseExtents s i .contexts (by decide)]

theorem extentsCleared_vacated (canonical : MemoriesCanonical s) (i : StreamNo) : ExtentsCleared s.manifests[i].extents s (vacated i s) := by
  obtain ⟨_, _, bytes, counts⟩ := canonical
  intro e b below
  have byte := (read_clearedEntries s.manifests[i].extents s.entryBytes bytes).2 e b below
  have count := (read_clearedCounts s.manifests[i].extents s.entryCounts counts).2 e
  exact ⟨fun inside => ⟨byte.trans (if_pos inside), count.trans (if_pos inside)⟩,
    fun outside => ⟨byte.trans (if_neg outside), count.trans (if_neg outside)⟩⟩

theorem otherStreamsSame_vacated (i : StreamNo) (s : State) : OtherStreamsSame i s (vacated i s) := fun j other =>
  ⟨by rw [vacated_streams, if_neg other], by rw [vacated_manifests, if_neg other], by rw [vacated_contexts, if_neg other]⟩

end

/-- Settles O24: what is in flight, and what a stop makes of the descriptor, the context and the slots. -/
theorem stoppedStreamsKeepOnlyWorkInFlight : Obligations.StoppedStreamsKeepOnlyWorkInFlight := by
  unfold Obligations.StoppedStreamsKeepOnlyWorkInFlight
  refine ⟨fun i s => ⟨frameInFlight_iff s i, blockInTransmission_iff s i, inFlight_iff s i⟩,
    fun i c s => ⟨⟨s.streams[i].timersStopped.members, ?_, fun m => ?_⟩, ?_, fun k => ⟨fun idle => ?_, fun busy => ?_⟩,
      fun j other => ⟨?_, ?_, ?_⟩, touches_stopStream s i, rfl, rfl⟩⟩
  · rw [stopStream_streams, if_pos rfl]; rfl
  · simp [Stream.timersStopped, Stream.quietStopped]
  · rw [stopStream_contexts, if_pos rfl]
  · rw [stopStream_slots, if_pos ((stopFrees_iff s i k).mpr idle)]
  · rw [stopStream_slots, if_neg fun frees => busy ((stopFrees_iff s i k).mp frees)]
  · rw [stopStream_streams, if_neg other]
  · rw [touches_stopStream s i .manifests (by decide)]
  · rw [stopStream_contexts, if_neg other]

/-- Settles O25: the freeing of a slot, the return of a reservation, the entry to VACANT and the resolution of an abort. -/
theorem freedSlotsAndVacantStreamsReturnWhatTheyHeld : Obligations.FreedSlotsAndVacantStreamsReturnWhatTheyHeld := by
  unfold Obligations.FreedSlotsAndVacantStreamsReturnWhatTheyHeld
  refine ⟨⟨fun k h s => freeSlot_of_holder, fun i s => ⟨fun due => ?_, fun kept => ?_⟩⟩,
    fun i c s canonical => ⟨vacated i s, enterVacant_eq i c s, ?_, ?_, ?_, otherStreamsSame_vacated i s,
      extentsCleared_vacated canonical i, touches_vacated i s⟩,
    fun i s => ⟨fun c aborting cause idle => ?_, fun not => ?_⟩⟩
  · exact if_pos ((returnsReservation_iff s i).mpr due)
  · exact if_neg fun returns => kept ((returnsReservation_iff s i).mp returns)
  · rw [vacated_manifests, if_pos rfl]; rfl
  · rw [vacated_streams, if_pos rfl]; rfl
  · rw [vacated_contexts, if_pos rfl]; rfl
  · refine (if_pos ⟨aborting, idle⟩).trans ?_
    rw [cause]
    rfl
  · refine if_neg fun ⟨aborting, idle⟩ => ?_
    obtain other | busy := not
    · exact other aborting
    · rw [idle] at busy; cases busy

end Sys2Proof.Machine

/-! Parameters, table reads, and the frames no request stands behind (O29, O30, O33, O35): R152, R155 to R162. -/

namespace Sys2Proof.Machine

section
variable {s : State} {f : Frame} {n v w : Nat} {k : ParamKind} {p : Params}

/-! ## PARAM_WRITE -/

/-- A value stored reads back as stored (R155, R156). -/
theorem paramValue_storeParam (kind : paramKind n = some k) (inRange : paramInRange k v = some w) :
    paramValue (storeParam p n w) n = w := by
  have identifier (hk : k = .identifier) : w % 2 ^ 11 = w := by
    subst hk; simp only [paramInRange] at inRange; split at inRange <;> cases inRange; omega
  have lanes {b : Bool} (hk : k = .laneSet b) : w % 2 ^ 4 = w := by
    subst hk; simp only [paramInRange] at inRange; split at inRange <;> cases inRange; omega
  have lane (hk : k = .lane) : w % 4 = w := by
    subst hk; simp only [paramInRange] at inRange; split at inRange <;> cases inRange; omega
  unfold paramKind at kind
  split at kind <;> cases kind
  case h_1 | h_2 | h_3 => exact identifier rfl
  case h_4 | h_5 => exact lanes rfl
  case h_6 => exact lane rfl
  all_goals rfl

/-- Numbers do not conflict (R158). -/
theorem paramConflicts_of_number {a b : Nat} (kind : paramKind n = some (.number a b)) : paramConflicts p n w = false := by
  obtain ⟨low, _⟩ := paramKind_number kind
  unfold paramConflicts
  split
  all_goals first | rfl | omega

/-- A write past the range and the conflict test is stored (R156). -/
theorem paramWriteReply_of_stored (number : (byteAt f 2).toNat = n) (kind : paramKind n = some k)
    (inRange : paramInRange k (fieldAt f 3 2) = some w) (fits : paramConflicts s.params n w = false) :
    paramWriteReply f s = {
      status := if w = fieldAt f 3 2 then .ok else .clamped
      data := byteAt f 2 :: beBytes 2 w
      state := afterParam n (s.withParams (storeParam s.params n w)) } := by
  unfold paramWriteReply paramData
  dsimp only
  rw [number, kind]
  dsimp only
  rw [inRange]
  dsimp only
  rw [fits, paramValue_storeParam kind inRange]
  rfl

theorem paramWriteReply_of_unknown (number : (byteAt f 2).toNat = n) (kind : paramKind n = none) :
    paramWriteReply f s = { status := .range, data := byteAt f 2 :: beBytes 2 (paramValue s.params n), state := s } := by
  unfold paramWriteReply paramData
  dsimp only
  rw [number, kind]

theorem paramWriteReply_of_range (number : (byteAt f 2).toNat = n) (kind : paramKind n = some k)
    (outOfRange : paramInRange k (fieldAt f 3 2) = none) :
    paramWriteReply f s = { status := .range, data := byteAt f 2 :: beBytes 2 (paramValue s.params n), state := s } := by
  unfold paramWriteReply paramData
  dsimp only
  rw [number, kind]
  dsimp only
  rw [outOfRange]

theorem paramWriteReply_of_conflict (number : (byteAt f 2).toNat = n) (kind : paramKind n = some k)
    (inRange : paramInRange k (fieldAt f 3 2) = some w) (conflict : paramConflicts s.params n w = true) :
    paramWriteReply f s = { status := .conflict, data := byteAt f 2 :: beBytes 2 (paramValue s.params n), state := s } := by
  unfold paramWriteReply paramData
  dsimp only
  rw [number, kind]
  dsimp only
  rw [inRange]
  dsimp only
  rw [conflict]
  rfl

/-- The range test by kind (R156). -/
theorem paramInRange_identifier (small : v ≤ 0x7FF) : paramInRange .identifier v = some v := if_neg (Nat.not_lt.mpr small)

theorem paramInRange_identifier_none (large : 0x7FF < v) : paramInRange .identifier v = none := if_pos large

theorem paramInRange_laneSet {b : Bool} (small : v ≤ 15) (empty : v = 0 → b = true) : paramInRange (.laneSet b) v = some v := by
  refine if_neg ?_
  rintro (large | ⟨zero, not⟩)
  · omega
  · rw [empty zero] at not; cases not

theorem paramInRange_laneSet_none {b : Bool} (large : 15 < v) : paramInRange (.laneSet b) v = none := if_pos (.inl large)

theorem paramInRange_lane (small : v ≤ 3) : paramInRange .lane v = some v := if_neg (Nat.not_lt.mpr small)

theorem paramInRange_lane_none (large : 3 < v) : paramInRange .lane v = none := if_pos large

/-- The conflict test by number (R158). -/
theorem identifiers_conflict {a b : Nat} : (v == a || v == b) = true ↔ v = a ∨ v = b := by
  rw [Bool.or_eq_true, beq_iff_eq, beq_iff_eq]

theorem identifiers_fit {a b : Nat} (ha : v ≠ a) (hb : v ≠ b) : (v == a || v == b) = false :=
  Bool.eq_false_iff.mpr fun c => (identifiers_conflict.mp c).elim ha hb

end

/-- Settles O29: a number clamped to its range, and each other kind in range without a conflict. -/
theorem paramWritesAreStored : Obligations.ParamWritesAreStored := by
  unfold Obligations.ParamWritesAreStored
  refine ⟨⟨rfl, rfl, rfl, rfl, rfl, rfl, rfl, rfl, rfl, rfl, rfl, rfl, rfl⟩, fun l f lowest highest v s judging kind clamped => ?_,
    fun l f s judging => ⟨fun number small ctl rsp => ?_, fun number small seg rsp => ?_, fun number small seg ctl => ?_,
      fun number small enabled => ?_, fun number low small => ?_, fun lane number value enabled => ?_⟩,
    fun p v => ⟨rfl, rfl, rfl, rfl, rfl, rfl, rfl, rfl, rfl, rfl, rfl, rfl, rfl, fun n s low => ?_⟩⟩
  · exact judgeKind_reply judging (paramWriteReply_of_stored rfl kind (congrArg some clamped.symm) (paramConflicts_of_number kind))
  · have reply := paramWriteReply_of_stored (s := s) (n := 0) (congrArg BitVec.toNat number) rfl (paramInRange_identifier small) (identifiers_fit ctl rsp)
    rw [if_pos rfl] at reply
    exact judgeKind_reply judging reply
  · have reply := paramWriteReply_of_stored (s := s) (n := 1) (congrArg BitVec.toNat number) rfl (paramInRange_identifier small) (identifiers_fit seg rsp)
    rw [if_pos rfl] at reply
    exact judgeKind_reply judging reply
  · have reply := paramWriteReply_of_stored (s := s) (n := 2) (congrArg BitVec.toNat number) rfl (paramInRange_identifier small) (identifiers_fit seg ctl)
    rw [if_pos rfl] at reply
    exact judgeKind_reply judging reply
  · have reply := paramWriteReply_of_stored (s := s) (n := 3) (congrArg BitVec.toNat number) rfl (paramInRange_laneSet small fun _ => rfl)
      (congrArg not enabled)
    rw [if_pos rfl] at reply
    exact judgeKind_reply judging reply
  · have reply := paramWriteReply_of_stored (s := s) (n := 4) (congrArg BitVec.toNat number) rfl (paramInRange_laneSet small (by omega)) rfl
    rw [if_pos rfl] at reply
    exact judgeKind_reply judging reply
  · have reply := paramWriteReply_of_stored (s := s) (n := 5) (congrArg BitVec.toNat number) rfl
      (paramInRange_lane (v := fieldAt f 3 2) (by omega)) (by rw [value]; exact congrArg not enabled)
    have stored : storeParam s.params 5 (fieldAt f 3 2) = { s.params with reportLane := lane } := by
      rw [value]
      exact congrArg (fun r => { s.params with reportLane := r }) (Fin.ext (a := Fin.ofNat 4 lane.val) (Nat.mod_eq_of_lt lane.isLt))
    rw [if_pos rfl, stored] at reply
    exact judgeKind_reply judging reply
  · unfold afterParam
    split
    next => omega
    next => rfl
    next _ other => rw [if_neg other]

/-- Settles O30: the range test by kind, and the conflict test by number. -/
theorem paramWritesAreRefused : Obligations.ParamWritesAreRefused := by
  unfold Obligations.ParamWritesAreRefused
  intro l f s judging n v p refused
  have range {k : ParamKind} (kind : paramKind n = some k) (out : paramInRange k v = none) : refused .range :=
    judgeKind_reply judging (paramWriteReply_of_range rfl kind out)
  have conflict {k : ParamKind} (kind : paramKind n = some k) (inRange : paramInRange k v = some v) (c : paramConflicts p n v = true) :
      refused .conflict := judgeKind_reply judging (paramWriteReply_of_conflict rfl kind inRange c)
  have ident {x : Ident} (h : v = x.toNat) : v ≤ 0x7FF := by have := x.isLt; omega
  have idents {x y : Ident} (h : v = x.toNat ∨ v = y.toNat) : v ≤ 0x7FF := h.elim ident ident
  refine ⟨fun above => ?_, fun small large => ?_, fun sets large => ?_, fun four zero => ?_, fun five large => ?_,
    fun zero same => ?_, fun one same => ?_, fun two same => ?_, fun three small off => ?_, fun five lane value off => ?_⟩
  · have unknown : paramKind n = none := by
      obtain ⟨k, number⟩ : ∃ k, n = k + 19 := Nat.exists_eq_add_of_le' above
      rw [number]
      rfl
    exact ⟨_, judgeKind_reply judging (paramWriteReply_of_unknown rfl unknown)⟩
  · have kind : paramKind n = some .identifier := by
      obtain e | e | e : n = 0 ∨ n = 1 ∨ n = 2 := by omega
      all_goals rw [e]; rfl
    exact range kind (paramInRange_identifier_none large)
  · obtain three | four := sets
    · exact range (congrArg paramKind three) (paramInRange_laneSet_none large)
    · exact range (congrArg paramKind four) (paramInRange_laneSet_none large)
  · exact range (congrArg paramKind four) (if_pos (.inr ⟨zero, rfl⟩))
  · exact range (congrArg paramKind five) (paramInRange_lane_none large)
  · exact conflict (congrArg paramKind zero) (paramInRange_identifier (idents same)) (by rw [zero]; exact identifiers_conflict.mpr same)
  · exact conflict (congrArg paramKind one) (paramInRange_identifier (idents same)) (by rw [one]; exact identifiers_conflict.mpr same)
  · exact conflict (congrArg paramKind two) (paramInRange_identifier (idents same)) (by rw [two]; exact identifiers_conflict.mpr same)
  · exact conflict (congrArg paramKind three) (paramInRange_laneSet small fun _ => rfl) (by rw [three]; exact congrArg not off)
  · exact conflict (congrArg paramKind five) (paramInRange_lane (by omega)) (by rw [five, value]; exact congrArg not off)

/-! ## TABLE_READ -/

section
variable {s : State} {l : Lane} {f : Frame} {m : ReadMode}

/-- A table read of sufficient length is answered by its reply, under any row whose mode it may name (R162). -/
theorem judgeTableRead_reply (judging : Judging .tableRead l f s) (mode : readModeOf (byteAt f 2) = some m ∨ readModeOf (byteAt f 2) = none)
    {st : Status} {data : List Byte} {u : State} (reply : tableReadReply f s = { status := st, data := data, state := u }) :
    judgeTableRead m l f s = .next (answered l f st data u) := by
  obtain ⟨held, request, long⟩ := judging
  have table : isTableRead m f = true := by
    unfold isTableRead
    rw [request, Bool.true_and]
    split
    next => rw [Bool.or_eq_true, beq_iff_eq, beq_iff_eq]; exact mode
    next => rfl
  unfold judgeTableRead judgeRequest
  rw [if_pos ⟨held, table⟩, if_neg (Nat.not_lt.mpr long), reply]
  rfl

theorem tableReadReply_of_row {row c : Nat} (mode : readModeOf (byteAt f 2) = some m)
    (target : readTarget m f s.interp.cursor (tableSize s.interp.table) = some (row, c)) :
    tableReadReply f s = { status := .ok, data := byteOf s.interp.table :: beBytes 2 row ++ tableRow s s.interp.table row,
                           state := s.withInterp { s.interp with cursor := c } } := by
  unfold tableReadReply
  dsimp only
  rw [mode]
  dsimp only
  rw [target]

theorem tableReadReply_of_none (mode : readModeOf (byteAt f 2) = some m)
    (target : readTarget m f s.interp.cursor (tableSize s.interp.table) = none) :
    tableReadReply f s = { status := .range, data := cursorData s, state := s } := by
  unfold tableReadReply
  dsimp only
  rw [mode]
  dsimp only
  rw [target]

theorem tableReadReply_of_noMode (mode : readModeOf (byteAt f 2) = none) :
    tableReadReply f s = { status := .range, data := cursorData s, state := s } := by
  unfold tableReadReply
  dsimp only
  rw [mode]

/-- A read of a row, and a refused one, under the row of the frame's own mode. -/
theorem judgeTableRead_row (judging : Judging .tableRead l f s) {row c : Nat} (mode : readModeOf (byteAt f 2) = some m)
    (target : readTarget m f s.interp.cursor (tableSize s.interp.table) = some (row, c)) :
    judgeTableRead m l f s = .next (answered l f .ok (byteOf s.interp.table :: beBytes 2 row ++ tableRow s s.interp.table row)
      (s.withInterp { s.interp with cursor := c })) :=
  judgeTableRead_reply judging (.inl mode) (tableReadReply_of_row mode target)

theorem judgeTableRead_none (judging : Judging .tableRead l f s) (mode : readModeOf (byteAt f 2) = some m)
    (target : readTarget m f s.interp.cursor (tableSize s.interp.table) = none) :
    judgeTableRead m l f s = .next (answered l f .range (cursorData s) s) :=
  judgeTableRead_reply judging (.inl mode) (tableReadReply_of_none mode target)

end

/-- Settles O33: the row each mode reads, mode by mode. -/
theorem tableReadsFollowTheirMode : Obligations.TableReadsFollowTheirMode := by
  unfold Obligations.TableReadsFollowTheirMode
  intro l f s judging
  refine ⟨fun mode => ⟨fun inside => ?_, fun outside => ?_⟩, fun mode => ⟨fun inside => ?_, fun outside => ?_⟩,
    fun mode => ⟨fun inside => ?_, fun outside => ?_⟩, fun mode => ⟨fun inside => ?_, fun outside => ?_⟩,
    fun mode => ⟨fun row place inside => ?_, fun outside => ?_⟩, fun above c hc => ?_⟩
  · exact judgeTableRead_row judging (by rw [mode]; rfl) (if_neg (Nat.not_le.mpr inside))
  · exact judgeTableRead_none judging (by rw [mode]; rfl) (if_pos outside)
  · exact judgeTableRead_row judging (by rw [mode]; rfl) (if_neg inside)
  · exact judgeTableRead_none judging (by rw [mode]; rfl) (if_pos outside)
  · exact judgeTableRead_row judging (by rw [mode]; rfl) (if_neg inside)
  · exact judgeTableRead_none judging (by rw [mode]; rfl) (if_pos outside)
  · exact judgeTableRead_row judging (by rw [mode]; rfl) (if_neg (Nat.not_le.mpr inside))
  · exact judgeTableRead_none judging (by rw [mode]; rfl) (if_pos outside)
  · refine judgeTableRead_row judging (m := .offset) (by rw [mode]; rfl) ?_
    unfold readTarget signedByte
    dsimp only
    rw [← place, if_neg (by omega), Int.toNat_natCast]
  · exact judgeTableRead_none judging (m := .offset) (by rw [mode]; rfl) (if_pos outside)
  · have none : readModeOf (byteAt f 2) = none := readModeOf_eq_none_iff.mpr above
    simp only [List.mem_cons, List.not_mem_nil, or_false] at hc
    rcases hc with rfl | rfl | rfl | rfl | rfl
    all_goals exact judgeTableRead_reply judging (.inr none) (tableReadReply_of_noMode none)

/-! ## Malformed and unknown frames -/

section
variable {s : State} {l : Lane} {f : Frame}

/-- A frame below its row's minimum length (R152, step 4). -/
theorem judgeRequest_short {held : Bool} {n : Nat} (judging : s.interp.judging = some ⟨l, f⟩) (row : held = true) (brief : f.length < n)
    (o : Reply) : judgeRequest l f held n s o = .next (answered l f .malformed [] s) :=
  (if_pos ⟨judging, row⟩).trans (if_pos brief)

theorem judgeKind_short {k : RequestKind} (judging : s.interp.judging = some ⟨l, f⟩) (two : 2 ≤ f.length) (code : byteAt f 0 = k.code)
    (brief : f.length < minLength k f) (o : Reply) : judgeKind k l f s o = .next (answered l f .malformed [] s) := by
  refine judgeRequest_short judging ?_ brief o
  rw [isRequest, code, beq_self_eq_true, Bool.and_true]
  exact decide_eq_true two

theorem judgeTableRead_short {m : ReadMode} (judging : s.interp.judging = some ⟨l, f⟩) (two : 2 ≤ f.length) (code : byteAt f 0 = 0x54#8)
    (mode : 3 ≤ f.length → readModeOf (byteAt f 2) = some m) (brief : f.length < minLength .tableRead f) :
    judgeTableRead m l f s = .next (answered l f .malformed [] s) := by
  refine judgeRequest_short judging ?_ brief _
  have request : isRequest .tableRead f = true := by
    rw [isRequest, code, show RequestKind.tableRead.code = 0x54#8 from rfl, beq_self_eq_true, Bool.and_true]
    exact decide_eq_true two
  unfold isTableRead
  rw [request, Bool.true_and]
  split
  next long => rw [mode long, beq_self_eq_true, Bool.true_or]
  next => rfl

theorem minLength_manifestData (f : Frame) : 6 ≤ minLength .manifestData f := by
  unfold minLength
  dsimp only
  split <;> omega

theorem minLength_tableRead (f : Frame) : 3 ≤ minLength .tableRead f := by
  unfold minLength
  dsimp only
  split_ifs <;> omega

end

/-- Settles O35: row by row, the frame being below the row's minimum length. -/
theorem malformedAndUnknownFramesAreAnswered : Obligations.MalformedAndUnknownFramesAreAnswered := by
  unfold Obligations.MalformedAndUnknownFramesAreAnswered
  intro l f s judging
  have short (two : 2 ≤ f.length) (k : RequestKind) (code : byteAt f 0 = k.code) (brief : f.length < minLength k f) (o : Reply) :
      judgeKind k l f s o = .next (answered l f .malformed [] s) := judgeKind_short judging two code brief o
  refine ⟨fun brief => judgeRequest_short judging (decide_eq_true brief) brief _, fun two unnamed => ?_,
    fun two => ⟨fun c b => short two .manifestBegin c b _,
      fun c b => short two .manifestData c (Nat.lt_of_lt_of_le b (minLength_manifestData f)) _, fun c low small b => ?_,
      fun c b => short two .manifestEnd c b _, fun c b => short two .streamStart c b _, fun c b => short two .streamLanes c b _,
      fun c b => short two .streamAbort c b _, fun c b => short two .streamClose c b _, fun c b => short two .keyInstall c b _,
      fun c b => short two .paramWrite c b _, fun c b => short two .paramRead c b _, fun c b => short two .tableSelect c b _,
      fun c b => short two .cursorSet c b _, fun code brief c hc => ?_, fun code mode _ brief => ?_, fun code mode brief => ?_⟩⟩
  · have held : (decide (2 ≤ f.length) && (requestOfCode (byteAt f 0)).isNone) = true := by
      rw [requestOfCode_eq_none_iff.mpr unnamed, decide_eq_true two]
      rfl
    exact (if_pos ⟨judging, held⟩).trans (if_neg (Nat.not_lt.mpr two))
  · refine short two .manifestData c ?_ _
    unfold minLength
    dsimp only
    rw [if_pos (by omega)]
    exact b
  · have short := fun m => judgeTableRead_short (m := m) judging two code (by omega) (Nat.lt_of_lt_of_le brief (minLength_tableRead f))
    simp only [List.mem_cons, List.not_mem_nil, or_false] at hc
    rcases hc with rfl | rfl | rfl | rfl | rfl
    all_goals exact short _
  · refine judgeTableRead_short judging two code (fun _ => by rw [mode]; rfl) ?_
    unfold minLength
    dsimp only
    rw [mode]
    exact brief
  · refine judgeTableRead_short judging two code (fun _ => by rw [mode]; rfl) ?_
    unfold minLength
    dsimp only
    rw [mode, brief]
    decide

end Sys2Proof.Machine

/-! The digest engine and acceptance (O36 to O39): R1, R12 to R22, R89 to R103. -/

namespace Sys2Proof.Machine

section
variable {s : State}

/-! ## The head of the FIFO -/

theorem judgeHead_of_still (h : s.engine.busy = true ∨ s.engine.fifo = []) : judgeHead s = s := by
  unfold judgeHead
  cases length : s.engine.fifo.length with
  | zero => rfl
  | succ n =>
    unfold judgeHeads
    obtain busy | empty := h
    · exact if_pos busy
    · rw [empty] at length; cases length

/-- A discarded job leaves the heads behind it to be judged (R91). -/
theorem judgeHeads_of_rest {rest : List Job} (fifo : s.engine.fifo = rest) : judgeHeads rest.length s = judgeHead s := by
  rw [judgeHead, fifo]

/-- The head job of an ABORTING stream is discarded, any other starts (R91). -/
theorem judgeHead_of_job {j : Job} {rest : List Job} {i : StreamNo} (idle : s.engine.busy = false) (fifo : s.engine.fifo = j :: rest)
    (stream : jobStream s j = some i) :
    judgeHead s = if s.streams[i].state = .aborting then judgeHead (discardJob j i (s.withEngine { s.engine with fifo := rest }))
      else startJob j s := by
  have engine : (discardJob j i (s.withEngine { s.engine with fifo := rest })).engine.fifo = rest := by
    cases j with
    | block k => rw [discardJob, freeEndedSlot, resolveAbort_engine, freeSlot_engine]; rfl
    | mac i => rw [discardJob, resolveAbort_engine]; rfl
  rw [judgeHead_cons idle fifo, stream]
  dsimp only
  rw [judgeHeads_of_rest engine]

end

/-- Settles O36: a still engine, and the head of an idle one by its stream. -/
theorem theIdleEngineJudgesTheHead : Obligations.TheIdleEngineJudgesTheHead := by
  unfold Obligations.TheIdleEngineJudgesTheHead
  refine ⟨fun j s => rfl, fun s => ⟨judgeHead_of_still, fun rest idle => ⟨fun k h fifo holder => ?_, fun i fifo => ?_⟩⟩⟩
  · have head := judgeHead_of_job idle fifo (i := h.stream) (by rw [jobStream, holder]; rfl)
    exact ⟨fun runs => head.trans (if_neg runs), fun aborting => head.trans (if_pos aborting)⟩
  · have head := judgeHead_of_job idle fifo (i := i) rfl
    exact ⟨fun runs => head.trans (if_neg runs), fun aborting => head.trans (if_pos aborting)⟩

/-! ## Block jobs -/

section
variable {s : State} {k : SlotNo} {h : Holder} {m : Accepted}

/-- The 34 bytes of an entry, by its index (R9). -/
theorem entryBytesOf_eq (s : State) (i : StreamNo) (j : Nat) :
    entryBytesOf s i j = (List.range 34).map fun a => entryByte s (entryIndex s.manifests[i] j) a := rfl

theorem entryIndex_eq {r : ManifestRec} {j e : Nat} (extent : r.extents[j / 64]? = some e) : entryIndex r j = 64 * e + j % 64 := by
  unfold entryIndex extentEntries
  rw [List.getD_eq_getElem?_getD, extent, Option.getD_some, Nat.mul_comm]

theorem slotBytes_eq (s : State) (k : SlotNo) (n : Nat) :
    slotBytes s k n = (List.range n).map fun a => s.staging.read 0 (k.val * 3584 + a) := by
  unfold slotBytes Memory.readAll stagingAddress
  rw [Nat.add_zero]
  rfl

theorem digestOf_eq {i : StreamNo} {b e : Nat} (extent : s.manifests[i].extents[b / 64]? = some e) :
    digestOf s i b = (List.range 32).map fun a => entryByte s (64 * e + b % 64) a := by
  rw [digestOf, entryBytesOf_eq, entryIndex_eq extent, ← List.map_take, List.take_range]
  rfl

/-- A completed job's outcome, by the owner's state (R95, R96, R97). -/
theorem blockOutcome_of_active (holder : s.slots[k].holder = some h) (active : s.streams[h.stream].state = .active)
    (man : s.streams[h.stream].manifest = some m) :
    blockOutcome k s = if blockMatches s k h m then blockMatch k h s else blockMismatch k h m s := by
  unfold blockOutcome
  rw [holder]
  dsimp only
  rw [active, man]

theorem blockOutcome_of_stopped (holder : s.slots[k].holder = some h)
    (stopped : s.streams[h.stream].state = .faulted ∨ s.streams[h.stream].state = .aborting) :
    blockOutcome k s = resolveAbort h.stream (freeSlot k s) := by
  unfold blockOutcome
  rw [holder]
  dsimp only
  rcases stopped with e | e <;> rw [e] <;> rfl

end

/-- Settles O37: the bytes a job reads, and its outcome by the owner's state. -/
theorem blockJobsVerifyTheirBlock : Obligations.BlockJobsVerifyTheirBlock := by
  unfold Obligations.BlockJobsVerifyTheirBlock
  refine ⟨fun k n s => slotBytes_eq s k n, fun i b e s extent => digestOf_eq extent, fun k h m rest s busy fifo holder =>
    ⟨fun active man same => ?_, fun stopped => ?_⟩⟩
  · rw [execBlockJobDone_next busy fifo, blockOutcome_of_active (s := s.withEngine { fifo := rest, busy := false }) holder active man]
    exact congrArg (fun u => Host.Outcome.next (judgeHead u)) (if_pos (beq_iff_eq.mpr same))
  · rw [execBlockJobDone_next busy fifo, blockOutcome_of_stopped (s := s.withEngine { fifo := rest, busy := false }) holder stopped]

section
variable {s : State}

theorem State.setStream_self (s : State) (i : StreamNo) : s.setStream i s.streams[i] = s := by
  simp only [State.setStream, Fin.getElem_fin, Vector.set_getElem_self]

/-- The members after a slot has been cleared: quiet timers that did not run start for every ACTIVE one (R33). -/
def clearedMembers (s : State) (i : StreamNo) : Vector (Option Member) 4 :=
  if quietCondition s i then s.streams[i].members else (s.streams[i].quietStarted (s.params.quietTime * 10)).members

/-- Clearing a slot for a refetch (R81, R98). -/
theorem clearSlot_eq (k : SlotNo) (h : Holder) (n : Nat) (s : State) :
    clearSlot k h n s = queueRecord (.refetch h.stream h.block n)
      ((s.setSlot k { s.slots[k] with state := .filling, filled := 0, byteCount := 0, failCount := n }).setStream
        h.stream { s.streams[h.stream] with members := clearedMembers s h.stream }) := by
  unfold clearSlot clearedMembers
  dsimp only
  by_cases runs : quietCondition s h.stream = true
  · rw [if_pos runs, if_pos runs]
    exact congrArg _ (State.setStream_self (s.setSlot k _) h.stream).symm
  · rw [if_neg runs, if_neg runs]
    rfl

end

/-- Settles O38: the mismatch within the limit and beyond it. -/
theorem digestMismatchesClearOrFault : Obligations.DigestMismatchesClearOrFault := by
  unfold Obligations.DigestMismatchesClearOrFault
  intro k h m rest s busy fifo holder active man differ n u
  have outcome : exec .blockJobDone s = .next (judgeHead (if n ≤ m.blockRetryLimit then clearSlot k h n u else enterFaulted h.stream .digest u)) := by
    rw [execBlockJobDone_next busy fifo, blockOutcome_of_active (s := s.withEngine { fifo := rest, busy := false }) holder active man]
    exact congrArg (fun u => Host.Outcome.next (judgeHead u)) (if_neg fun same => differ (beq_iff_eq.mp same))
  refine ⟨fun beyond => ?_, fun within => ⟨clearedMembers s h.stream, ?_, fun runs => ?_, fun stopped l => ?_⟩⟩
  · rw [outcome, if_neg (Nat.not_le.mpr beyond)]
  · rw [outcome, if_pos within, clearSlot_eq]
    rfl
  · exact if_pos ((quietCondition_iff s h.stream).mpr runs)
  · rw [clearedMembers, if_neg fun q => stopped ((quietCondition_iff s h.stream).mp q)]
    simp [Stream.quietStarted]

/-! ## Headers and accepted manifests -/

section

/-- Dividing upward: the last part is not empty and not more than whole (R20). -/
theorem ceilDiv_bounds {a b t : Nat} (positive : 1 ≤ b) (parts : (a + b - 1) / b = t) (some : 1 ≤ t) : (t - 1) * b < a ∧ a ≤ t * b := by
  have low : t * b ≤ a + b - 1 := parts ▸ Nat.div_mul_le_self _ _
  have high : a + b - 1 < (t + 1) * b := (Nat.div_lt_iff_lt_mul positive).mp (by omega)
  obtain ⟨r, rfl⟩ : ∃ r, t = r + 1 := ⟨t - 1, by omega⟩
  rw [Nat.add_sub_cancel]
  rw [Nat.add_mul] at low high ⊢
  rw [Nat.add_mul] at high
  omega

/-- A fixed-width number read from a header and stored in that width is unchanged (R1). -/
theorem toNat_ofNat_fieldAt (bs : List Byte) (a n w : Nat) (width : 256 ^ n ≤ 2 ^ w) : (BitVec.ofNat w (fieldAt bs a n)).toNat = fieldAt bs a n :=
  BitVec.toNat_ofNat .. |>.trans (Nat.mod_eq_of_lt (Nat.lt_of_lt_of_le (fieldAt_lt bs a n) width))

/-- The quantities of R20 are in their ranges: segments of a whole image, blocks of its segments. -/
theorem partition_bounds {len unit per t n : Nat} (unit8 : 8 ≤ unit) (per1 : 1 ≤ per) (segments : (len + unit - 1) / unit = t)
    (blocks : (t + per - 1) / per = n) (some : 1 ≤ n) :
    (1 ≤ t) ∧ ((t - 1) * unit + (len - (t - 1) * unit) = len ∧ 1 ≤ len - (t - 1) * unit ∧ len - (t - 1) * unit ≤ unit) ∧
      ((n - 1) * per + (t - (n - 1) * per) = t ∧ 1 ≤ t - (n - 1) * per ∧ t - (n - 1) * per ≤ per) ∧
      ((n - 1) * (per * unit) + (len - (n - 1) * (per * unit)) = len ∧ 1 ≤ len - (n - 1) * (per * unit) ∧
        len - (n - 1) * (per * unit) ≤ per * unit) := by
  obtain ⟨blockLow, blockHigh⟩ := ceilDiv_bounds per1 blocks some
  have t1 : 1 ≤ t := by omega
  obtain ⟨low, high⟩ := ceilDiv_bounds (by omega) segments t1
  have before : (n - 1) * (per * unit) ≤ (t - 1) * unit := by
    rw [← Nat.mul_assoc]
    exact Nat.mul_le_mul_right unit (by omega)
  have after : len ≤ (n - 1) * (per * unit) + per * unit := by
    obtain ⟨r, rfl⟩ : ∃ r, n = r + 1 := ⟨n - 1, by omega⟩
    calc len ≤ t * unit := high
      _ ≤ (r + 1) * per * unit := Nat.mul_le_mul_right unit blockHigh
      _ = r * (per * unit) + per * unit := by rw [Nat.mul_assoc, Nat.add_mul, Nat.one_mul]
  have step : t * unit = (t - 1) * unit + unit := by
    obtain ⟨r, rfl⟩ : ∃ r, t = r + 1 := ⟨t - 1, by omega⟩
    rw [Nat.add_mul, Nat.one_mul]
    rfl
  have blockStep : n * per = (n - 1) * per + per := by
    obtain ⟨r, rfl⟩ : ∃ r, n = r + 1 := ⟨n - 1, by omega⟩
    rw [Nat.add_mul, Nat.one_mul]
    rfl
  omega

/-- The header's fields, by the layout of section 11.4 (R1). -/
theorem readHeader_fields {bs : List Byte} (length : bs.length = 64) :
    let h := readHeader bs
    h.format = (byteAt bs 0).toNat ∧ h.target = fieldAt bs 1 2 ∧ h.port = (byteAt bs 3).toNat ∧ h.releaseId = fieldAt bs 4 2 ∧
      h.ackId = fieldAt bs 6 2 ∧ h.version = fieldAt bs 8 4 ∧ h.newFloor = fieldAt bs 12 4 ∧ h.imageLength = fieldAt bs 16 4 ∧
      h.segmentUnit = (byteAt bs 20).toNat ∧ h.perBlock = (byteAt bs 21).toNat ∧ h.blockCount = fieldAt bs 22 2 ∧
      h.releaseRetryLimit = (byteAt bs 24).toNat ∧ h.blockRetryLimit = (byteAt bs 25).toNat ∧ h.flags = byteAt bs 26 ∧
      h.imageTag = (bs.drop 27).take 16 ∧ h.reserved = bs.drop 43 :=
  ⟨fieldAt_one bs 0, rfl, fieldAt_one bs 3, rfl, rfl, rfl, rfl, rfl, fieldAt_one bs 20, fieldAt_one bs 21, rfl, fieldAt_one bs 24,
    fieldAt_one bs 25, rfl, rfl, List.take_of_length_le (by rw [List.length_drop, length])⟩

/-- The bytes of a flattened list of equally long pieces. -/
theorem byteAt_flatMap {g : Nat → List Byte} {c : Nat} (length : ∀ j, (g j).length = c) (n j b : Nat) (piece : j < n) (inside : b < c) :
    byteAt ((List.range n).flatMap g) (c * j + b) = byteAt (g j) b := by
  have total : ∀ n, ((List.range n).flatMap g).length = c * n := fun n => by
    rw [List.length_flatMap, List.map_congr_left fun j _ => length j]
    simp [Nat.mul_comm]
  induction n with
  | zero => omega
  | succ n ih =>
    rw [List.range_succ, List.flatMap_append, List.flatMap_singleton]
    by_cases last : j = n
    · subst last
      rw [byteAt, List.getD_append_right _ _ _ _ (by rw [total]; omega), total, Nat.add_sub_cancel_left]
      rfl
    · have early : j < n := by omega
      have below : c * j + b < c * n := by
        have := Nat.mul_le_mul_left c (show j + 1 ≤ n from early)
        rw [Nat.mul_add, Nat.mul_one] at this
        omega
      rw [byteAt, List.getD_append _ _ _ _ (by rw [total]; exact below)]
      exact ih early

variable {s : State} {i : StreamNo}

theorem entryBytesOf_length (s : State) (i : StreamNo) (j : Nat) : (entryBytesOf s i j).length = 34 := by
  rw [entryBytesOf_eq, List.length_map, List.length_range]

theorem byteAt_entryBytesOf {j b : Nat} (small : b < 34) : byteAt (entryBytesOf s i j) b = entryByte s (entryIndex s.manifests[i] j) b := by
  rw [entryBytesOf_eq, byteAt, List.getD_eq_getElem?_getD, List.getElem?_map, List.getElem?_range small]
  rfl

/-- The manifest bytes: the header, then each entry (R12). -/
theorem manifestBytes_eq {n : Nat} (declared : s.manifests[i].declaredBlocks = some n) :
    manifestBytes s i = s.manifests[i].header.toList ++ (List.range n).flatMap fun j => entryBytesOf s i j := by
  unfold manifestBytes
  dsimp only
  rw [declared]
  rfl

theorem manifestBytes_length {n : Nat} (declared : s.manifests[i].declaredBlocks = some n) : (manifestBytes s i).length = 64 + 34 * n := by
  rw [manifestBytes_eq declared, List.length_append, Vector.length_toList, List.length_flatMap,
    List.map_congr_left fun j _ => entryBytesOf_length s i j]
  simp [Nat.mul_comm]

theorem byteAt_manifestBytes_header {n : Nat} (declared : s.manifests[i].declaredBlocks = some n) (b : Fin 64) :
    byteAt (manifestBytes s i) b = s.manifests[i].header[b] := by
  have inside : b.val < s.manifests[i].header.toList.length := by rw [Vector.length_toList]; exact b.isLt
  rw [manifestBytes_eq declared, byteAt, List.getD_append _ _ _ _ inside, List.getD_eq_getElem _ _ inside]
  exact Vector.getElem_toList ..

theorem byteAt_manifestBytes_entry {n j b : Nat} (declared : s.manifests[i].declaredBlocks = some n) (entry : j < n) (small : b < 34) :
    byteAt (manifestBytes s i) (64 + 34 * j + b) = entryByte s (entryIndex s.manifests[i] j) b := by
  have header : s.manifests[i].header.toList.length = 64 := Vector.length_toList
  rw [manifestBytes_eq declared, byteAt, List.getD_append_right _ _ _ _ (by omega), header,
    show 64 + 34 * j + b - 64 = 34 * j + b by omega]
  exact (byteAt_flatMap (entryBytesOf_length s i) n j b entry small).trans (byteAt_entryBytesOf small)

/-! ## MAC jobs -/

theorem macOutcome_of_aborting (aborting : s.streams[i].state = .aborting) : macOutcome i s = resolveAbort i s := by
  unfold macOutcome
  rw [aborting]

theorem macOutcome_of_authenticating (authenticating : s.streams[i].state = .authenticating) :
    macOutcome i s = if macMatches s i then judgeAcceptance i s else enterVacant i .authFail s := by
  unfold macOutcome
  rw [authenticating]

theorem macMatches_iff (s : State) (i : StreamNo) :
    macMatches s i = true ↔ s.manifests[i].expectedMac = some (hmacSha256 (deviceKey s.nvm) (manifestBytes s i)) := beq_iff_eq

/-- The comparison does not read the engine. -/
theorem macMatches_withEngine (s : State) (e : Engine) (i : StreamNo) : macMatches (s.withEngine e) i = macMatches s i := rfl

theorem judgeAcceptance_of_failure {c : Cause} (failure : acceptanceFailure s i (readHeader s.manifests[i].header.toList) = some c) :
    judgeAcceptance i s = enterVacant i c s := by
  unfold judgeAcceptance
  dsimp only
  rw [failure]

theorem judgeAcceptance_of_none (accepted : acceptanceFailure s i (readHeader s.manifests[i].header.toList) = none) :
    judgeAcceptance i s = acceptManifest i (readHeader s.manifests[i].header.toList).accepted s := by
  unfold judgeAcceptance
  dsimp only
  rw [accepted]

/-- The acceptance checks do not read the engine. -/
theorem acceptanceFailure_withEngine (s : State) (e : Engine) (i : StreamNo) (h : HeaderFields) :
    acceptanceFailure (s.withEngine e) i h = acceptanceFailure s i h := rfl

end

/-- Settles O39: the header's fields and quantities, the bytes the MAC covers, and the job's outcome by the stream's state. -/
theorem macJobsAuthenticate : Obligations.MacJobsAuthenticate := by
  unfold Obligations.MacJobsAuthenticate
  refine ⟨fun bs n length => ⟨readHeader_fields length, fun low _ consistent => ?_⟩, fun m b k => ⟨fun early => ?_, fun last => ?_, fun early => ?_,
      fun last => ?_⟩, fun m => rfl, fun i n s declared => ⟨manifestBytes_length declared, byteAt_manifestBytes_header declared,
      fun j b e entry small extent => ?_⟩, fun i rest s busy fifo => ⟨fun authenticating => ⟨fun differ => ?_, fun same =>
      ⟨fun c failure => ?_, fun accepted => ?_⟩⟩, fun aborting => ?_⟩⟩
  · obtain ⟨format, count, _, ⟨unitLow, unitHigh⟩, ⟨perLow, perHigh⟩, segments, blocks, port, release, ack, _, _, _, _, _, _⟩ := consistent
    rw [count] at blocks
    obtain ⟨one, lastSegment, lastBlock, lastBytes⟩ := partition_bounds unitLow perLow rfl rfl (blocks.symm ▸ low)
    have blockCount : (readHeader bs).accepted.blockCount = n := blocks
    refine ⟨?_, toNat_ofNat_fieldAt bs 1 2 16 (by decide), Nat.mod_eq_of_lt (by omega), Nat.mod_eq_of_lt (by omega), Nat.mod_eq_of_lt (by omega),
      toNat_ofNat_fieldAt bs 8 4 32 (by decide), toNat_ofNat_fieldAt bs 12 4 32 (by decide), rfl, rfl, rfl, blockCount.trans count.symm, rfl, rfl, rfl,
      rfl, rfl, ⟨blockCount, one, segments, rfl, rfl⟩, ⟨rfl, ?_, ?_⟩, lastSegment, lastBlock, lastBytes⟩
    · exact Nat.mod_eq_of_lt (by omega)
    · exact Nat.mul_le_mul perLow unitLow
    · exact Nat.mul_le_mul perHigh unitHigh
  · exact ⟨if_neg (by omega), if_neg (by omega)⟩
  · exact ⟨if_pos last, if_pos last⟩
  · exact if_neg (by omega)
  · exact if_pos last
  · rw [byteAt_manifestBytes_entry declared entry small, entryIndex_eq extent]
  all_goals rw [execMacJobDone_next busy fifo]
  · rw [macOutcome_of_authenticating (s := s.withEngine { fifo := rest, busy := false }) authenticating, macMatches_withEngine,
      if_neg fun matching => differ ((macMatches_iff _ i).mp matching)]
  · rw [macOutcome_of_authenticating (s := s.withEngine { fifo := rest, busy := false }) authenticating, macMatches_withEngine,
      if_pos ((macMatches_iff _ i).mpr same), judgeAcceptance_of_failure ((acceptanceFailure_withEngine s { fifo := rest, busy := false } i _).trans failure)]
  · rw [macOutcome_of_authenticating (s := s.withEngine { fifo := rest, busy := false }) authenticating, macMatches_withEngine,
      if_pos ((macMatches_iff _ i).mpr same), judgeAcceptance_of_none ((acceptanceFailure_withEngine s { fifo := rest, busy := false } i _).trans accepted)]
    rfl
  · rw [macOutcome_of_aborting (s := s.withEngine { fifo := rest, busy := false }) aborting]

end Sys2Proof.Machine

/-! Release to branch ports (O41, O42): R106 to R111, R117, R122. -/

namespace Sys2Proof.Machine

section
variable {s : State} {p : Port} {i : StreamNo} {m : Accepted}

/-! ## The arbiter -/

theorem servePort_of_still (h : s.ports[p].position.isSome = true ∨ ∀ i, ¬ FrameReady s p i) : servePort p s = s := by
  unfold servePort
  split
  next => rfl
  next empty =>
    obtain taken | idle := h
    · exact absurd taken empty
    · have found : (arbiterOrder s.ports[p].pointer).find? (frameReady s p) = none :=
        List.find?_eq_none.mpr fun i _ ready => idle i ((frameReady_iff s p i).mp ready)
      rw [found]

/-- The first ready stream after the pointer is served (R109). -/
theorem servePort_of_ready {d : StreamNo} (empty : s.ports[p].position = none) (place : i = s.ports[p].pointer + 1 + d)
    (ready : FrameReady s p i) (before : ∀ e, e < d → ¬ FrameReady s p (s.ports[p].pointer + 1 + e)) :
    servePort p s = handFrame i p s := by
  subst place
  have found : (arbiterOrder s.ports[p].pointer).find? (frameReady s p) = some (s.ports[p].pointer + 1 + d) :=
    arbiterOrder_find _ _ d ((frameReady_iff s p _).mpr ready) fun e earlier =>
      Bool.eq_false_iff.mpr fun other => before e earlier ((frameReady_iff s p _).mp other)
  unfold servePort
  rw [empty, found]
  rfl

theorem serveStreamPort_of_manifest (man : s.streams[i].manifest = some m) : serveStreamPort i s = servePort m.port s := by
  unfold serveStreamPort
  rw [man]

/-! ## Handing a frame over -/

theorem handFrame_of_ending {g : Stage} (man : s.streams[i].manifest = some m) (stage : s.streams[i].stage = some g)
    (ending : s.streams[i].state = .ending) : handFrame i p s = handEndFrame i p m s := by
  unfold handFrame
  rw [man, stage]
  exact if_pos ending

theorem handFrame_of_block {g : Stage} {k : SlotNo} (man : s.streams[i].manifest = some m) (stage : s.streams[i].stage = some g)
    (active : s.streams[i].state = .active) (slot : slotOf s i g.block = some k) : handFrame i p s = handBlockFrame i p m k g.block s := by
  unfold handFrame
  rw [man, stage]
  dsimp only
  rw [if_neg (by rw [active]; decide), slot]

/-- A block's frame count is its bytes over 60, upward (R108). -/
theorem frameCount_eq (n : Nat) : frameCount n = (n + 59) / 60 := rfl

/-- The transmit position of port `p` with frame `j` of block `b` in it (R110). -/
def blockSent (s : State) (i : StreamNo) (m : Accepted) (k : SlotNo) (b j : Nat) (last : Bool) : BranchPort :=
  { position := some { stream := i, block := b, number := j, isLast := last, ident := m.releaseId, data := blockFrame s m k b j, answered := false }
    pointer := i }

/-- Frame `j` of a block, below the last and at the last (R110). -/
theorem handBlockFrame_below {k : SlotNo} {b j : Nat} (next : s.slots[k].nextFrame = some j) (below : j + 1 ≠ (m.blockBytes b + 59) / 60) :
    handBlockFrame i p m k b s =
      (s.setPort p (blockSent s i m k b j false)).setSlot k { s.slots[k] with nextFrame := some (j + 1) } := by
  have last : (j + 1 == frameCount (m.blockBytes b)) = false := beq_eq_false_iff_ne.mpr below
  unfold handBlockFrame
  dsimp only
  rw [next, Option.getD_some, last]
  rfl

theorem handBlockFrame_last {k : SlotNo} {b j : Nat} (next : s.slots[k].nextFrame = some j) (atLast : j + 1 = (m.blockBytes b + 59) / 60) :
    handBlockFrame i p m k b s =
      ((s.setPort p (blockSent s i m k b j true)).setSlot k { s.slots[k] with state := .awaiting, nextFrame := none }).setStream i
        { s.streams[i] with stage := some ⟨.awaiting, b⟩ } := by
  have last : (j + 1 == frameCount (m.blockBytes b)) = true := beq_iff_eq.mpr atLast
  unfold handBlockFrame
  dsimp only
  rw [next, Option.getD_some, last]
  rfl

/-- A release frame's bytes: header and up to 60 bytes of the slot's region, LAST set in the last (R107, R108, section 11.3). -/
theorem blockFrame_eq (s : State) (m : Accepted) (k : SlotNo) (b j : Nat) {flags : Byte} (last : Bool)
    (isLast : (j + 1 == (m.blockBytes b + 59) / 60) = last) (flag : flags = if last then 0x01#8 else 0x00#8) :
    blockFrame s m k b j = padFrame (beBytes 2 b ++ [flags, byteOf j] ++
      (List.range (min 60 (m.blockBytes b - 60 * j))).map fun x => s.staging.read 0 (k.val * 3584 + 60 * j + x)) := by
  unfold blockFrame
  dsimp only
  rw [frameCount_eq, isLast, ← flag]
  rfl

/-- The start of a release, by R106's conditions (R107). -/
theorem startRelease_of_due {k : SlotNo} (due : ReleaseDue s i k) :
    startRelease i s = (s.setSlot k { s.slots[k] with state := .sending, nextFrame := some 0 }).setStream i
      { s.streams[i] with stage := some ⟨.sending, s.streams[i].lowEdge⟩ } := by
  unfold startRelease
  rw [(releaseDue_eq_some_iff s i k).mpr due]

theorem startRelease_of_none (none : ∀ k, ¬ ReleaseDue s i k) : startRelease i s = s := by
  unfold startRelease
  split
  next k due => exact absurd ((releaseDue_eq_some_iff s i k).mp due) (none k)
  next => rfl

end

/-- Settles O41: the arbiter's choice, the frame it hands over, and the start of a release. -/
theorem releasesStartAndFramesAreHandedOver : Obligations.ReleasesStartAndFramesAreHandedOver := by
  unfold Obligations.ReleasesStartAndFramesAreHandedOver
  refine ⟨fun p s => ⟨servePort_of_still, fun d i m b empty place ready before man stage => ⟨fun ending => ?_,
    fun active k j slot next => ⟨fun below => ?_, fun atLast => ?_⟩⟩⟩, fun i m s man => ⟨fun k due => ?_, fun none => ?_⟩⟩
  · rw [servePort_of_ready empty place ready before, handFrame_of_ending man stage ending]
    rfl
  · rw [servePort_of_ready empty place ready before, handFrame_of_block man stage active slot, handBlockFrame_below next below,
      blockSent, blockFrame_eq s m k b j false (beq_eq_false_iff_ne.mpr below) rfl]
    rfl
  · rw [servePort_of_ready empty place ready before, handFrame_of_block man stage active slot, handBlockFrame_last next atLast,
      blockSent, blockFrame_eq s m k b j true (beq_iff_eq.mpr atLast) rfl]
    rfl
  · rw [tryRelease, startRelease_of_due due]
    exact serveStreamPort_of_manifest (by rw [streams_set, if_pos rfl]; exact man)
  · rw [tryRelease, startRelease_of_none none, serveStreamPort_of_manifest man]

/-! ## The end of a transmission -/

section
variable {s : State} {f : TxPosition}

theorem frameEnded_of_answered (answered : f.answered = true) : frameEnded f s = s := if_pos answered

/-- The end of a frame of a stopped stream (R86, R111). -/
theorem frameEnded_of_stopped (unanswered : f.answered = false)
    (stopped : s.streams[f.stream].state = .faulted ∨ s.streams[f.stream].state = .aborting) :
    frameEnded f s =
      let v := freeKeptSlot f.stream f.block s
      resolveAbort f.stream (v.setStream f.stream { v.streams[f.stream] with stage := none }) :=
  (if_neg (by rw [unanswered]; decide)).trans (if_pos stopped)

/-- The end of a frame of any other stream: the acknowledgement timer starts when it is due (R111, R117). -/
theorem frameEnded_of_running (unanswered : f.answered = false)
    (running : ¬ (s.streams[f.stream].state = .faulted ∨ s.streams[f.stream].state = .aborting)) :
    frameEnded f s = if startsAckTimer s f then
        s.setCtx f.stream { s.contexts[f.stream] with ackTimer := some (ackInterval s (intervalAtEnd s f.stream f.block)) }
      else s :=
  (if_neg (by rw [unanswered]; decide)).trans (if_neg running)

theorem startsAckTimer_iff (s : State) (f : TxPosition) : startsAckTimer s f = true ↔
    f.isLast = true ∧ (s.streams[f.stream].state = .active ∨ s.streams[f.stream].state = .ending) ∧
      s.streams[f.stream].stage = some ⟨.awaiting, f.block⟩ ∧ s.contexts[f.stream].resendHeld = false ∧
      s.contexts[f.stream].startHeld = false := by
  unfold startsAckTimer
  simp only [Bool.and_eq_true, Bool.or_eq_true, beq_iff_eq, Bool.not_eq_true', and_assoc]

theorem running_of_awaiting {x : StreamState} (h : x = .active ∨ x = .ending) : ¬ (x = .faulted ∨ x = .aborting) := by
  obtain rfl | rfl := h <;> decide

theorem intervalAtEnd_long {i : StreamNo} {b : Nat}
    (long : s.contexts[i].ackTimer.isSome = true ∨ s.streams[i].state = .ending ∨ longOf s i b = true) : intervalAtEnd s i b = .long := by
  refine if_pos ?_
  rwa [Bool.or_eq_true, Bool.or_eq_true, beq_iff_eq, or_assoc]

theorem intervalAtEnd_short {i : StreamNo} {b : Nat}
    (short : ¬ (s.contexts[i].ackTimer.isSome = true ∨ s.streams[i].state = .ending ∨ longOf s i b = true)) :
    intervalAtEnd s i b = .short := by
  refine if_neg ?_
  rwa [Bool.or_eq_true, Bool.or_eq_true, beq_iff_eq, or_assoc]

theorem inRelease_iff_sends {x : SlotState} : x.inRelease = true ↔ x = .sending ∨ x = .awaiting := by
  rw [SlotState.inRelease, Bool.or_eq_true, beq_iff_eq, beq_iff_eq]

theorem freeKeptSlot_of_slot {i : StreamNo} {b : Nat} {k : SlotNo} (slot : slotOf s i b = some k)
    (kept : s.slots[k].state = .sending ∨ s.slots[k].state = .awaiting) : freeKeptSlot i b s = freeSlot k s := by
  unfold freeKeptSlot
  rw [slot]
  exact if_pos (inRelease_iff_sends.mpr kept)

theorem freeKeptSlot_of_none {i : StreamNo} {b : Nat}
    (none : ∀ k, slotOf s i b = some k → s.slots[k].state ≠ .sending ∧ s.slots[k].state ≠ .awaiting) : freeKeptSlot i b s = s := by
  unfold freeKeptSlot
  split
  next k slot =>
    obtain ⟨sending, awaiting⟩ := none k slot
    exact if_neg fun kept => (inRelease_iff_sends.mp kept).elim sending awaiting
  next => rfl

theorem longOf_eq {i : StreamNo} {b e : Nat} (extent : s.manifests[i].extents[b / 64]? = some e) :
    longOf s i b = (entryByte s (64 * e + b % 64) 32).getLsbD 0 := by
  unfold longOf
  rw [byteAt_entryBytesOf (by decide), entryIndex_eq extent]

theorem exec_branchTxEnd {p : Port} (o : TxOutcome) (position : s.ports[p].position = some f) :
    exec (.branchTxEnd p o) s = .next (servePort p (frameEnded f (s.setPort p { s.ports[p] with position := none }))) := by
  simp only [exec, execBranchTxEnd, position]

end

/-- Settles O42: the flag, and the end of a frame by what its stream is and awaits. -/
theorem branchTransmissionEndsAreJudged : Obligations.BranchTransmissionEndsAreJudged := by
  unfold Obligations.BranchTransmissionEndsAreJudged
  refine ⟨fun i b e s => longOf_eq, fun p o f s position => ⟨fun answered => ?_, fun unanswered => ⟨fun stopped v kept => ?_,
    fun awaited => ⟨fun long => ?_, fun short => ?_⟩, fun running other => ?_⟩⟩⟩
  all_goals rw [exec_branchTxEnd o position]
  · rw [frameEnded_of_answered answered]
  · rw [frameEnded_of_stopped (s := s.setPort p _) unanswered stopped]
    obtain ⟨k, slot, held, rfl⟩ | ⟨none, rfl⟩ := kept
    · rw [freeKeptSlot_of_slot (s := s.setPort p _) slot held]
    · rw [freeKeptSlot_of_none (s := s.setPort p _) none]
  · have running := running_of_awaiting awaited.2.1
    rw [frameEnded_of_running (s := s.setPort p _) unanswered running, if_pos ((startsAckTimer_iff (s.setPort p _) f).mpr awaited), intervalAtEnd_long (s := s.setPort p _) long]
    rfl
  · have running := running_of_awaiting awaited.2.1
    rw [frameEnded_of_running (s := s.setPort p _) unanswered running, if_pos ((startsAckTimer_iff (s.setPort p _) f).mpr awaited), intervalAtEnd_short (s := s.setPort p _) short]
    rfl
  · rw [frameEnded_of_running (s := s.setPort p _) unanswered running, if_neg fun starts => other ((startsAckTimer_iff (s.setPort p _) f).mp starts)]

end Sys2Proof.Machine

/-! Acknowledgements and timeouts (O43 to O46): R84, R109, R112 to R120, R123. -/

namespace Sys2Proof.Machine

section
variable {s : State} {p : Port} {d : Ident} {i : StreamNo} {m : Accepted}

theorem State.setCtx_setCtx (s : State) (i : StreamNo) (x y : ReleaseCtx) : (s.setCtx i x).setCtx i y = s.setCtx i y := by
  simp only [State.setCtx, Vector.set_set]

/-- An acknowledgement a stream matches is judged for it (R112). -/
theorem takeAck_of_stream (matching : AcknowledgesFor s p d i m) (b : Nat) (r : AckResult) : takeAck p d b r s = judgeAck i b r s := by
  unfold takeAck
  rw [ackStream_eq matching]

theorem takeAck_of_none (none : AcknowledgesNone s p d) (b : Nat) (r : AckResult) : takeAck p d b r s = s := by
  unfold takeAck
  rw [ackStream_none none]

/-- A slot freed under an ACTIVE stream keeps the reservation (R31, R83). -/
theorem freeSlot_of_active {b : Nat} {k : SlotNo} (slot : slotOf s i b = some k) (active : s.streams[i].state = .active) :
    freeSlot k s = s.setSlot k Slot.free := by
  obtain ⟨h, holder, rfl, _⟩ := holder_of_slotOf slot
  rw [freeSlot_of_holder holder]
  exact returnReservation_active active

/-! ## WRITTEN -/

/-- The state in which a WRITTEN has freed the block's slot and raised the low edge (R114). -/
def blockWritten (s : State) (i : StreamNo) (k : SlotNo) : State :=
  ((s.setCtx i { s.contexts[i] with ackTimer := none, resendHeld := false }).setSlot k Slot.free).setStream i
    { s.streams[i] with lowEdge := s.streams[i].lowEdge + 1, stage := none }

theorem acceptWritten_eq {b : Nat} {k : SlotNo} (slot : slotOf s i b = some k) (active : s.streams[i].state = .active) :
    acceptWritten i k s =
      let v := queueWindow i (s.streams[i].lowEdge + 1) s.streams[i].window (blockWritten s i k)
      if s.streams[i].lowEdge + 1 = s.streams[i].blockCount then enterCommitting i v else tryRelease i v := by
  unfold acceptWritten
  dsimp only
  rw [freeSlot_of_active (s := s.setCtx i _) slot active]
  rfl

theorem blockCount_of_manifest (man : s.streams[i].manifest = some m) : s.streams[i].blockCount = m.blockCount := by
  unfold Stream.blockCount
  rw [man]
  rfl

end

/-- Settles O43: the last block written, and any other. -/
theorem writtenFreesTheBlock : Obligations.WrittenFreesTheBlock := by
  unfold Obligations.WrittenFreesTheBlock
  intro p ident b i k m s matching outstanding low u v
  obtain ⟨active, _, man, slot⟩ := id outstanding
  have run : exec (.written p ident b) s = .next (if low = m.blockCount then enterCommitting i v else tryRelease i v) := by
    have judged : takeAck p ident b.toNat .written s = acceptWritten i k s := by
      rw [takeAck_of_stream matching, judgeAck, ackWritten, ackSubject_outstanding outstanding]
    rw [← blockCount_of_manifest man]
    exact congrArg _ (judged.trans (acceptWritten_eq slot active))
  have streams : v.streams[i] = { s.streams[i] with lowEdge := low, stage := none } := by
    rw [touches_queueWindow _ _ _ _ .streams (by decide), streams_set, if_pos rfl]
  refine ⟨fun more => ?_, fun last => ⟨s.streams[i].timersStopped.members, ?_, fun l => ?_⟩⟩
  · rw [run, if_neg more]
  · rw [run, if_pos last, enterCommitting, streams]
    rfl
  · simp [Stream.timersStopped, Stream.quietStopped]

/-! ## BUSY -/

section
variable {s : State} {i : StreamNo} {m : Accepted} {b : Nat} {k : SlotNo}

/-- A BUSY for the outstanding block, in the three cases of R115. -/
theorem ackBusy_of_block (outstanding : Outstanding s i b k m) :
    ackBusy i b s =
      if s.contexts[i].resendHeld then countStream i .busy s
      else if s.slots[k].busyCount < s.params.busyLimit then
        ((countStream i .busy s).setSlot k { s.slots[k] with busyCount := s.slots[k].busyCount + 1 }).setCtx i
          { s.contexts[i] with ackTimer := some { kind := .long, ms := (s.params.ackLong + 1) * 16 } }
      else blockTimeout i b k m.releaseRetryLimit (countStream i .busy s) := by
  unfold ackBusy
  rw [ackSubject_outstanding outstanding]
  rfl

/-- A BUSY for the END frame (R123). -/
theorem ackBusy_of_end (awaited : EndAwaited s i m) :
    ackBusy i m.blockCount s =
      if s.contexts[i].startHeld then countStream i .busy s
      else if s.contexts[i].endBusy < s.params.busyLimit then
        (countStream i .busy s).setCtx i { s.contexts[i] with
          endBusy := s.contexts[i].endBusy + 1, ackTimer := some { kind := .long, ms := (s.params.ackLong + 1) * 16 } }
      else endTimeout i m.releaseRetryLimit (countStream i .busy s) := by
  have restarted : ∀ u : State, ∀ c : ReleaseCtx, restartLong i (u.setCtx i c) =
      u.setCtx i { c with ackTimer := some { kind := .long, ms := (u.params.ackLong + 1) * 16 } } := fun u c => by
    unfold restartLong
    rw [State.setCtx_setCtx, contexts_set, if_pos rfl]
    rfl
  unfold ackBusy
  rw [ackSubject_endAwaited awaited]
  dsimp only
  rw [restarted]
  rfl

end

/-- Settles O44: the three cases of a BUSY, for a block and for the END frame. -/
theorem busyStretchesTheWait : Obligations.BusyStretchesTheWait := by
  unfold Obligations.BusyStretchesTheWait
  intro p ident b i m s matching
  have run : exec (.busy p ident b) s = .next (ackBusy i b.toNat s) := congrArg _ (takeAck_of_stream matching b.toNat .busy)
  rw [run]
  refine ⟨fun k outstanding => ?_, fun awaited last => ?_⟩
  · rw [ackBusy_of_block outstanding]
    refine ⟨fun held => ?_, fun free below => ?_, fun free reached => ?_⟩
    · rw [if_pos held]
    · rw [if_neg (by rw [free]; decide), if_pos below]
    · rw [if_neg (by rw [free]; decide), if_neg (Nat.not_lt.mpr reached)]
  · rw [last, ackBusy_of_end awaited]
    refine ⟨fun held => ?_, fun free below => ?_, fun free reached => ?_⟩
    · rw [if_pos held]
    · rw [if_neg (by rw [free]; decide), if_pos below]
    · rw [if_neg (by rw [free]; decide), if_neg (Nat.not_lt.mpr reached)]

/-! ## Timeouts -/

section
variable {s : State} {i : StreamNo} {m : Accepted} {b limit : Nat} {k : SlotNo}

/-- Another descriptor with the same manifest leaves the matching of acknowledgements as it is. -/
theorem AcknowledgesFor.congr {t : State} {p : Port} {d : Ident} (h : AcknowledgesFor s p d i m)
    (manifests : ∀ j : StreamNo, t.streams[j].manifest = s.streams[j].manifest) : AcknowledgesFor t p d i m := by
  obtain ⟨man, port, ack, others⟩ := h
  exact ⟨(manifests i).trans man, port, ack, fun j a other ja => others j a other ((manifests j).symm.trans ja)⟩

/-- The slot of a block after a change that keeps the slot's holder. -/
theorem slotOf_setSlot {y : Slot} (j : StreamNo) (holder : y.holder = s.slots[k].holder) : slotOf (s.setSlot k y) j b = slotOf s j b := by
  refine slotOf_congr (fun q => ?_) j b
  rw [slots_set]
  split
  next e => rw [e, holder]
  next => rfl

/-- The state in which a timeout of a block has started its resend (R118). -/
def resendStarted (s : State) (i : StreamNo) (b : Nat) (k : SlotNo) : State :=
  (((countStream i .releaseRetries s).setSlot k { s.slots[k] with
      retryCount := s.slots[k].retryCount + 1, busyCount := 0, state := .sending, nextFrame := some 0 }).setCtx i
    { s.contexts[i] with ackTimer := none }).setStream i { s.streams[i] with stage := some ⟨.sending, b⟩ }

theorem blockTimeout_of_limit (reached : limit ≤ s.slots[k].retryCount) : blockTimeout i b k limit s = enterFaulted i .targetSilent s :=
  if_neg (Nat.not_lt.mpr reached)

/-- The state of a timeout within the limit before its resend starts or is held. -/
def retryCounted (s : State) (i : StreamNo) (k : SlotNo) : State :=
  stopAckTimer i (countStream i .releaseRetries (s.setSlot k { s.slots[k] with retryCount := s.slots[k].retryCount + 1, busyCount := 0 }))

theorem blockTimeout_of_retry (below : s.slots[k].retryCount < limit) :
    blockTimeout i b k limit s = if supplyOk s then serveResend i b (startResend i b (retryCounted s i k))
      else (retryCounted s i k).setCtx i { (retryCounted s i k).contexts[i] with resendHeld := true } := if_pos below

theorem startResend_retryCounted (slot : slotOf s i b = some k) : startResend i b (retryCounted s i k) = resendStarted s i b k := by
  have found : slotOf (retryCounted s i k) i b = some k :=
    (slotOf_setSlot (y := { s.slots[k] with retryCount := s.slots[k].retryCount + 1, busyCount := 0 }) i rfl).trans slot
  have read : (retryCounted s i k).slots[k] = { s.slots[k] with retryCount := s.slots[k].retryCount + 1, busyCount := 0 } := by
    show (s.setSlot k _).slots[k] = _
    rw [slots_set, if_pos rfl]
  have merged : ∀ y, (retryCounted s i k).setSlot k y =
      ((countStream i .releaseRetries s).setSlot k y).setCtx i { s.contexts[i] with ackTimer := none } := fun y => by
    have := State.setSlot_setSlot s k { s.slots[k] with retryCount := s.slots[k].retryCount + 1, busyCount := 0 } y
    exact congrArg (fun u => (countStream i .releaseRetries u).setCtx i { s.contexts[i] with ackTimer := none }) this
  unfold startResend
  rw [found]
  dsimp only
  rw [merged, read]
  rfl

theorem blockTimeout_of_low (below : s.slots[k].retryCount < limit) (low : s.supply.state = .low) :
    blockTimeout i b k limit s =
      ((countStream i .releaseRetries s).setSlot k { s.slots[k] with retryCount := s.slots[k].retryCount + 1, busyCount := 0 }).setCtx i
        { s.contexts[i] with ackTimer := none, resendHeld := true } := by
  rw [blockTimeout_of_retry below, supplyOk_of_low low, if_neg (by decide)]
  unfold retryCounted stopAckTimer
  rw [State.setCtx_setCtx, contexts_set, if_pos rfl]
  rfl

theorem blockTimeout_of_ok (below : s.slots[k].retryCount < limit) (ok : s.supply.state = .ok) (slot : slotOf s i b = some k) :
    blockTimeout i b k limit s = serveResend i b (resendStarted s i b k) := by
  rw [blockTimeout_of_retry below, supplyOk_of_ok ok, if_pos rfl, startResend_retryCounted slot]

theorem resendStarted_stream (s : State) (i : StreamNo) (b : Nat) (k : SlotNo) :
    (resendStarted s i b k).streams[i] = { s.streams[i] with stage := some ⟨.sending, b⟩ } := by
  unfold resendStarted
  rw [streams_set, if_pos rfl]

theorem resendStarted_manifest (s : State) (i j : StreamNo) (b : Nat) (k : SlotNo) :
    (resendStarted s i b k).streams[j].manifest = s.streams[j].manifest := by
  unfold resendStarted
  rw [streams_set]
  split
  next e => rw [e]
  next => rfl

theorem resendStarted_slot (s : State) (i : StreamNo) (b : Nat) (k : SlotNo) : (resendStarted s i b k).slots[k].state = .sending := by
  show ((countStream i .releaseRetries s).setSlot k _).slots[k].state = _
  rw [slots_set, if_pos rfl]

/-- The resend is served by the port's arbiter, unless an answer for the block comes next (R118, R120). -/
theorem blockTimeout_served (below : s.slots[k].retryCount < limit) (ok : s.supply.state = .ok) (slot : slotOf s i b = some k)
    (man : s.streams[i].manifest = some m) (alone : ¬ AnswerNext s m.port m.ackId b) :
    blockTimeout i b k limit s = servePort m.port (resendStarted s i b k) := by
  rw [blockTimeout_of_ok below ok slot]
  exact serveResend_of_none ((resendStarted_manifest s i i b k).trans man) alone

theorem blockTimeout_waiting (below : s.slots[k].retryCount < limit) (ok : s.supply.state = .ok) (slot : slotOf s i b = some k)
    (matching : AcknowledgesFor s m.port m.ackId i m) (next : AnswerNext s m.port m.ackId b) :
    blockTimeout i b k limit s = resendStarted s i b k := by
  rw [blockTimeout_of_ok below ok slot]
  exact serveResend_of_next (matching.congr fun j => resendStarted_manifest s i j b k) next

/-- A timeout of the END frame (R123). -/
theorem endTimeout_of_limit (reached : limit ≤ s.contexts[i].endRetry) : endTimeout i limit s = enterFaulted i .targetSilent s :=
  if_neg (Nat.not_lt.mpr reached)

theorem endTimeout_of_ok (below : s.contexts[i].endRetry < limit) (ok : s.supply.state = .ok) (man : s.streams[i].manifest = some m) :
    endTimeout i limit s = servePort m.port
      (((countStream i .releaseRetries s).setCtx i { s.contexts[i] with
          endRetry := s.contexts[i].endRetry + 1, endBusy := 0, ackTimer := none }).setStream i
        { s.streams[i] with stage := some ⟨.sending, m.blockCount⟩ }) := by
  rw [← blockCount_of_manifest man]
  refine (if_pos below).trans ((if_pos (supplyOk_of_ok ok)).trans ?_)
  refine serveStreamPort_of_manifest (i := i) ?_
  rw [startEnd, streams_set, if_pos rfl]
  exact man

theorem endTimeout_of_low (below : s.contexts[i].endRetry < limit) (low : s.supply.state = .low) :
    endTimeout i limit s = (countStream i .releaseRetries s).setCtx i { s.contexts[i] with
      endRetry := s.contexts[i].endRetry + 1, endBusy := 0, ackTimer := none, startHeld := true } := by
  refine (if_pos below).trans ((if_neg ?_).trans ?_)
  · exact Bool.eq_false_iff.mp (supplyOk_of_low low)
  · rw [State.setCtx_setCtx, contexts_set, if_pos rfl]

/-- The acknowledgement timer's expiry is a timeout of what the stage awaits (R118, R119, R123). -/
theorem exec_ackTimeout_of_block (runs : s.contexts[i].ackTimer.isSome = true) (outstanding : Outstanding s i b k m) :
    exec (.ackTimeout i) s = .next (blockTimeout i b k m.releaseRetryLimit s) := by
  obtain ⟨_, stage, _, _⟩ := id outstanding
  refine (if_pos runs).trans ?_
  rw [stage]
  dsimp only
  rw [ackSubject_outstanding outstanding]

theorem exec_ackTimeout_of_end (runs : s.contexts[i].ackTimer.isSome = true) (awaited : EndAwaited s i m) :
    exec (.ackTimeout i) s = .next (endTimeout i m.releaseRetryLimit s) := by
  obtain ⟨_, stage, _⟩ := id awaited
  refine (if_pos runs).trans ?_
  rw [stage]
  dsimp only
  rw [ackSubject_endAwaited awaited]

/-! ## Answers that come too late -/

theorem ackSubject_of_not_awaiting (stage : s.streams[i].stage ≠ some ⟨.awaiting, b⟩) : ackSubject s i b = .none := by
  unfold ackSubject
  dsimp only
  split
  · exact if_neg stage
  · rfl

theorem ackSubject_of_faulted (faulted : s.streams[i].state = .faulted) : ackSubject s i b = .none := by
  unfold ackSubject
  dsimp only
  rw [faulted]
  split
  · split <;> rfl
  · rfl

/-- An ignored answer for a block in SENDING lets the resend go on (R120). -/
theorem untimelyAnswer_of_sending (active : s.streams[i].state = .active) (stage : s.streams[i].stage = some ⟨.sending, b⟩) :
    untimelyAnswer i b s = serveResend i b (countStream i .untimely s) := if_pos ⟨active, stage⟩

theorem untimelyAnswer_of_not_sending (h : ¬ (s.streams[i].state = .active ∧ s.streams[i].stage = some ⟨.sending, b⟩)) :
    untimelyAnswer i b s = countStream i .untimely s := if_neg h

/-- The next answer, when it concerns nothing, is ignored and counted (R113, R120). -/
theorem step_untimely {t : State} {c : Instr} {cs : List Instr} (pending : t.pending = c :: cs) (answers : Answers c m.port m.ackId b)
    (matching : AcknowledgesFor t m.port m.ackId i m) (subject : ackSubject t i b = .none) :
    step t = .next (untimelyAnswer i b (t.withPending cs)) := by
  obtain ⟨r, answer, run⟩ := exec_answer (s := t.withPending cs) answers matching
  unfold step
  rw [pending]
  dsimp only
  rw [run, judgeAck_untimely (s := t.withPending cs) answer subject]

/-! ## A faulted stream -/

/-- A returned reservation changes nothing else of the descriptors (R31). -/
theorem returnReservation_streams (i j : StreamNo) (s : State) :
    ∃ held, (returnReservation i s).streams[j] = { s.streams[j] with reservationHeld := held } := by
  unfold returnReservation
  dsimp only
  split
  · rw [streams_set]
    split
    next e => exact ⟨false, by rw [e]⟩
    next => exact ⟨_, rfl⟩
  · exact ⟨_, rfl⟩

theorem enterFaulted_state (i : StreamNo) (c : Cause) (s : State) : (enterFaulted i c s).streams[i].state = .faulted := by
  unfold enterFaulted
  dsimp only
  rw [queueRecord_streams, returnReservation_state, streams_set, if_pos rfl]

theorem enterFaulted_manifest (i j : StreamNo) (c : Cause) (s : State) : (enterFaulted i c s).streams[j].manifest = s.streams[j].manifest := by
  unfold enterFaulted
  dsimp only
  rw [queueRecord_streams]
  obtain ⟨held, same⟩ := returnReservation_streams i j
    ((stopStream i s).setStream i { (stopStream i s).streams[i] with state := .faulted, cause := some c })
  rw [same, streams_set, stopStream_streams, stopStream_streams, if_pos rfl]
  split
  next e => rw [e]; rfl
  next => rfl

end

/-- Settles O45: a timeout by limit and supply, the timer's expiry, and the answer that is taken after the timeout. -/
theorem timeoutsResendOrFault : Obligations.TimeoutsResendOrFault := by
  unfold Obligations.TimeoutsResendOrFault
  refine ⟨fun i b limit k m s outstanding => ?_, fun i limit m s awaited => ?_,
    fun i m s runs => ⟨fun b k => exec_ackTimeout_of_block runs, exec_ackTimeout_of_end runs⟩,
    fun i b k m c cs s outstanding runs pending answers matching only => ?_⟩
  · obtain ⟨_, _, man, slot⟩ := outstanding
    exact ⟨blockTimeout_of_limit, fun below => ⟨fun ok => ⟨blockTimeout_served below ok slot man, blockTimeout_waiting below ok slot⟩,
      blockTimeout_of_low below⟩⟩
  · obtain ⟨_, _, man⟩ := awaited
    exact ⟨endTimeout_of_limit, fun below => ⟨fun ok => endTimeout_of_ok below ok man, endTimeout_of_low below⟩⟩
  · have run : step s = .next (blockTimeout i b k m.releaseRetryLimit (s.withPending (c :: cs))) := by
      unfold step
      rw [pending]
      exact exec_ackTimeout_of_block (s := s.withPending (c :: cs)) runs outstanding
    have next : AnswerNext (s.withPending (c :: cs)) m.port m.ackId b := ⟨c, rfl, answers⟩
    obtain ⟨active, stage, man, slot⟩ := id outstanding
    refine ⟨_, run, touches_blockTimeout _ i b k _ .pending (by decide), fun below => ⟨fun ok => ?_, fun low => ?_⟩, fun reached => ?_⟩
    · rw [blockTimeout_waiting (s := s.withPending (c :: cs)) below ok slot matching next]
      have stream := resendStarted_stream (s.withPending (c :: cs)) i b k
      generalize ht : resendStarted (s.withPending (c :: cs)) i b k = t at stream
      have matching' : AcknowledgesFor t m.port m.ackId i m := matching.congr fun j => by rw [← ht, resendStarted_manifest]; rfl
      refine ⟨by rw [stream], by rw [← ht]; exact resendStarted_slot _ i b k, ?_⟩
      rw [step_untimely (by rw [← ht]; rfl) answers matching' (ackSubject_of_not_awaiting (by rw [stream]; simp)),
        untimelyAnswer_of_sending (s := t.withPending cs) (by rw [State.withPending_streams, stream]; exact active) (by rw [State.withPending_streams, stream])]
      refine congrArg _ (serveResend_of_none (i := i) (m := m) ?_ fun ⟨d, head, further⟩ => only d head further)
      exact matching'.1
    · rw [blockTimeout_of_low (s := s.withPending (c :: cs)) below low]
      have slot' : slotOf ((s.withPending (c :: cs)).setSlot k { s.slots[k] with retryCount := s.slots[k].retryCount + 1, busyCount := 0 }) i b =
          some k := by
        refine (slotOf_setSlot (s := s.withPending (c :: cs)) i ?_).trans slot
        rfl
      exact ⟨⟨active, stage, man, slot'⟩, matching, by rw [contexts_set, if_pos rfl]⟩
    · rw [blockTimeout_of_limit (s := s.withPending (c :: cs)) reached]
      have faulted := enterFaulted_state i .targetSilent (s.withPending (c :: cs))
      have matching' : AcknowledgesFor (enterFaulted i .targetSilent (s.withPending (c :: cs))) m.port m.ackId i m :=
        matching.congr fun j => enterFaulted_manifest i j _ _
      refine ⟨faulted, ?_⟩
      rw [step_untimely (t := enterFaulted i .targetSilent (s.withPending (c :: cs))) (touches_enterFaulted _ i _ .pending (by decide)) answers matching' (ackSubject_of_faulted faulted),
        untimelyAnswer_of_not_sending]
      rintro ⟨active', _⟩
      rw [State.withPending_streams, faulted] at active'
      cases active'

/-! ## The other results -/

section
variable {s : State} {p : Port} {d : Ident} {i : StreamNo} {m : Accepted} {b : Nat}

theorem ackRejected_of_block {k : SlotNo} (outstanding : Outstanding s i b k m) : ackRejected i b s = enterFaulted i .targetReject s := by
  unfold ackRejected
  rw [ackSubject_outstanding outstanding]

theorem ackRejected_of_end (awaited : EndAwaited s i m) : ackRejected i m.blockCount s = enterFaulted i .targetReject s := by
  unfold ackRejected
  rw [ackSubject_endAwaited awaited]

/-- An ACTIVATED for the END frame (R123). -/
theorem ackActivated_of_end (awaited : EndAwaited s i m) :
    ackActivated i m.blockCount s = queueRecord (.stream i .done none)
      (((s.setCtx i { s.contexts[i] with ackTimer := none, startHeld := false }).setStream i
        { s.streams[i] with state := .done, stage := none }).setPort m.port (s.ports[m.port].answeredFor i)) := by
  obtain ⟨_, _, man⟩ := id awaited
  unfold ackActivated
  rw [ackSubject_endAwaited awaited]
  unfold acceptActivated
  dsimp only
  rw [streams_set, if_pos rfl]
  dsimp only [State.setCtx_streams]
  rw [man]
  rfl

/-- A WRITTEN that is not for the outstanding block (R113). -/
theorem ackWritten_of_other (man : s.streams[i].manifest = some m) (other : ¬ ∃ k, Outstanding s i b k m)
    (idle : ¬ (s.streams[i].state = .active ∧ s.streams[i].stage = some ⟨.sending, b⟩)) :
    ackWritten i b s = countStream i .untimely s := by
  unfold ackWritten
  obtain ⟨k, outstanding, _⟩ | ⟨_, _, subject⟩ | ⟨_, _, subject⟩ := ackSubject_cases s i b m man
  · exact absurd ⟨k, outstanding⟩ other
  · rw [subject]; rfl
  · rw [subject]; exact untimelyAnswer_of_not_sending idle

/-- An ACTIVATED that is not for the END frame (R113). -/
theorem ackActivated_of_other (man : s.streams[i].manifest = some m) (other : ¬ (EndAwaited s i m ∧ b = m.blockCount)) :
    ackActivated i b s = countStream i .untimely s := by
  unfold ackActivated
  obtain ⟨_, _, subject⟩ | ⟨awaited, last, _⟩ | ⟨_, _, subject⟩ := ackSubject_cases s i b m man
  · rw [subject]; rfl
  · exact absurd ⟨awaited, last⟩ other
  · rw [subject]; rfl

/-- An answer that concerns neither a block nor the END frame has no subject (R113). -/
theorem ackSubject_of_other (man : s.streams[i].manifest = some m) (noBlock : ¬ ∃ k, Outstanding s i b k m)
    (noEnd : ¬ (EndAwaited s i m ∧ b = m.blockCount)) : ackSubject s i b = .none := by
  obtain ⟨k, outstanding, _⟩ | ⟨awaited, last, _⟩ | ⟨_, _, subject⟩ := ackSubject_cases s i b m man
  · exact absurd ⟨k, outstanding⟩ noBlock
  · exact absurd ⟨awaited, last⟩ noEnd
  · exact subject

/-- A branch frame is the acknowledgement its result code names (R112). -/
theorem exec_branchFrame_of_result {data : Frame} {r : AckResult} (long : 3 ≤ data.length) (code : ackResultOf (byteAt data 2) = some r) :
    exec (.branchFrame p d data) s = .next (takeAck p d (fieldAt data 0 2) r s) := by
  simp only [exec, execBranchFrame, takeAck]
  cases ackStream s p d with
  | none => rfl
  | some i =>
    dsimp only
    rw [if_neg (Nat.not_lt.mpr long), code]

theorem exec_branchFrame_of_none {data : Frame} (none : AcknowledgesNone s p d) : exec (.branchFrame p d data) s = .next s := by
  simp only [exec, execBranchFrame, ackStream_none none]

theorem ackResultOf_eq_none_iff {x : Byte} : ackResultOf x = none ↔ x = 0#8 ∨ 4 < x.toNat := by
  revert x; decide

/-- A malformed branch frame is counted (R112). -/
theorem exec_branchFrame_of_malformed {data : Frame} (matching : AcknowledgesFor s p d i m)
    (bad : data.length < 3 ∨ byteAt data 2 = 0#8 ∨ 4 < (byteAt data 2).toNat) :
    exec (.branchFrame p d data) s = .next (countStream i .untimely s) := by
  simp only [exec, execBranchFrame, ackStream_eq matching]
  split
  next => rfl
  next long =>
    obtain brief | code := bad
    · exact absurd brief long
    · rw [ackResultOf_eq_none_iff.mpr code]
      rfl

/-- An answer for a block in SENDING (R109, R120). -/
theorem judgeAck_of_sending {r : AckResult} (answer : r ≠ .activated) (matching : AcknowledgesFor s m.port m.ackId i m)
    (active : s.streams[i].state = .active) (stage : s.streams[i].stage = some ⟨.sending, b⟩) :
    (¬ AnswerNext s m.port m.ackId b → judgeAck i b r s = servePort m.port (countStream i .untimely s)) ∧
      (AnswerNext s m.port m.ackId b → judgeAck i b r s = countStream i .untimely s) := by
  obtain ⟨man, _⟩ := id matching
  rw [judgeAck_untimely answer (ackSubject_of_not_awaiting (by rw [stage]; simp)), untimelyAnswer_of_sending active stage]
  exact ⟨serveResend_of_none (s := countStream i .untimely s) man, serveResend_of_next (s := countStream i .untimely s) matching⟩

end

/-- Settles O46: each result for its subject, and for none. -/
theorem otherResultsFaultEndOrAreUntimely : Obligations.OtherResultsFaultEndOrAreUntimely := by
  unfold Obligations.OtherResultsFaultEndOrAreUntimely
  refine ⟨fun p d b i m s matching => ⟨fun k outstanding => ?_, fun awaited last => ⟨?_, ?_⟩⟩,
    fun p d b data s => ⟨fun none c hc => ?_, fun i m matching => ?_, fun long value => ?_⟩⟩
  · exact congrArg _ ((takeAck_of_stream matching _ .rejected).trans (ackRejected_of_block outstanding))
  · rw [show exec (.rejected p d b) s = .next (takeAck p d b.toNat .rejected s) from rfl, last, takeAck_of_stream matching]
    exact congrArg _ (ackRejected_of_end awaited)
  · obtain ⟨_, rfl, _⟩ := id matching
    rw [show exec (.activated m.port d b) s = .next (takeAck m.port d b.toNat .activated s) from rfl, last, takeAck_of_stream matching]
    exact congrArg _ (ackActivated_of_end awaited)
  · have taken := fun r => takeAck_of_none none b.toNat r
    simp only [List.mem_cons, List.not_mem_nil, or_false] at hc
    rcases hc with rfl | rfl | rfl | rfl | rfl
    · exact congrArg _ (taken .written)
    · exact congrArg _ (taken .busy)
    · exact congrArg _ (taken .rejected)
    · exact congrArg _ (taken .activated)
    · exact exec_branchFrame_of_none none
  · obtain ⟨man, rfl, rfl, _⟩ := id matching
    have taken := fun r => takeAck_of_stream matching b.toNat r
    refine ⟨fun noBlock noResend => ?_, fun noEnd => ?_, fun noBlock noEnd noResend => ?_, fun resend c hc => ?_,
      exec_branchFrame_of_malformed matching⟩
    · exact congrArg _ ((taken .written).trans (ackWritten_of_other man noBlock noResend))
    · exact congrArg _ ((taken .activated).trans (ackActivated_of_other man noEnd))
    · have ignored : ∀ r, r ≠ AckResult.activated → judgeAck i b.toNat r s = countStream i .untimely s := fun r answer =>
        (judgeAck_untimely answer (ackSubject_of_other man noBlock noEnd)).trans (untimelyAnswer_of_not_sending noResend)
      exact ⟨congrArg _ ((taken .busy).trans (ignored .busy (by decide))), congrArg _ ((taken .rejected).trans (ignored .rejected (by decide)))⟩
    · obtain ⟨active, stage⟩ := resend
      have judged : ∀ r, r ≠ AckResult.activated → exec c s = .next (takeAck m.port m.ackId b.toNat r s) →
          (¬ AnswerNext s m.port m.ackId b.toNat → exec c s = .next (servePort m.port (countStream i .untimely s))) ∧
            (AnswerNext s m.port m.ackId b.toNat → exec c s = .next (countStream i .untimely s)) := fun r answer run => by
        obtain ⟨alone, waiting⟩ := judgeAck_of_sending answer matching active stage
        rw [run, taken]
        exact ⟨fun h => congrArg _ (alone h), fun h => congrArg _ (waiting h)⟩
      simp only [List.mem_cons, List.not_mem_nil, or_false] at hc
      rcases hc with rfl | rfl | rfl
      · exact judged .written (by decide) rfl
      · exact judged .busy (by decide) rfl
      · exact judged .rejected (by decide) rfl
  · have block : b.toNat = fieldAt data 0 2 := by
      rw [value]
      exact toNat_ofNat_fieldAt data 0 2 16 (by decide)
    have same : ∀ r, ackResultOf (byteAt data 2) = some r → exec (.branchFrame p d data) s = .next (takeAck p d b.toNat r s) := fun r code => by
      rw [block]
      exact exec_branchFrame_of_result long code
    exact ⟨fun code => same .written (by rw [code]; rfl), fun code => same .busy (by rw [code]; rfl),
      fun code => same .rejected (by rw [code]; rfl), fun code => same .activated (by rw [code]; rfl)⟩

end Sys2Proof.Machine

/-! The version store's operations (O48 to O50): R131 to R138, R142, R164. -/

namespace Sys2Proof.Machine

section
variable {s : State}

/-! ## Steps -/

theorem startStep_of_none (idle : s.store.run = none) : startStep s = s := by
  unfold startStep
  rw [idle]

/-- When the next step of the running operation starts (R133, R164). -/
theorem startStep_of_run {r : NvmRun} {st : NvmStep} {rest : List NvmStep} (run : s.store.run = some r) (steps : r.steps = st :: rest) :
    startStep s = if r.stepping = false ∧ s.supply.state = .ok ∧ s.interp.restartIssued = false then
        s.withStore { s.store.stepStarted st with run := some { r with stepping := true } }
      else s := by
  have due : (!r.stepping && supplyOk s && !s.interp.restartIssued) = true ↔
      r.stepping = false ∧ s.supply.state = .ok ∧ s.interp.restartIssued = false := by
    rw [Bool.and_eq_true, Bool.and_eq_true, Bool.not_eq_true', Bool.not_eq_true', supplyOk, beq_iff_eq, and_assoc]
  unfold startStep
  rw [run]
  dsimp only
  rw [steps]
  dsimp only
  simp only [due]

theorem runStore_of_idle (h : s.store.run.isSome = true ∨ s.interp.restartIssued = true ∨ s.store.ops = []) : runStore s = startStep s :=
  congrArg startStep (beginOps_of_idle h)

/-- A program step that starts turns the erased flag of the page it writes into, if it writes into one (R129). -/
theorem stepStarted_program (t : Store) (a : Nat) (v : Byte) :
    t.stepStarted (.program a v) = (pageOfAddress a).elim t fun p => t.setErased p false := by
  unfold Store.stepStarted
  dsimp only
  cases pageOfAddress a <;> rfl

theorem pageOfAddress_a {a : Nat} (below : a < 1024) : pageOfAddress a = some .a := if_pos below

theorem pageOfAddress_b {a : Nat} (low : 1024 ≤ a) (below : a < 2048) : pageOfAddress a = some .b :=
  (if_neg (Nat.not_lt.mpr low)).trans (if_pos below)

theorem pageOfAddress_key {a : Nat} (low : 2048 ≤ a) : pageOfAddress a = none :=
  (if_neg (Nat.not_lt.mpr (Nat.le_trans (by decide) low))).trans (if_neg (Nat.not_lt.mpr low))

/-! ## Commits at the head -/

theorem recordAddress_eq (p : PageId) (n : Nat) : recordAddress p n = (NvmUnit.page p).base + 16 + 16 * n := rfl

section
variable {i : StreamNo} {m : Accepted} {tail : List NvmOp} {p : PageId} (idle : s.store.run = none)
  (running : s.interp.restartIssued = false) (head : s.store.ops = .commit i :: tail) (man : s.streams[i].manifest = some m)
include idle running head man

/-- A commit at the head proceeds with its job (R134). -/
theorem runStore_of_commit {r : NvmRun} (run : commitRun s.store i m = some r) :
    runStore s = startStep (s.withStore { s.store with run := some r }) := by
  rw [runStore_begins idle running head]
  dsimp only
  rw [man]
  dsimp only
  rw [run]

/-- A compaction refused at its start leaves the queue (R136). -/
theorem runStore_of_refused (refused : commitRun s.store i m = none) :
    runStore s = runStore (storeFailed i (s.withStore { s.store with ops := tail, run := none })) := by
  have popped : s.store.popOp = { s.store with ops := tail, run := none } := by
    unfold Store.popOp
    rw [head]
    rfl
  rw [runStore_begins idle running head]
  dsimp only
  rw [man]
  dsimp only
  rw [refused, popped]

end

theorem commitRun_of_noPage {t : Store} {i : StreamNo} {m : Accepted} (none : t.activePage = none) :
    commitRun t i m = some { job := .newPage i (newRecord t.governing m), steps := newPageSteps t (newRecord t.governing m), stepping := false } := by
  unfold commitRun
  dsimp only
  rw [none]

section
variable {t : Store} {i : StreamNo} {m : Accepted} {p : PageId} (page : t.activePage = some p)
include page

theorem commitRun_of_room (room : t.appendPos < 63) :
    commitRun t i m = some { job := .append i (newRecord t.governing m) p t.appendPos,
                             steps := programSteps (recordAddress p t.appendPos) (recordBytes (newRecord t.governing m)), stepping := false } := by
  unfold commitRun
  dsimp only
  rw [page]
  exact if_pos room

variable {seq : Word32} (sequence : t.activeSeq = some seq) (full : 63 ≤ t.appendPos)
include sequence full

theorem commitRun_of_last (last : seq = 0xFFFFFFFE#32) : commitRun t i m = none := by
  unfold commitRun
  dsimp only
  rw [page]
  exact (if_neg (Nat.not_lt.mpr full)).trans (if_pos (by rw [sequence, last]; rfl))

theorem commitRun_of_full (more : seq ≠ 0xFFFFFFFE#32) :
    commitRun t i m = some { job := .compact i (newRecord t.governing m) p.other (seq + 1),
                             steps := compactSteps t p.other (newRecord t.governing m) (seq + 1), stepping := false } := by
  unfold commitRun
  dsimp only
  rw [page]
  refine (if_neg (Nat.not_lt.mpr full)).trans ((if_neg ?_).trans ?_)
  · rw [sequence]
    exact fun same => more (Option.some.inj same)
  · rw [sequence]
    rfl

end

theorem PageId.other_other (p : PageId) : p.other.other = p := by cases p <;> rfl

end

/-- Settles O48: the starting of steps, and the operation at the head by its kind. -/
theorem operationsBeginAtTheHead : Obligations.OperationsBeginAtTheHead := by
  unfold Obligations.OperationsBeginAtTheHead
  refine ⟨fun s => ⟨runStore_of_idle, startStep_of_none, fun a v => ⟨fun below => ?_, fun low below => ?_, fun low => ?_⟩,
      fun u => rfl, fun r st rest run steps => ?_⟩,
    fun a n bs => List.getElem?_mapIdx, fun key tail s idle running head => ?_, fun i m tail r s idle running head man target version floor known new => ?_⟩
  · rw [stepStarted_program, pageOfAddress_a below]; rfl
  · rw [stepStarted_program, pageOfAddress_b low below]; rfl
  · rw [stepStarted_program, pageOfAddress_key low]; rfl
  · have start := startStep_of_run run steps
    exact ⟨fun due => start.trans (if_pos due), fun not => start.trans (if_neg not)⟩
  · rw [runStore_begins idle running head]
    rfl
  · have record : newRecord s.store.governing m = r := newRecord_eq _ m r target version floor known new
    refine ⟨fun none => ?_, fun p seq page sequence => ⟨fun room => ?_, fun full more => ?_, fun full last => ?_⟩⟩
    · rw [runStore_of_commit idle running head man (commitRun_of_noPage none), record]
      rfl
    · rw [runStore_of_commit idle running head man (commitRun_of_room page room), record]
    · rw [runStore_of_commit idle running head man (commitRun_of_full page sequence full more), record, compactSteps, PageId.other_other]
      rfl
    · have refused := runStore_of_refused idle running head man (commitRun_of_last page sequence full last)
      exact ⟨fun committing => refused.trans (congrArg runStore (storeFailed_committing i _ committing)),
        fun aborting => refused.trans (congrArg runStore (storeFailed_aborting i _ aborting))⟩

/-! ## The end of a step -/

section
variable {s : State} {i : StreamNo} {m : Accepted}

/-- Entering ENDING, with the supply OK and LOW (R121, R122). -/
theorem enterEnding_of_ok (man : s.streams[i].manifest = some m) (ok : s.supply.state = .ok) :
    enterEnding i s = servePort m.port ((s.setCtx i { s.contexts[i] with endRetry := 0, endBusy := 0 }).setStream i
      { s.streams[i] with state := .ending, stage := some ⟨.sending, m.blockCount⟩ }) := by
  have started : startEnd i ((s.setStream i { s.streams[i] with state := .ending }).setCtx i { s.contexts[i] with endRetry := 0, endBusy := 0 }) =
      (s.setCtx i { s.contexts[i] with endRetry := 0, endBusy := 0 }).setStream i
        { s.streams[i] with state := .ending, stage := some ⟨.sending, m.blockCount⟩ } := by
    have merged := State.setStream_setStream (s.setCtx i { s.contexts[i] with endRetry := 0, endBusy := 0 }) i
      { s.streams[i] with state := .ending } { s.streams[i] with state := .ending, stage := some ⟨.sending, m.blockCount⟩ }
    rw [← merged]
    unfold startEnd
    dsimp only [State.setCtx_streams]
    rw [streams_set, if_pos rfl, ← blockCount_of_manifest man]
    rfl
  refine (if_pos (supplyOk_of_ok ok)).trans ((congrArg (serveStreamPort i) started).trans ?_)
  exact serveStreamPort_of_manifest (by rw [streams_set, if_pos rfl]; exact man)

theorem enterEnding_of_low (low : s.supply.state = .low) :
    enterEnding i s = (s.setStream i { s.streams[i] with state := .ending }).setCtx i
      { s.contexts[i] with endRetry := 0, endBusy := 0, startHeld := true } :=
  if_neg (Bool.eq_false_iff.mp (supplyOk_of_low low))

variable {r : NvmRun} {st : NvmStep} {rest : List NvmStep}

/-- The running operation goes on after a good step that ends neither it nor its page (R135 to R137). -/
theorem afterGoodStep_of_more (more : rest ≠ [])
    (inside : ∀ i v p q, r.job = .compact i v p q → st ≠ .program (completeMarkerAddress p) 0x3C#8) :
    afterGoodStep r st rest s = s.withStore { s.store with run := some { r with steps := rest, stepping := false } } := by
  have goesOn : rest.isEmpty = false := List.isEmpty_eq_false_iff.mpr more
  unfold afterGoodStep
  dsimp only
  rw [goesOn]
  cases job : r.job with
  | compact i v p q => exact if_neg (inside i v p q job)
  | _ => rfl

/-- The complete marker of a compaction's page is written: the page takes over (R136). -/
theorem afterGoodStep_of_marker {v : VersionRecord} {p : PageId} {q : Word32} (more : rest ≠ []) (job : r.job = .compact i v p q)
    (marker : st = .program (completeMarkerAddress p) 0x3C#8) :
    afterGoodStep r st rest s =
      s.withStore { pageSwitched s.store p q v with run := some { r with steps := rest, stepping := false } } := by
  have goesOn : rest.isEmpty = false := List.isEmpty_eq_false_iff.mpr more
  unfold afterGoodStep
  rw [job]
  dsimp only
  rw [goesOn]
  exact if_pos marker

/-- The last good step by the kind of operation (R132, R135 to R137, R142). -/
theorem afterGoodStep_compact {v : VersionRecord} {p : PageId} {q : Word32} (job : r.job = .compact i v p q) :
    afterGoodStep r st [] s = commitDone i v s := by
  unfold afterGoodStep
  rw [job]
  rfl

theorem afterGoodStep_append {v : VersionRecord} {p : PageId} {n : Nat} (job : r.job = .append i v p n) :
    afterGoodStep r st [] s = commitDone i v (s.withStore { s.store with
      governing := putRow { record := v, page := p, slot := n } s.store.governing, appendPos := s.store.appendPos + 1 }) := by
  unfold afterGoodStep
  rw [job]
  rfl

theorem afterGoodStep_newPage {v : VersionRecord} (job : r.job = .newPage i v) :
    afterGoodStep r st [] s = commitDone i v (s.withStore (pageSwitched s.store .a 1#32 v)) := by
  unfold afterGoodStep
  rw [job]
  rfl

theorem afterGoodStep_installKey (job : r.job = .installKey) :
    afterGoodStep r st [] s = s.withStore { s.store.popOp with keyState := .installed } := by
  unfold afterGoodStep
  rw [job]
  rfl

theorem afterGoodStep_scan {c : StartCause} (job : r.job = .scan c) :
    afterGoodStep r st [] s = finishScan c .recovered (s.withStore { s.store with run := none }) := by
  unfold afterGoodStep
  rw [job]
  rfl

/-- A commit whose operation has ended leaves the queue, by its stream's state (R135). -/
theorem commitDone_of_committing (v : VersionRecord) (committing : s.streams[i].state = .committing) :
    commitDone i v s = enterEnding i (queueRecord (.commit i v.target v.version v.floor) (s.withStore s.store.popOp)) :=
  (commitEnded_cases i v (s.withStore s.store.popOp)).1 committing

theorem commitDone_of_not (v : VersionRecord) (other : s.streams[i].state ≠ .committing) :
    commitDone i v s = resolveAbort i (queueRecord (.commit i v.target v.version v.floor) (s.withStore s.store.popOp)) :=
  (commitEnded_cases i v (s.withStore s.store.popOp)).2 other

/-- A step that does not read back, by the kind of operation (R131, R138, R142). -/
theorem afterBadStep_compact_last {v : VersionRecord} {p : PageId} {q : Word32} (job : r.job = .compact i v p q) :
    afterBadStep r st [] s = commitDone i v s := by
  unfold afterBadStep
  rw [job]
  rfl

theorem afterBadStep_compact {v : VersionRecord} {p : PageId} {q : Word32} (job : r.job = .compact i v p q) (more : rest ≠ []) :
    afterBadStep r st rest s = storeFailed i (s.withStore (s.store.popOp.setErased p false)) := by
  have goesOn : rest.isEmpty = false := List.isEmpty_eq_false_iff.mpr more
  unfold afterBadStep
  rw [job]
  dsimp only
  rw [goesOn]
  rfl

theorem afterBadStep_append {v : VersionRecord} {p : PageId} {n : Nat} (job : r.job = .append i v p n) :
    afterBadStep r st rest s = storeFailed i (s.withStore { s.store.popOp with appendPos := s.store.appendPos + 1 }) := by
  unfold afterBadStep
  rw [job]

theorem afterBadStep_newPage {v : VersionRecord} (job : r.job = .newPage i v) :
    afterBadStep r st rest s = storeFailed i (s.withStore (s.store.popOp.setErased .a false)) := by
  unfold afterBadStep
  rw [job]

theorem afterBadStep_installKey (job : r.job = .installKey) :
    afterBadStep r st rest s = s.withStore { s.store.popOp with keyState := .failed } := by
  unfold afterBadStep
  rw [job]

/-- The store after a scrub that does not read back: a key area it could not erase is FAILED (R131). -/
theorem afterBadStep_scan {c : StartCause} (job : r.job = .scan c) :
    afterBadStep r st rest s =
      let t := { s.store with keyState := if st = NvmStep.erase .key then .failed else s.store.keyState }
      if rest.isEmpty then finishScan c .recovered (s.withStore { t with run := none })
      else s.withStore { t with run := some { r with steps := rest, stepping := false } } := by
  unfold afterBadStep
  rw [job]
  dsimp only
  by_cases key : st = NvmStep.erase .key
  · simp only [if_pos key]
  · simp only [if_neg key]

end

/-- Settles O49: the governing table's rows, the entry to ENDING, and a good step by the operation and what is left of it. -/
theorem goodStepsCompleteTheOperation : Obligations.GoodStepsCompleteTheOperation := by
  unfold Obligations.GoodStepsCompleteTheOperation
  refine ⟨fun row rows t => ?_, fun i m s man => ⟨enterEnding_of_ok man, enterEnding_of_low⟩, ?_⟩
  · rw [rowOf_putRow]
    simp only [eq_comm]
  intro r st rest rb mem ok s run stepping steps result x u goesOn committed moved
  have ended := execNvmStepDone_next run stepping steps result
  have ops : x.ops = s.store.ops := stepEnded_ops s.store st ok
  have commits (i : StreamNo) (v : VersionRecord) (y : Store) (queue : y.ops = s.store.ops)
      (done : (if ok then afterGoodStep r st rest (u x) else afterBadStep r st rest (u x)) = commitDone i v (u y)) : committed i v y := by
    have left : (u y).withStore (u y).store.popOp = u { y with ops := s.store.ops.tail, run := none } := by rw [← queue]; rfl
    refine ⟨fun committing => ?_, fun other => ?_⟩
    · rw [ended, done, commitDone_of_committing (s := u y) v committing, left]
    · rw [ended, done, commitDone_of_not (s := u y) v other, left]
  refine ⟨fun good more inside => ?_, fun i v p q job => ⟨fun good more marker => ?_, fun last => ?_⟩,
    fun good last => ⟨fun i v p n job => ?_, fun i v job => ?_, fun job => ?_, fun c job => ?_⟩⟩
  · exact ended.trans (congrArg (fun t => Host.Outcome.next (runStore t))
      ((if_pos good).trans (afterGoodStep_of_more (s := u x) more inside)))
  · exact ended.trans (congrArg (fun t => Host.Outcome.next (runStore t))
      ((if_pos good).trans (afterGoodStep_of_marker (s := u x) more job marker)))
  · subst last
    refine commits i v x ops ?_
    rw [afterGoodStep_compact job, afterBadStep_compact_last job, ite_self]
  all_goals subst good last
  · exact commits i v _ ops (afterGoodStep_append job)
  · exact commits i v _ ops (afterGoodStep_newPage job)
  · refine ended.trans (congrArg (fun t => Host.Outcome.next (runStore t)) ((afterGoodStep_installKey job).trans ?_))
    rw [← ops]
    rfl
  · exact ended.trans (congrArg (fun t => Host.Outcome.next (runStore t)) (afterGoodStep_scan job))

/-- Settles O50: a failed step by the operation and what is left of it. -/
theorem failedStepsEndTheOperation : Obligations.FailedStepsEndTheOperation := by
  unfold Obligations.FailedStepsEndTheOperation
  intro r st rest rb mem s run stepping steps result x u failed
  have ended := execNvmStepDone_next run stepping steps result
  have ops : x.ops = s.store.ops := stepEnded_ops s.store st false
  have fails (i : StreamNo) (y : Store) (done : afterBadStep r st rest (u x) = storeFailed i (u { y with ops := s.store.ops.tail, run := none })) :
      failed i y := by
    refine ⟨fun committing => ?_, fun aborting => ?_⟩
    · refine ended.trans (congrArg (fun t => Host.Outcome.next (runStore t)) (done.trans ?_))
      exact storeFailed_committing i _ committing
    · refine ended.trans (congrArg (fun t => Host.Outcome.next (runStore t)) (done.trans ?_))
      exact storeFailed_aborting i _ aborting
  refine ⟨fun i v p n job => ?_, fun i v q job more => ?_, fun i v q job more => ?_, fun i v job => ?_, fun job => ?_, fun c job => ?_⟩
  · refine fails i _ ((afterBadStep_append job).trans ?_)
    rw [← ops]
    rfl
  · refine fails i _ ((afterBadStep_compact job more).trans ?_)
    rw [← ops]
    rfl
  · refine fails i _ ((afterBadStep_compact job more).trans ?_)
    rw [← ops]
    rfl
  · refine fails i _ ((afterBadStep_newPage job).trans ?_)
    rw [← ops]
    rfl
  · refine ended.trans (congrArg (fun t => Host.Outcome.next (runStore t)) ((afterBadStep_installKey job).trans ?_))
    rw [← ops]
    rfl
  · have scan := afterBadStep_scan (st := st) (rest := rest) (s := u x) job
    refine ⟨fun more => ?_, fun last => ?_⟩
    · refine ended.trans (congrArg (fun t => Host.Outcome.next (runStore t)) (scan.trans ?_))
      exact if_neg (Bool.eq_false_iff.mp (List.isEmpty_eq_false_iff.mpr more))
    · exact ended.trans (congrArg (fun t => Host.Outcome.next (runStore t)) (scan.trans (if_pos (List.isEmpty_iff.mpr last))))

end Sys2Proof.Machine

/-! What an NVM step's end leaves of the memory (O47): R126, R128, R131, R138, R142. -/

namespace Sys2Proof.Machine

section
variable {s : State} {m c : Memory} {job : NvmJob}

theorem isScan_iff : job.isScan = true ↔ ∃ k, job = .scan k := by
  cases job <;> simp [NvmJob.isScan]

/-- The page a compaction or a new page forms (R136, R137). -/
theorem forms_iff {p : PageId} : job.forms = some p ↔ (∃ i v q, job = .compact i v p q) ∨ p = .a ∧ ∃ i v, job = .newPage i v := by
  cases job <;> simp [NvmJob.forms, eq_comm]

/-- What runs after a step has been read back leaves the memory as the step left it. -/
theorem nvm_afterStep {r : NvmRun} {st : NvmStep} {rest : List NvmStep} {rb : Readback} {mem : Memory} {ok : Bool}
    (run : s.store.run = some r) (stepping : r.stepping = true) (steps : r.steps = st :: rest)
    (result : stepResult s.nvm st rb = some (mem, ok)) :
    ∃ t, exec (.nvmStepDone rb) s = .next t ∧ t.nvm = stepLeaves s.nvm r.job st mem ok := by
  refine ⟨_, execNvmStepDone_next run stepping steps result, ?_⟩
  refine Eq.trans (touches_runStore _ .nvm (by decide)) ?_
  cases ok
  · exact touches_afterBadStep _ r st rest .nvm (by decide)
  · exact touches_afterGoodStep _ r st rest .nvm (by decide)

theorem stepResult_program {a : Nat} {v w : Byte} {rb : Readback} (readback : (rb = .asMeant ∧ w = v) ∨ rb = .reads [w]) :
    ∃ ok, stepResult m (.program a v) rb = some (m.write erasedByte a w, ok) := by
  rcases readback with ⟨rfl, rfl⟩ | rfl
  · exact ⟨_, rfl⟩
  · exact ⟨_, rfl⟩

theorem stepLeaves_program (a : Nat) (v : Byte) (ok : Bool) : stepLeaves m job (.program a v) c ok = c := by
  unfold stepLeaves
  exact ite_self c

theorem byteAt_of_lt {bs : List Byte} {n : Nat} (h : n < bs.length) : byteAt bs n = bs[n] := by
  unfold byteAt
  rw [List.getD_eq_getElem?_getD, List.getElem?_eq_getElem h]
  rfl

theorem byteAt_replicate {n k : Nat} {v : Byte} (h : k < n) : byteAt (List.replicate n v) k = v := by
  rw [byteAt_of_lt (by rw [List.length_replicate]; exact h), List.getElem_replicate]

/-- The readback of an erase step: the unit reads as shown, and the erase is good when that is all 0xFF (R126). -/
structure EraseShows (m : Memory) (u : NvmUnit) (bs : List Byte) (c : Memory) (ok : Bool) : Prop where
  wf : c.wf erasedByte = true
  inside : ∀ b, b < u.size → c.read erasedByte (u.base + b) = byteAt bs b
  outside : ∀ x, x < u.base ∨ u.base + u.size ≤ x → c.read erasedByte x = m.read erasedByte x
  good : ok = true → ∀ b, b < u.size → byteAt bs b = erasedByte

theorem stepResult_erase (h : m.wf erasedByte = true) {u : NvmUnit} {bs : List Byte} {rb : Readback} (len : bs.length = u.size)
    (readback : (rb = .asMeant ∧ bs = List.replicate u.size 0xFF#8) ∨ rb = .reads bs) :
    ∃ c ok, stepResult m (.erase u) rb = some (c, ok) ∧ EraseShows m u bs c ok := by
  rcases readback with ⟨rfl, rfl⟩ | rfl
  · refine ⟨_, _, rfl, Memory.wf_clear h _ _, fun b hb => ?_, fun x hx => ?_, fun _ b hb => byteAt_replicate hb⟩
    · rw [Memory.read_clear h, if_pos (by omega), byteAt_replicate hb]
      rfl
    · rw [Memory.read_clear h, if_neg (by omega)]
  · refine ⟨_, _, if_pos len, Memory.wf_writeAll (Memory.wf_clear h _ _) _ _, fun b hb => ?_, fun x hx => ?_, fun all b hb => ?_⟩
    · rw [Memory.read_writeAll (Memory.wf_clear h _ _), dif_pos (by omega), byteAt_of_lt (by omega)]
      simp only [Nat.add_sub_cancel_left]
    · rw [Memory.read_writeAll (Memory.wf_clear h _ _), dif_neg (by omega), Memory.read_clear h, if_neg (by omega)]
    · rw [byteAt_of_lt (by omega)]
      exact beq_iff_eq.mp (List.all_eq_true.mp all _ (List.getElem_mem _))

theorem stepLeaves_scan (scan : job.isScan = true) (st : NvmStep) (ok : Bool) : stepLeaves m job st c ok = c := by
  unfold stepLeaves
  rw [scan, Bool.or_true]
  rfl

theorem marker_in_page (p : PageId) : (4 : Nat) < (NvmUnit.page p).size := (by decide : 4 < 1024)

theorem marker_in_key : (32 : Nat) < NvmUnit.key.size := by decide

/-- An erase that reads back erased shows no marker to settle, so outside a scan a step always leaves what settling leaves (R138). -/
theorem stepLeaves_erase {u : NvmUnit} {bs : List Byte} {ok : Bool} (shows : EraseShows m u bs c ok) (scan : job.isScan = false) :
    stepLeaves m job (.erase u) c ok = settleStep m job (.erase u) c := by
  unfold stepLeaves
  rw [scan, Bool.or_false]
  cases ok with
  | false => rfl
  | true =>
    have erased (b : Nat) (hb : b < u.size) : c.read erasedByte (u.base + b) = erasedByte :=
      (shows.inside b hb).trans (shows.good rfl b hb)
    match u with
    | .page p =>
      have unmarked : pageValid c p = false := beq_eq_false_iff_ne.mpr (by rw [completeMarkerAddress, erased 4 (marker_in_page p)]; decide)
      exact (if_pos unmarked).symm
    | .key =>
      have unmarked : keyMarked c = false := beq_eq_false_iff_ne.mpr (by rw [keyMarkerAddress, erased 32 marker_in_key]; decide)
      exact (if_neg fun h => Bool.false_ne_true (unmarked.symm.trans h.1)).symm

/-- Settling an erase changes nothing outside its unit. -/
theorem settleStep_erase_outside (h : c.wf erasedByte = true) {u : NvmUnit} {x : Nat} (out : x < u.base ∨ u.base + u.size ≤ x) :
    (settleStep m job (.erase u) c).read erasedByte x = c.read erasedByte x := by
  match u with
  | .page p =>
    have inPage := marker_in_page p
    have notHeader : ¬ ((NvmUnit.page p).base ≤ x ∧ x < (NvmUnit.page p).base + 4) := by omega
    have notMarker : x ≠ completeMarkerAddress p := by unfold completeMarkerAddress; omega
    refine (read_settlePage h job p x).trans ?_
    rw [if_neg notHeader, if_neg notMarker, ite_self, ite_self]
  | .key =>
    have inKey := marker_in_key
    refine (read_settleKey h x).trans (if_neg fun hit => ?_)
    have := hit.2.2
    unfold keyMarkerAddress at this
    omega

/-- What settling an erase leaves of a page (R138). -/
theorem read_settledPage {p : PageId} {bs : List Byte} {ok : Bool} (shows : EraseShows m (.page p) bs c ok) {b : Nat} (inPage : b < 1024) :
    (settleStep m job (.erase (.page p)) c).read erasedByte ((NvmUnit.page p).base + b) =
      if byteAt bs 4 ≠ 0x3C#8 then byteAt bs b
      else if m.read erasedByte ((NvmUnit.page p).base + 4) = 0x3C#8 ∧ job.forms ≠ some p then
        if b < 4 then m.read erasedByte ((NvmUnit.page p).base + b) else byteAt bs b
      else if b = 4 then erasedByte else byteAt bs b := by
  refine (read_settlePage shows.wf job p _).trans ?_
  simp only [completeMarkerAddress, shows.inside 4 (marker_in_page p), shows.inside b inPage, Nat.le_add_right, true_and,
    Nat.add_lt_add_iff_left, Nat.add_left_cancel_iff]

/-- What settling an erase leaves of the key area (R142). -/
theorem read_settledKey {bs : List Byte} {ok : Bool} (shows : EraseShows m .key bs c ok) {b : Nat} (inKey : b < 64) :
    (settleStep m job (.erase .key) c).read erasedByte (NvmUnit.key.base + b) =
      if b = 32 ∧ byteAt bs 32 = 0#8 ∧ m.read erasedByte (NvmUnit.key.base + 32) ≠ 0#8 then erasedByte else byteAt bs b := by
  refine (read_settleKey shows.wf _).trans ?_
  simp only [keyMarkerAddress, shows.inside 32 marker_in_key, shows.inside b inKey, Nat.add_left_cancel_iff]
  refine if_congr ⟨fun h => ⟨h.2.2, h.1, h.2.1⟩, fun h => ⟨h.2.1, h.2.2, h.1⟩⟩ rfl rfl

end

/-- Settles O47: a program step changes its byte; an erase its unit, as the readback shows it and the operation's settling leaves it. -/
theorem nvmStepsChangeOnlyTheirUnit : Obligations.NvmStepsChangeOnlyTheirUnit := by
  unfold Obligations.NvmStepsChangeOnlyTheirUnit
  refine ⟨fun rb s canonical => ⟨fun a v w current readback => ?_, fun r u bs run current len readback => ?_⟩,
    fun t ok => ⟨rfl, rfl, rfl, fun _ _ => rfl⟩⟩
  · obtain ⟨r, rest, run, steps, stepping⟩ := stepInProgress_run current
    obtain ⟨ok, result⟩ := stepResult_program (m := s.nvm) (a := a) readback
    obtain ⟨t, next, nvm⟩ := nvm_afterStep run stepping steps result
    refine ⟨t, next, fun x => ?_⟩
    rw [nvm, stepLeaves_program, Memory.read_write canonical]
  · obtain ⟨r', rest, run', steps, stepping⟩ := stepInProgress_run current
    obtain rfl : r' = r := Option.some.inj (run'.symm.trans run)
    obtain ⟨c, ok, result, shows⟩ := stepResult_erase canonical len readback
    obtain ⟨t, next, nvm⟩ := nvm_afterStep run stepping steps result
    refine ⟨t, next, fun x out => ?_, fun k scan b inUnit => ?_, fun noScan => ⟨?_, ?_⟩⟩
    · rw [nvm, ← shows.outside x out]
      cases scan : r'.job.isScan with
      | true => rw [stepLeaves_scan scan]
      | false => rw [stepLeaves_erase shows scan, settleStep_erase_outside shows.wf out]
    · dsimp only
      rw [nvm, stepLeaves_scan (isScan_iff.mpr ⟨k, scan⟩), shows.inside b inUnit]
    all_goals
      have scan : r'.job.isScan = false := Bool.eq_false_iff.mpr fun h => (isScan_iff.mp h).elim noScan
      rw [stepLeaves_erase shows scan] at nvm
      dsimp only
    · rintro rfl b inKey
      rw [nvm, read_settledKey shows inKey]
      rfl
    · rintro p rfl
      have left (b : Nat) (inPage : b < 1024) := (congrArg (·.read erasedByte ((NvmUnit.page p).base + b)) nvm).trans
        (read_settledPage shows inPage)
      rw [← forms_iff]
      refine ⟨fun unmarked b inPage => (left b inPage).trans (if_pos unmarked), fun marked was kept b inPage => ?_,
        fun marked cleared b inPage => ?_⟩
      · exact (left b inPage).trans ((if_neg (not_not.mpr marked)).trans (if_pos ⟨was, kept⟩))
      · exact (left b inPage).trans ((if_neg (not_not.mpr marked)).trans
          (if_neg fun h => cleared.elim (fun not => not h.1) h.2))

end Sys2Proof.Machine

/-! The supply watch (O51): R121, R145 to R149. -/

namespace Sys2Proof.Machine

section
variable {s : State}

/-! ## Comparing the voltage -/

theorem compareSupply_of_stays (stays : ¬ departs s s.pins.senseMv = true) :
    compareSupply s = s.withSupply { s.supply with filter := none } := if_neg stays

section
variable (departing : departs s s.pins.senseMv = true)
include departing

theorem compareSupply_of_running (runs : s.supply.filter.isSome = true) : compareSupply s = s :=
  (if_pos departing).trans (if_pos runs)

theorem compareSupply_of_filter (stopped : s.supply.filter = none) (filtered : s.params.supplyFilter ≠ 0) :
    compareSupply s = s.withSupply { s.supply with filter := some s.params.supplyFilter } :=
  (if_pos departing).trans ((if_neg (Option.not_isSome_iff_eq_none.mpr stopped)).trans (if_neg filtered))

theorem compareSupply_of_atOnce (stopped : s.supply.filter = none) (atOnce : s.params.supplyFilter = 0) :
    compareSupply s = changeSupply s :=
  (if_pos departing).trans ((if_neg (Option.not_isSome_iff_eq_none.mpr stopped)).trans (if_pos atOnce))

end

/-! ## The change of the state -/

theorem supply_queueRecord (r : Record) (s : State) : (queueRecord r s).supply = s.supply := touches_queueRecord s r .supply (by decide)

/-- A change to LOW resumes nothing (R146). -/
theorem changeSupply_of_ok (ok : s.supply.state = .ok) :
    changeSupply s = queueRecord (.supply .low) (s.withSupply { state := .low, filter := none }) := by
  unfold changeSupply
  rw [ok]
  exact if_neg (Bool.eq_false_iff.mp (supplyOk_of_low (congrArg Supply.state (supply_queueRecord _ _))))

/-- A change to OK starts the held work and the waiting NVM step (R121, R133). -/
theorem changeSupply_of_low (low : s.supply.state = .low) :
    changeSupply s = startStep (startAllHeld (queueRecord (.supply .ok) (s.withSupply { state := .ok, filter := none }))) := by
  unfold changeSupply
  rw [low]
  exact if_pos (supplyOk_of_ok (congrArg Supply.state (supply_queueRecord _ _)))

/-! ## Held work (R121) -/

/-- The streams and the ports in order. -/
theorem startAllHeld_eq (s : State) :
    startAllHeld s = servePort 3 (servePort 2 (servePort 1 (servePort 0 (startHeldWork 7 (startHeldWork 6 (startHeldWork 5
      (startHeldWork 4 (startHeldWork 3 (startHeldWork 2 (startHeldWork 1 (startHeldWork 0 s))))))))))) := by
  have ports : List.finRange 4 = [0, 1, 2, 3] := by decide
  have streams : List.finRange 8 = [0, 1, 2, 3, 4, 5, 6, 7] := by decide
  unfold startAllHeld
  rw [ports, streams]
  simp only [List.foldl_cons, List.foldl_nil]

variable {i : StreamNo}

theorem startHeldWork_of_resend {b : Nat} {k : SlotNo} (held : s.contexts[i].resendHeld = true)
    (stage : s.streams[i].stage = some ⟨.awaiting, b⟩) (slot : slotOf s i b = some k) :
    startHeldWork i s = ((s.setCtx i { s.contexts[i] with resendHeld := false }).setSlot k
      { s.slots[k] with state := .sending, nextFrame := some 0 }).setStream i { s.streams[i] with stage := some ⟨.sending, b⟩ } := by
  have same : slotOf (s.setCtx i { s.contexts[i] with resendHeld := false }) i b = some k := slot
  refine (if_pos held).trans ?_
  rw [stage]
  dsimp only [Option.map_some, Option.getD_some]
  unfold startResend
  rw [same]
  rfl

theorem startHeldWork_of_end {m : Accepted} (noResend : s.contexts[i].resendHeld = false) (held : s.contexts[i].startHeld = true)
    (man : s.streams[i].manifest = some m) :
    startHeldWork i s = (s.setCtx i { s.contexts[i] with startHeld := false }).setStream i
      { s.streams[i] with stage := some ⟨.sending, m.blockCount⟩ } := by
  refine (if_neg (Bool.eq_false_iff.mp noResend)).trans ((if_pos held).trans ?_)
  rw [← blockCount_of_manifest man]
  rfl

theorem startHeldWork_of_neither (noResend : s.contexts[i].resendHeld = false) (noStart : s.contexts[i].startHeld = false) :
    startHeldWork i s = startRelease i s :=
  (if_neg (Bool.eq_false_iff.mp noResend)).trans (if_neg (Bool.eq_false_iff.mp noStart))

end

/-- Settles O51: the movement below and above the reset level, the comparison, the change of the state, and the held work. -/
theorem theSupplyWatchFiltersDepartures : Obligations.TheSupplyWatchFiltersDepartures := by
  unfold Obligations.TheSupplyWatchFiltersDepartures
  refine ⟨fun mv s low => ⟨moveSense_below low s, moveSense_below low s⟩,
    fun mv s running high => ⟨moveSense_running high running, moveSense_running high running⟩, fun s => ?_,
    fun s runs => if_pos runs, fun s => ⟨changeSupply_of_ok, changeSupply_of_low, startAllHeld_eq s⟩, fun i s => ?_⟩
  · dsimp only
    rw [← departs_iff]
    exact ⟨fun departing => ⟨compareSupply_of_running departing,
      fun stopped filtered => compareSupply_of_filter departing stopped (Nat.pos_iff_ne_zero.mp filtered),
      compareSupply_of_atOnce departing⟩, compareSupply_of_stays⟩
  · refine ⟨fun held b k stage slot => startHeldWork_of_resend held stage slot,
      fun noResend held m man => startHeldWork_of_end noResend held man, fun noResend noStart => ?_⟩
    rw [startHeldWork_of_neither noResend noStart]
    exact ⟨fun k due => startRelease_of_due due, startRelease_of_none⟩

end Sys2Proof.Machine

/-! Layouts (O52): R23, R24, R46, R65, R88, R127, R143, R153, R166, R180, R181; sections 11.1 to 11.6. -/

namespace Sys2Proof.Machine

/-! ## Fields of a concatenation -/

section
variable (a : Byte) (l : List Byte) {n k : Nat} (v m : Nat)

@[simp] theorem byteAt_cons_zero : byteAt (a :: l) 0 = a := rfl

@[simp] theorem byteAt_cons_succ : byteAt (a :: l) (k + 1) = byteAt l k := rfl

@[simp] theorem byteAt_skip (h : n ≤ k) : byteAt (beBytes n v ++ l) k = byteAt l (k - n) := by
  unfold byteAt
  rw [List.getD_append_right _ _ _ _ (by rw [beBytes_length]; exact h), beBytes_length]

@[simp] theorem fieldAt_cons_succ : fieldAt (a :: l) (k + 1) m = fieldAt l k m := rfl

@[simp] theorem fieldAt_skip (h : n ≤ k) : fieldAt (beBytes n v ++ l) k m = fieldAt l (k - n) m := by
  unfold fieldAt
  rw [List.drop_append, beBytes_length, List.drop_eq_nil_of_le (by rw [beBytes_length]; exact h), List.nil_append]

@[simp] theorem fieldAt_head : fieldAt (beBytes n v ++ l) 0 n = v % 256 ^ n := beBytes_fieldAt [] l n v

@[simp] theorem fieldAt_whole : fieldAt (beBytes n v) 0 n = v % 256 ^ n := by
  rw [← List.append_nil (beBytes n v), fieldAt_head]

end

/-- A field that holds a word's value reads the word. -/
theorem toNat_mod_two_bytes (w : Word16) : w.toNat % 256 ^ 2 = w.toNat := Nat.mod_eq_of_lt w.isLt

theorem toNat_mod_four_bytes (w : Word32) : w.toNat % 256 ^ 4 = w.toNat := Nat.mod_eq_of_lt w.isLt

theorem beValue_cons (b : Byte) (bs : List Byte) : beValue (b :: bs) = b.toNat * 256 ^ bs.length + beValue bs := by
  rw [← List.singleton_append, beValue_append]
  congr 2
  exact Nat.zero_add _

/-- The fields of equally laid out values. -/
theorem fieldAt_flatMap_beBytes {xs : List Nat} {n : Nat} (h : n < xs.length) :
    fieldAt (xs.flatMap (beBytes 4)) (4 * n) 4 = xs[n] % 256 ^ 4 := by
  induction xs generalizing n with
  | nil => exact absurd h (Nat.not_lt_zero n)
  | cons x xs ih =>
    rw [List.flatMap_cons]
    cases n with
    | zero => exact fieldAt_head _ _
    | succ n =>
      rw [fieldAt_skip _ _ _ (by omega), show 4 * (n + 1) - 4 = 4 * n by omega, ih (Nat.lt_of_succ_lt_succ h)]
      rfl

/-! ## Frames and records -/

/-- The smallest valid data length that holds up to 64 bytes (R181). -/
theorem padding_spec : ∀ k : Fin 65, let n := (canFdLengths.find? (k.val ≤ ·)).getD k - k
    k.val + n ∈ canFdLengths ∧ ∀ v ∈ canFdLengths, k.val ≤ v → k.val + n ≤ v := by decide

theorem length_bytes (r : Record) : r.bytes.length = r.length := by
  cases r with
  | gap i b ps more => simp only [Record.bytes, Record.length, List.length_append, List.length_cons, List.length_nil, beBytes_length,
      List.length_map]
  | _ => rfl

theorem toNat_gapCountByte {m : Nat} (more : Bool) (small : m ≤ 16) : (gapCountByte m more).toNat = m + if more = true then 128 else 0 := by
  refine (BitVec.toNat_ofNat _ 8).trans (Nat.mod_eq_of_lt ?_)
  cases more
  · exact Nat.lt_of_le_of_lt small (by decide)
  · exact Nat.lt_of_le_of_lt (Nat.add_le_add_right small 128) (by decide)

/-! ## Marks that share a byte -/

/-- The bits of a STREAMS row's member byte that one lane gives: absent, a member, a quiet member. -/
def laneBits (l : Nat) : Option Bool → Nat
  | none => 0
  | some quiet => 2 ^ l + if quiet = true then 2 ^ (l + 4) else 0

/-- A lane's membership, as the member byte shows it. -/
def memberMark (x : Stream) (l : Lane) : Option Bool := x.members[l].map fun m => decide (m.state = .quiet)

theorem memberBits_eq (x : Stream) : memberBits x =
    laneBits 0 (memberMark x 0) + (laneBits 1 (memberMark x 1) + (laneBits 2 (memberMark x 2) + (laneBits 3 (memberMark x 3) + 0))) := by
  have bits (l : Lane) : (match x.members[l] with
      | some m => 2 ^ l.val + (if m.state = .quiet then 2 ^ (l.val + 4) else 0)
      | none => 0) = laneBits l.val (memberMark x l) := by
    unfold memberMark
    cases x.members[l] with
    | none => rfl
    | some m => simp only [Option.map_some, laneBits, decide_eq_true_eq]
  have lanes : List.finRange 4 = [0, 1, 2, 3] := by decide
  unfold memberBits
  rw [lanes]
  exact congrArg List.sum (List.map_congr_left fun l _ => bits l)

theorem laneBits_byte : ∀ a b c d : Option Bool,
    let v := byteOf (laneBits 0 a + (laneBits 1 b + (laneBits 2 c + (laneBits 3 d + 0))))
    ∀ l : Fin 4, v.getLsbD l = [a, b, c, d][l].isSome ∧ v.getLsbD (l + 4) = ([a, b, c, d][l] == some true) := by decide

theorem memberByte_spec (x : Stream) (l : Lane) :
    ((byteOf (memberBits x)).getLsbD l = true ↔ x.members[l].isSome = true) ∧
      ((byteOf (memberBits x)).getLsbD (l + 4) = true ↔ x.members[l].map Member.state = some .quiet) := by
  have mark : [memberMark x 0, memberMark x 1, memberMark x 2, memberMark x 3][l] = memberMark x l := by
    fin_cases l <;> rfl
  obtain ⟨low, high⟩ := laneBits_byte (memberMark x 0) (memberMark x 1) (memberMark x 2) (memberMark x 3) l
  rw [memberBits_eq, low, high, mark, memberMark]
  cases x.members[l] <;> simp

/-- The three marks of a LANES row (R65). -/
theorem laneMarks_byte : ∀ a b c : Bool,
    let v := byteOf ((if a = true then 1 else 0) + (if b = true then 2 else 0) + (if c = true then 4 else 0))
    v.getLsbD 0 = a ∧ v.getLsbD 1 = b ∧ v.getLsbD 2 = c ∧ v.toNat < 8 := by decide

/-- The two erased flags of a VERSIONS row (R143). -/
theorem erasedFlags_byte : ∀ a b : Bool, (byteOf ((if a = true then 1 else 0) + (if b = true then 2 else 0))).toNat =
    (if a = true then 1 else 0) + (if b = true then 2 else 0) := by decide

/-! ## Rows -/

section
variable {s : State}

theorem ofNat_stream (i : StreamNo) : Fin.ofNat 8 i.val = i := Fin.ext (Nat.mod_eq_of_lt i.isLt)

theorem ofNat_lane (l : Lane) : Fin.ofNat 4 l.val = l := Fin.ext (Nat.mod_eq_of_lt l.isLt)

theorem ofNat_slot (k : SlotNo) : Fin.ofNat 32 k.val = k := Fin.ext (Nat.mod_eq_of_lt k.isLt)

theorem tableRow_stream (s : State) (i : StreamNo) : tableRow s 0 i.val = streamRow s i := congrArg (streamRow s) (ofNat_stream i)

theorem tableRow_lane (s : State) (l : Lane) : tableRow s 1 l.val = laneRow s l := congrArg (laneRow s) (ofNat_lane l)

theorem tableRow_slot (s : State) (k : SlotNo) : tableRow s 2 k.val = slotRow s k := congrArg (slotRow s) (ofNat_slot k)

/-- The slots a stream holds, counted over the slots in order. -/
theorem slotsHeld_eq_countP (s : State) (i : StreamNo) :
    slotsHeld s i = (List.finRange 32).countP fun k => s.slots[k].holder.map Holder.stream = some i := by
  unfold slotsHeld
  rw [← List.countP_eq_length_filter]
  refine List.countP_congr fun k _ => ?_
  unfold Slot.heldBy
  cases s.slots[k].holder <;> simp

theorem length_snapshotRow {x : Snapshot} {n : Nat} (h : n < 12) : (snapshotRow x n).length = 40 := by
  have row (v : Vector Nat 10) : (v.toList.flatMap (beBytes 4)).length = 40 := by
    rw [List.length_flatMap, List.map_congr_left fun y _ => beBytes_length 4 y]
    simp
  unfold snapshotRow
  split
  · exact row _
  · rw [dif_pos (by omega)]
    exact row _

theorem length_rows (n : Nat) (s : State) :
    (tableRow s 0 n).length = 27 ∧ (tableRow s 1 n).length = 6 ∧ (tableRow s 2 n).length = 19 ∧
    (tableRow s 3 n).length = 39 ∧ (tableRow s 4 n).length = 3 ∧ (tableRow s 5 n).length = 24 ∧
    (n < 12 → (tableRow s 6 n).length = 40) ∧ (tableRow s 6 12).length = 8 := by
  refine ⟨rfl, rfl, rfl, ?_, ?_, ?_, length_snapshotRow, rfl⟩
  · simp [tableRow, manifestRow, beBytes_length, Memory.readAll, entrySize]
  · show (extentRow s n).length = 3
    unfold extentRow
    split <;> rfl
  · show (versionRow s.store n).length = 24
    unfold versionRow
    split <;> rfl

end

end Sys2Proof.Machine

/-! The rows of the seven tables, and the layouts (O52): R23, R24, R46, R65, R88, R143, R180; section 11.5. -/

namespace Sys2Proof.Machine

section
variable {s : State}

/-! ## Rows of items at their reset values -/

theorem streamRow_of_vacant {i : StreamNo} (vacant : s.streams[i] = Stream.vacant) (idle : s.contexts[i] = ReleaseCtx.idle)
    (holdsNone : slotsHeld s i = 0) : streamRow s i = List.replicate 27 0#8 := by
  unfold streamRow
  rw [vacant, idle, holdsNone]
  decide

theorem slotRow_of_free {k : SlotNo} (free : s.slots[k] = Slot.free) : slotRow s k = [0#8, 0xFF#8] ++ List.replicate 17 0#8 := by
  unfold slotRow
  rw [free]
  decide

/-! ## STREAMS, LANES, SLOTS -/

/-- The layout of a STREAMS row (R46). -/
theorem streamRow_fields (s : State) (i : StreamNo) :
    let row := streamRow s i
    let x := s.streams[i]
    (byteAt row 0 = x.state.code ∧ byteAt row 1 = causeCode x.cause) ∧
    (fieldAt row 2 2 = ((x.manifest.map fun a => a.target.toNat).getD 0) % 256 ^ 2 ∧
      byteAt row 4 = byteOf ((x.manifest.map fun a => a.port.val).getD 0) ∧ fieldAt row 5 2 = x.blockCount % 256 ^ 2 ∧
      fieldAt row 7 4 = ((x.manifest.map fun a => a.version.toNat).getD 0) % 256 ^ 4 ∧
      fieldAt row 11 4 = ((x.floorAtAcceptance.map BitVec.toNat).getD 0) % 256 ^ 4) ∧
    (byteAt row 15 = byteOf (memberBits x) ∧ byteAt row 16 = byteOf x.window ∧ byteAt row 17 = flagByte x.reservationHeld ∧
      fieldAt row 18 2 = x.lowEdge % 256 ^ 2 ∧ byteAt row 20 = byteOf x.stallCount ∧ byteAt row 21 = byteOf (slotsHeld s i)) ∧
    (byteAt row 22 = stageByte x.stage ∧ fieldAt row 23 2 = ((x.stage.map Stage.block).getD 0) % 256 ^ 2 ∧
      byteAt row 25 = byteOf s.contexts[i].endRetry ∧ byteAt row 26 = byteOf s.contexts[i].endBusy) := by
  unfold streamRow
  simp

theorem streamRow_of_noManifest {i : StreamNo} (none : s.streams[i].manifest = none) :
    ((streamRow s i).drop 2).take 9 = List.replicate 9 0#8 := by
  unfold streamRow Stream.blockCount
  dsimp only
  rw [none]
  rfl

/-- The layout of a LANES row (R65). -/
theorem laneRow_fields (s : State) (l : Lane) :
    let row := laneRow s l
    let x := s.lanes[l]
    ((byteAt row 0).getLsbD 0 = s.params.laneEnable.getLsbD l ∧ (byteAt row 0).getLsbD 1 = s.params.controlLanes.getLsbD l ∧
      ((byteAt row 0).getLsbD 2 = true ↔ s.params.reportLane = l) ∧ (byteAt row 0).toNat < 8) ∧
    byteAt row 1 = x.integrity.code ∧ byteAt row 2 = byteOf x.faults ∧ byteAt row 3 = byteOf x.good ∧
    byteAt row 4 = flagByte x.quarantine.isSome ∧ byteAt row 5 = byteOf x.queue.length := by
  obtain ⟨enabled, control, report, small⟩ :=
    laneMarks_byte (s.params.laneEnable.getLsbD l) (s.params.controlLanes.getLsbD l) (decide (s.params.reportLane = l))
  simp only [decide_eq_true_eq] at enabled control report small
  refine ⟨⟨enabled, control, ?_, small⟩, rfl, rfl, rfl, rfl, rfl⟩
  exact (Bool.eq_iff_iff.mp report).trans decide_eq_true_iff

/-- The layout of a SLOTS row (R88). -/
theorem slotRow_fields (s : State) (k : SlotNo) :
    let row := slotRow s k
    let x := s.slots[k]
    (byteAt row 0 = x.state.code ∧ byteAt row 1 = (x.holder.map fun h => byteOf h.stream).getD 0xFF#8 ∧
      fieldAt row 2 2 = ((x.holder.map Holder.block).getD 0) % 256 ^ 2 ∧
      byteAt row 4 = byteOf ((x.holder.map Holder.expected).getD 0)) ∧
    fieldAt row 5 8 = x.filled.toNat % 256 ^ 8 ∧ fieldAt row 13 2 = x.byteCount % 256 ^ 2 ∧ byteAt row 15 = byteOf x.failCount ∧
    byteAt row 16 = byteOf x.retryCount ∧ byteAt row 17 = byteOf x.busyCount ∧ byteAt row 18 = byteOf (x.nextFrame.getD 0) := by
  unfold slotRow
  simp

/-! ## MANIFEST and EXTENTS -/

/-- Under the extent law an extent has one owner and one place (R3, R24). -/
theorem extentOwner_of_place (law : ExtentLaw s) {i : StreamNo} {place e : Nat} (at_place : s.manifests[i].extents[place]? = some e) :
    extentOwner s e = some (i, place) := by
  obtain ⟨lists, disjoint⟩ := law
  obtain ⟨inside, rfl⟩ := List.getElem?_eq_some_iff.mp at_place
  have mine : s.manifests[i].extents[place] ∈ s.manifests[i].extents := List.getElem_mem inside
  have found : ((List.finRange 8).find? fun j => s.manifests[j].extents.contains s.manifests[i].extents[place]) = some i := by
    cases search : (List.finRange 8).find? fun j => s.manifests[j].extents.contains s.manifests[i].extents[place] with
    | none => exact absurd (List.contains_iff_mem.mpr mine) (List.find?_eq_none.mp search i (List.mem_finRange i))
    | some j =>
      have held := List.find?_some (p := fun j : StreamNo => s.manifests[j].extents.contains s.manifests[i].extents[place]) search
      rw [disjoint i j _ mine (List.contains_iff_mem.mp held)]
  unfold extentOwner
  rw [found, Option.map_some, (lists i).1.idxOf_getElem place inside]

theorem extentOwner_of_unlisted {e : Nat} (unlisted : ∀ i : StreamNo, e ∉ s.manifests[i].extents) : extentOwner s e = none := by
  have search : ((List.finRange 8).find? fun j => s.manifests[j].extents.contains e) = none :=
    List.find?_eq_none.mpr fun j _ held => unlisted j (List.contains_iff_mem.mp held)
  unfold extentOwner
  rw [search]
  rfl

/-- The layout of a MANIFEST row (R23). -/
theorem manifestRow_fields (s : State) (e : Nat) :
    let row := manifestRow s e
    let owner := extentOwner s (e / 64)
    byteAt row 0 = (entryMark s e).code ∧ byteAt row 1 = (owner.map fun x => byteOf x.1).getD 0xFF#8 ∧
    fieldAt row 2 2 = (if entryMark s e = .free ∨ entryMark s e = .spare then 0
      else (owner.map fun x => x.2 * 64 + e % 64).getD 0) % 256 ^ 2 ∧
    byteAt row 4 = s.entryCounts.read 0 e ∧ ∀ b, b < 34 → byteAt row (5 + b) = entryByte s e b := by
  refine ⟨rfl, rfl, ?_, ?_, fun b inside => ?_⟩
  · unfold manifestRow
    simp [extentEntries]
  · unfold manifestRow
    simp
  · unfold manifestRow
    rw [Nat.add_comm]
    refine Eq.trans ?_ (getElem_readAll 0 s.entryBytes (entryAddress e 0) 34 b inside)
    rfl

section
variable {e : Nat}

theorem entryMark_of_unowned (unowned : extentOwner s (e / 64) = none) : entryMark s e = .free := by
  unfold entryMark
  rw [extentEntries, unowned]

variable {i : StreamNo} {place n : Nat} (owned : extentOwner s (e / 64) = some (i, place))
  (declared : s.manifests[i].declaredBlocks = some n)
include owned declared

theorem entryMark_of_owned : entryMark s e =
    if n ≤ 64 * place + e % 64 then .spare
    else if s.streams[i].manifest.isSome then .accepted
    else if (s.entryCounts.read 0 e).toNat < 34 then .partially
    else .loaded := by
  unfold entryMark
  rw [extentEntries, owned]
  dsimp only
  rw [declared, Option.getD_some, Nat.mul_comm place, entrySize]

end

/-! ## VERSIONS -/

/-- The layout of the store summary (R143). -/
theorem storeSummary_fields (t : Store) (head : List Byte) (length : head.length = 15) :
    let row := head ++ storeSummary t
    byteAt row 15 = pageCode t.activePage ∧ fieldAt row 16 4 = ((t.activeSeq.map BitVec.toNat).getD 0) % 256 ^ 4 ∧
    byteAt row 20 = byteOf t.appendPos ∧
    byteAt row 21 = byteOf ((if t.erasedA = true then 1 else 0) + (if t.erasedB = true then 2 else 0)) ∧
    byteAt row 22 = t.keyState.code ∧ byteAt row 23 = byteOf t.ops.length := by
  have byte (k : Nat) : byteAt (head ++ storeSummary t) (15 + k) = byteAt (storeSummary t) k := by
    unfold byteAt
    rw [List.getD_append_right _ _ _ _ (by omega), length, Nat.add_sub_cancel_left]
  have field (k m : Nat) : fieldAt (head ++ storeSummary t) (15 + k) m = fieldAt (storeSummary t) k m := by
    unfold fieldAt
    rw [List.drop_append, length, Nat.add_sub_cancel_left, List.drop_eq_nil_of_le (by omega), List.nil_append]
  refine ⟨byte 0, (field 1 4).trans ?_, byte 5, byte 6, byte 7, byte 8⟩
  unfold storeSummary
  simp

/-- A governing record's part of a VERSIONS row. -/
def governingBytes (g : GovRow) : List Byte :=
  [1#8] ++ beBytes 2 g.record.target.toNat ++ beBytes 4 g.record.version.toNat ++ beBytes 4 g.record.floor.toNat
    ++ beBytes 2 g.record.count ++ [pageCode (some g.page), byteOf g.slot]

theorem versionRow_of_some {t : Store} {n : Nat} {g : GovRow} (row : t.governing[n]? = some g) :
    versionRow t n = governingBytes g ++ storeSummary t := by
  unfold versionRow
  rw [row]
  rfl

theorem versionRow_of_none {t : Store} {n : Nat} (row : t.governing[n]? = none) :
    versionRow t n = List.replicate 15 0#8 ++ storeSummary t := by
  unfold versionRow
  rw [row]

theorem governingBytes_fields (g : GovRow) (rest : List Byte) :
    let row := governingBytes g ++ rest
    byteAt row 0 = 1#8 ∧ fieldAt row 1 2 = g.record.target.toNat ∧ fieldAt row 3 4 = g.record.version.toNat ∧
    fieldAt row 7 4 = g.record.floor.toNat ∧ fieldAt row 11 2 = g.record.count % 65536 ∧
    byteAt row 13 = pageCode (some g.page) ∧ byteAt row 14 = byteOf g.slot := by
  rw [← toNat_mod_two_bytes g.record.target, ← toNat_mod_four_bytes g.record.version, ← toNat_mod_four_bytes g.record.floor]
  unfold governingBytes
  simp

/-! ## SNAPSHOT -/

theorem fieldAt_counters (row : Vector Nat 10) (n : Fin 10) :
    fieldAt (row.toList.flatMap (beBytes 4)) (4 * n) 4 = row[n] % 4294967296 := by
  have inside : n.val < row.toList.length := by rw [Vector.length_toList]; exact n.isLt
  rw [fieldAt_flatMap_beBytes inside, Vector.getElem_toList]
  rfl

theorem snapshotRow_lane (x : Snapshot) (l : Lane) : snapshotRow x l.val = x.counters.lanes[l].toList.flatMap (beBytes 4) :=
  dif_pos l.isLt

theorem snapshotRow_stream (x : Snapshot) (i : StreamNo) : snapshotRow x (4 + i.val) = x.counters.streams[i].toList.flatMap (beBytes 4) := by
  unfold snapshotRow
  rw [dif_neg (by omega), dif_pos (by omega)]
  simp only [Nat.add_sub_cancel_left]
  rfl

end

/-! ## The rows as they are stated -/

theorem streamRow_stated (i : StreamNo) (s : State) :
    let row := tableRow s 0 i.val
    let x := s.streams[i]
    byteAt row 0 = x.state.code ∧ byteAt row 1 = causeCode x.cause ∧
    (∀ m, x.manifest = some m → fieldAt row 2 2 = m.target.toNat ∧ byteAt row 4 = byteOf m.port ∧
      fieldAt row 5 2 = m.blockCount % 65536 ∧ fieldAt row 7 4 = m.version.toNat) ∧
    (x.manifest = none → (row.drop 2).take 9 = List.replicate 9 0#8) ∧
    (∀ f, x.floorAtAcceptance = some f → fieldAt row 11 4 = f.toNat) ∧
    (x.floorAtAcceptance = none → fieldAt row 11 4 = 0) ∧
    (∀ l : Lane, ((byteAt row 15).getLsbD l = true ↔ x.members[l].isSome = true) ∧
      ((byteAt row 15).getLsbD (l + 4) = true ↔ x.members[l].map Member.state = some .quiet)) ∧
    byteAt row 16 = byteOf x.window ∧ byteAt row 17 = (if x.reservationHeld = true then 1#8 else 0#8) ∧
    fieldAt row 18 2 = x.lowEdge % 65536 ∧ byteAt row 20 = byteOf x.stallCount ∧
    byteAt row 21 = byteOf ((List.finRange 32).countP fun k => s.slots[k].holder.map Holder.stream = some i) ∧
    (x.stage = none → byteAt row 22 = 0#8 ∧ fieldAt row 23 2 = 0) ∧
    (∀ b, x.stage = some ⟨.sending, b⟩ → byteAt row 22 = 1#8 ∧ fieldAt row 23 2 = b % 65536) ∧
    (∀ b, x.stage = some ⟨.awaiting, b⟩ → byteAt row 22 = 2#8 ∧ fieldAt row 23 2 = b % 65536) ∧
    byteAt row 25 = byteOf s.contexts[i].endRetry ∧ byteAt row 26 = byteOf s.contexts[i].endBusy := by
  obtain ⟨⟨state, cause⟩, ⟨target, port, count, version, floor⟩, ⟨members, window, held, edge, stall, slots⟩, stage, block, retry, busy⟩ :=
    streamRow_fields s i
  rw [slotsHeld_eq_countP] at slots
  dsimp only
  rw [tableRow_stream]
  refine ⟨state, cause, fun m man => ?_, streamRow_of_noManifest, fun f accepted => ?_, fun none => ?_, fun l => ?_, window, held, edge,
    stall, slots, fun none => ?_, fun b sending => ?_, fun b awaiting => ?_, retry, busy⟩
  · rw [man] at target port version
    rw [blockCount_of_manifest man] at count
    exact ⟨target.trans (toNat_mod_two_bytes _), port, count, version.trans (toNat_mod_four_bytes _)⟩
  · rw [accepted] at floor
    exact floor.trans (toNat_mod_four_bytes _)
  · rw [none] at floor
    exact floor
  · rw [members]
    exact memberByte_spec _ l
  · rw [none] at stage block
    exact ⟨stage, block⟩
  · rw [sending] at stage block
    exact ⟨stage, block⟩
  · rw [awaiting] at stage block
    exact ⟨stage, block⟩

theorem slotRow_stated (k : SlotNo) (s : State) :
    let row := tableRow s 2 k.val
    let x := s.slots[k]
    byteAt row 0 = x.state.code ∧
    (∀ h, x.holder = some h → byteAt row 1 = byteOf h.stream ∧ fieldAt row 2 2 = h.block % 65536 ∧
      byteAt row 4 = byteOf h.expected) ∧
    (x.holder = none → byteAt row 1 = 0xFF#8 ∧ fieldAt row 2 2 = 0 ∧ byteAt row 4 = 0#8) ∧
    fieldAt row 5 8 = x.filled.toNat ∧ fieldAt row 13 2 = x.byteCount % 65536 ∧ byteAt row 15 = byteOf x.failCount ∧
    byteAt row 16 = byteOf x.retryCount ∧ byteAt row 17 = byteOf x.busyCount ∧
    (∀ j, x.nextFrame = some j → byteAt row 18 = byteOf j) ∧ (x.nextFrame = none → byteAt row 18 = 0#8) := by
  obtain ⟨⟨state, stream, block, expected⟩, filled, count, fails, retries, busy, next⟩ := slotRow_fields s k
  dsimp only
  rw [tableRow_slot]
  refine ⟨state, fun h holder => ?_, fun none => ?_, filled.trans (Nat.mod_eq_of_lt s.slots[k].filled.isLt), count, fails, retries, busy,
    fun j frame => ?_, fun none => ?_⟩
  · rw [holder] at stream block expected
    exact ⟨stream, block, expected⟩
  · rw [none] at stream block expected
    exact ⟨stream, block, expected⟩
  · rw [frame] at next
    exact next
  · rw [none] at next
    exact next

theorem manifestRow_stated (e : Nat) (s : State) (law : ExtentLaw s) :
    let row := tableRow s 3 e
    byteAt row 4 = s.entryCounts.read 0 e ∧ (∀ b, b < 34 → byteAt row (5 + b) = entryByte s e b) ∧
    ((∀ i : StreamNo, e / 64 ∉ s.manifests[i].extents) →
      byteAt row 0 = 0#8 ∧ byteAt row 1 = 0xFF#8 ∧ fieldAt row 2 2 = 0) ∧
    ∀ (i : StreamNo) (place n : Nat), s.manifests[i].extents[place]? = some (e / 64) →
      s.manifests[i].declaredBlocks = some n →
      let j := 64 * place + e % 64
      byteAt row 1 = byteOf i ∧
      (n ≤ j → byteAt row 0 = 1#8 ∧ fieldAt row 2 2 = 0) ∧
      (j < n → fieldAt row 2 2 = j % 65536 ∧
        (s.streams[i].manifest.isSome = true → byteAt row 0 = 4#8) ∧
        (s.streams[i].manifest = none → (s.entryCounts.read 0 e).toNat < 34 → byteAt row 0 = 2#8) ∧
        (s.streams[i].manifest = none → 34 ≤ (s.entryCounts.read 0 e).toNat → byteAt row 0 = 3#8)) := by
  obtain ⟨mark, owner, block, count, bytes⟩ := manifestRow_fields s e
  refine ⟨count, bytes, fun unlisted => ?_, fun i place n at_place declared => ?_⟩
  · have unowned := extentOwner_of_unlisted unlisted
    rw [entryMark_of_unowned unowned] at mark block
    rw [unowned] at owner
    exact ⟨mark, owner, block⟩
  · have owned := extentOwner_of_place law at_place
    have marks := entryMark_of_owned owned declared
    rw [owned] at owner block
    refine ⟨owner, fun spare => ?_, fun inside => ?_⟩
    · rw [marks, if_pos spare] at mark block
      exact ⟨mark, block⟩
    · rw [if_neg (Nat.not_le.mpr inside)] at marks
      have used : ¬ (entryMark s e = .free ∨ entryMark s e = .spare) := by
        rw [marks]
        split_ifs <;> decide
      rw [if_neg used, Option.map_some, Option.getD_some, Nat.mul_comm place] at block
      rw [marks] at mark
      refine ⟨block, fun accepted => ?_, fun loading few => ?_, fun loading all => ?_⟩
      · rw [if_pos accepted] at mark
        exact mark
      · rw [if_neg (Option.not_isSome_iff_eq_none.mpr loading), if_pos few] at mark
        exact mark
      · rw [if_neg (Option.not_isSome_iff_eq_none.mpr loading), if_neg (Nat.not_lt.mpr all)] at mark
        exact mark

theorem extentRow_of_place {s : State} (law : ExtentLaw s) {i : StreamNo} {e place n : Nat}
    (at_place : s.manifests[i].extents[place]? = some e) (declared : s.manifests[i].declaredBlocks = some n) :
    extentRow s e = [byteOf i, byteOf place, byteOf (if 64 ≤ n - 64 * place then 64 else n - 64 * place)] := by
  unfold extentRow
  rw [extentOwner_of_place law at_place]
  dsimp only
  rw [declared, Option.getD_some, extentEntries, Nat.min_def]

theorem versionRow_stated (n : Nat) (s : State) :
    let row := tableRow s 5 n
    let t := s.store
    (∀ g, t.governing[n]? = some g → byteAt row 0 = 1#8 ∧ fieldAt row 1 2 = g.record.target.toNat ∧
      fieldAt row 3 4 = g.record.version.toNat ∧ fieldAt row 7 4 = g.record.floor.toNat ∧
      fieldAt row 11 2 = g.record.count % 65536 ∧ byteAt row 13 = (if g.page = .a then 1#8 else 2#8) ∧
      byteAt row 14 = byteOf g.slot) ∧
    (t.governing[n]? = none → row.take 15 = List.replicate 15 0#8) ∧
    (t.activePage = none → byteAt row 15 = 0#8) ∧ (t.activePage = some .a → byteAt row 15 = 1#8) ∧
    (t.activePage = some .b → byteAt row 15 = 2#8) ∧
    (∀ q, t.activeSeq = some q → fieldAt row 16 4 = q.toNat) ∧ (t.activeSeq = none → fieldAt row 16 4 = 0) ∧
    byteAt row 20 = byteOf t.appendPos ∧
    (byteAt row 21).toNat = (if t.erasedA = true then 1 else 0) + (if t.erasedB = true then 2 else 0) ∧
    byteAt row 22 = t.keyState.code ∧ byteAt row 23 = byteOf t.ops.length := by
  obtain ⟨head, length, split⟩ : ∃ head, head.length = 15 ∧ versionRow s.store n = head ++ storeSummary s.store := by
    cases row : s.store.governing[n]? with
    | none => exact ⟨_, rfl, versionRow_of_none row⟩
    | some g => exact ⟨_, rfl, versionRow_of_some row⟩
  obtain ⟨page, sequence, position, erased, key, queue⟩ := storeSummary_fields s.store head length
  rw [← split] at page sequence position erased key queue
  refine ⟨fun g row => ?_, fun row => ?_, fun none => ?_, fun a => ?_, fun b => ?_, fun q some => ?_, fun none => ?_, position, ?_, key, queue⟩
  · have code : pageCode (some g.page) = if g.page = .a then 1#8 else 2#8 := by cases g.page <;> rfl
    have fields := governingBytes_fields g (storeSummary s.store)
    rw [← versionRow_of_some row, code] at fields
    exact fields
  · exact (congrArg (List.take 15) (versionRow_of_none row)).trans (List.take_left (l₁ := List.replicate 15 0#8))
  · rw [none] at page
    exact page
  · rw [a] at page
    exact page
  · rw [b] at page
    exact page
  · rw [some] at sequence
    exact sequence.trans (toNat_mod_four_bytes q)
  · rw [none] at sequence
    exact sequence
  · exact (congrArg BitVec.toNat erased).trans (erasedFlags_byte s.store.erasedA s.store.erasedB)

/-- Settles O52: field by field, the layout of frames, codes, records and rows. -/
theorem layoutsAreAsStated : Obligations.LayoutsAreAsStated := by
  unfold Obligations.LayoutsAreAsStated
  refine ⟨⟨fun n v => ⟨beBytes_length n v, beValue_beBytes n v, BitVec.toNat_ofNat n 8⟩, beValue_cons⟩, fun bs small => ?_,
    fun tag code st data => rfl, ⟨rfl, rfl, rfl, rfl, rfl, rfl, rfl, rfl, rfl, rfl⟩,
    ⟨length_bytes, fun _ _ _ => rfl, fun _ _ _ => rfl, fun _ _ _ => rfl,
      fun i b ps more few => ⟨gapCountByte ps.length more, toNat_gapCountByte more few, rfl⟩,
      fun _ _ => rfl, fun _ _ _ => rfl, fun _ => rfl, fun _ _ _ _ => rfl, fun _ _ => rfl⟩,
    recordBytes_reads, length_rows,
    ⟨fun i s vacant idle none => ?_, fun k s free => ?_, fun e s inside unlisted => ?_⟩,
    ⟨streamRow_stated, fun l s => ?_, slotRow_stated⟩,
    fun e s inside law => manifestRow_stated e s law,
    fun e s inside law i place n at_place declared => extentRow_of_place law at_place declared,
    versionRow_stated, fun s => ⟨fun l n => ?_, fun i n => ?_, ?_, ?_, rfl, rfl⟩⟩
  · exact ⟨_, rfl, padding_spec ⟨bs.length, Nat.lt_succ_of_le small⟩⟩
  · exact (tableRow_stream s i).trans (streamRow_of_vacant vacant idle ((slotsHeld_eq_zero_iff s i).mpr none))
  · exact (tableRow_slot s k).trans (slotRow_of_free free)
  · show extentRow s e = _
    unfold extentRow
    rw [extentOwner_of_unlisted unlisted]
  · dsimp only
    rw [tableRow_lane]
    exact laneRow_fields s l
  · show fieldAt (snapshotRow s.snapshot l.val) _ _ = _
    rw [snapshotRow_lane, fieldAt_counters]
  · show fieldAt (snapshotRow s.snapshot (4 + i.val)) _ _ = _
    rw [snapshotRow_stream, fieldAt_counters]
  · exact fieldAt_head _ _
  · exact (fieldAt_skip _ _ _ (Nat.le_refl 4)).trans (fieldAt_whole _)

end Sys2Proof.Machine

/-! A power-on reset (O5): R126, R133, R139, R142, R148. -/

namespace Sys2Proof.Machine

section
variable {s : State} {m c : Memory} {n : Nat} {job : NvmJob}

theorem noScan_of (other : ∀ k, job ≠ .scan k) : job.isScan = false :=
  Bool.eq_false_iff.mpr fun scan => (isScan_iff.mp scan).elim other

/-! ## A cut program step -/

/-- The cut step has left what it was filling all 0xFF, and is no scrub: it must leave a trace (R139, R142). -/
def Traceless (m : Memory) (n : Nat) (job : NvmJob) (a first length : Nat) : Prop :=
  (∀ k, job ≠ .scan k) ∧ ∀ b, first ≤ b → b < first + length → (if b = a then Config.freeByte n else m.read erasedByte b) = 0xFF#8

theorem traceless_iff (h : m.wf erasedByte = true) (a : Nat) (v : Byte) :
    Traceless m n job a (NvmStep.program a v).trace.1 (NvmStep.program a v).trace.2 ↔ job.isScan = false ∧ ∀ b,
      b < (NvmStep.program a v).trace.2 →
        (unknownStep m n (.program a v)).read erasedByte ((NvmStep.program a v).trace.1 + b) = erasedByte := by
  have reads (x : Nat) := read_unknownProgram h n a v x
  refine and_congr ⟨noScan_of, fun noScan k scan => ?_⟩ ⟨fun clear b inside => ?_, fun clear b low high => ?_⟩
  · exact absurd (isScan_iff.mpr ⟨k, scan⟩) (Bool.eq_false_iff.mp noScan)
  · exact (reads _).trans (clear _ (Nat.le_add_right _ _) (Nat.add_lt_add_left inside _))
  · have := clear (b - (NvmStep.program a v).trace.1) (by omega)
    rw [Nat.add_sub_cancel' low] at this
    exact (reads b).symm.trans this

theorem trace_program (a : Nat) (v : Byte) :
    (NvmStep.program a v).trace.1 = (if a < 2048 then a - a % 16 else 2048) ∧
      (NvmStep.program a v).trace.2 = (if a < 2048 then 16 else 64) := by
  by_cases page : a < 2048
  · rw [if_pos page, if_pos page]
    have trace : (NvmStep.program a v).trace = (a - a % 16, 16) := if_pos page
    exact ⟨congrArg Prod.fst trace, congrArg Prod.snd trace⟩
  · rw [if_neg page, if_neg page]
    have trace : (NvmStep.program a v).trace = (2048, 64) := if_neg page
    exact ⟨congrArg Prod.fst trace, congrArg Prod.snd trace⟩

/-- What a cut program step leaves: its byte alone is changed, to a free value or to the trace. -/
theorem read_cutProgram (h : m.wf erasedByte = true) (a : Nat) (v : Byte) {first length : Nat}
    (atFirst : first = if a < 2048 then a - a % 16 else 2048) (atLength : length = if a < 2048 then 16 else 64) :
    (∀ b, b ≠ a → (cutStep m n job (.program a v)).read erasedByte b = m.read erasedByte b) ∧
    (Traceless m n job a first length → (cutStep m n job (.program a v)).read erasedByte a = 0x00#8) ∧
    (¬ Traceless m n job a first length → (cutStep m n job (.program a v)).read erasedByte a = Config.freeByte n) := by
  obtain ⟨trace1, trace2⟩ := trace_program a v
  rw [atFirst, atLength, ← trace1, ← trace2, traceless_iff h]
  have wf := wf_unknownStep h n (.program a v)
  have own : (unknownStep m n (.program a v)).read erasedByte a = Config.freeByte n := (read_unknownProgram h n a v a).trans (if_pos rfl)
  refine ⟨leaves_cutStep h n (.program a v), fun clear => ?_, fun shown => ?_⟩
  · exact (read_leaveTrace wf job _ a).trans (if_pos ⟨clear.1, clear.2, rfl⟩)
  · exact (read_leaveTrace wf job _ a).trans ((if_neg fun h => shown ⟨h.1, h.2.1⟩).trans own)

/-! ## A cut erase step -/

theorem byteAt_unknownBytes {start length b : Nat} (h : b < length) : byteAt (unknownBytes start length) b = Config.freeByte (start + b) := by
  have inside : b < (unknownBytes start length).length := by
    unfold unknownBytes
    rw [List.length_map, List.length_range]
    exact h
  rw [byteAt_of_lt inside, getElem_unknownBytes]

/-- A cut erase leaves free values before they are settled (R126). -/
theorem unknownErase_shows (h : m.wf erasedByte = true) (n : Nat) (u : NvmUnit) :
    EraseShows m u (unknownBytes n u.size) (unknownStep m n (.erase u)) false where
  wf := wf_unknownStep h n _
  inside b hb := by rw [read_unknownErase h, if_pos (by omega), Nat.add_sub_cancel_left, byteAt_unknownBytes hb]
  outside x hx := by rw [read_unknownErase h, if_neg (by omega)]
  good := nofun

theorem size_pos (u : NvmUnit) : 0 < u.size := by
  match u with
  | .page _ => exact (by decide : 0 < 1024)
  | .key => decide

/-- The trace is in the last byte alone. -/
theorem read_cutErase_below (h : m.wf erasedByte = true) (u : NvmUnit) {b : Nat} (below : b + 1 < u.size) :
    (cutStep m n job (.erase u)).read erasedByte (u.base + b) =
      (settleStep m job (.erase u) (unknownStep m n (.erase u))).read erasedByte (u.base + b) := by
  refine (read_leaveTrace (wf_settleStep (wf_unknownStep h n _) job _) job _ _).trans (if_neg fun hit => ?_)
  have last : u.base + b = u.base + u.size - 1 := hit.2.2
  omega

/-- Settling keeps the last byte of a unit. -/
theorem read_settledErase_last (h : m.wf erasedByte = true) (u : NvmUnit) :
    (settleStep m job (.erase u) (unknownStep m n (.erase u))).read erasedByte (u.base + (u.size - 1)) = Config.freeByte (n + (u.size - 1)) := by
  have inside : u.size - 1 < u.size := Nat.sub_lt (size_pos u) Nat.one_pos
  have shows := unknownErase_shows h n u
  refine Eq.trans ?_ ((shows.inside _ inside).trans (byteAt_unknownBytes inside))
  match u with
  | .page p =>
    have high : 4 < (NvmUnit.page p).size - 1 := (by decide : 4 < 1024 - 1)
    have noHeader : ¬ ((NvmUnit.page p).base ≤ (NvmUnit.page p).base + ((NvmUnit.page p).size - 1) ∧
        (NvmUnit.page p).base + ((NvmUnit.page p).size - 1) < (NvmUnit.page p).base + 4) :=
      fun hit => absurd (Nat.lt_of_add_lt_add_left hit.2) (Nat.not_lt.mpr (Nat.le_of_lt high))
    have noMarker : (NvmUnit.page p).base + ((NvmUnit.page p).size - 1) ≠ completeMarkerAddress p :=
      fun hit => absurd (Nat.add_left_cancel hit) (Nat.ne_of_gt high)
    refine (read_settlePage shows.wf job p _).trans ?_
    rw [if_neg noHeader, if_neg noMarker, ite_self, ite_self]
  | .key =>
    have high : 32 < NvmUnit.key.size - 1 := by decide
    exact (read_settleKey shows.wf _).trans (if_neg fun hit => absurd (Nat.add_left_cancel hit.2.2) (Nat.ne_of_gt high))

theorem read_cutErase_last (h : m.wf erasedByte = true) (u : NvmUnit) :
    (cutStep m n job (.erase u)).read erasedByte (u.base + (u.size - 1)) = Config.freeByte (n + (u.size - 1)) ∨
      (cutStep m n job (.erase u)).read erasedByte (u.base + (u.size - 1)) = 0x00#8 := by
  unfold cutStep
  rw [read_leaveTrace (wf_settleStep (wf_unknownStep h n (.erase u)) job (.erase u))]
  split_ifs
  · exact .inr rfl
  · exact .inl (read_settledErase_last h u)

/-- A cut erase of an operation that is no scan leaves a byte that is not 0xFF (R139, R142). -/
theorem cutErase_traced (h : m.wf erasedByte = true) (u : NvmUnit) (other : ∀ k, job ≠ .scan k) :
    ∃ b, b < u.size ∧ (cutStep m n job (.erase u)).read erasedByte (u.base + b) ≠ 0xFF#8 := by
  have pos := size_pos u
  refine leaveTrace_traced (wf_settleStep (wf_unknownStep h n _) job _) (noScan_of other) (.erase u) ⟨?_, ?_⟩
  · show u.base ≤ u.base + u.size - 1
    omega
  · show u.base + u.size - 1 < u.base + u.size
    omega

/-- What a cut erase leaves of the key area (R142). -/
theorem cutKey_shows (h : m.wf erasedByte = true) :
    let after (b : Nat) : Byte := (cutStep m n job (.erase .key)).read erasedByte (NvmUnit.key.base + b)
    (∀ b, b < 63 → b ≠ 32 → after b = Config.freeByte (n + b)) ∧
    (after 32 = Config.freeByte (n + 32) ∨ after 32 = 0xFF#8) ∧
    (after 32 = 0x00#8 → m.read erasedByte (NvmUnit.key.base + 32) = 0x00#8) := by
  have reads (b : Nat) (below : b < 63) := (read_cutErase_below (n := n) (job := job) h .key (show b + 1 < 64 by omega)).trans
    (read_settledKey (unknownErase_shows h n .key) (show b < 64 by omega))
  have free (b : Nat) (below : b < 63) : byteAt (unknownBytes n NvmUnit.key.size) b = Config.freeByte (n + b) :=
    byteAt_unknownBytes (show b < 64 by omega)
  have marker := reads 32 (by decide)
  refine ⟨fun b below other => ?_, ?_, fun shown => ?_⟩
  · exact (reads b below).trans ((if_neg fun hit => other hit.1).trans (free b below))
  · dsimp only
    rw [marker]
    split_ifs
    · exact .inr rfl
    · exact .inl (free 32 (by decide))
  · by_contra before
    dsimp only at shown
    rw [marker] at shown
    split_ifs at shown with hit
    · exact absurd shown (by decide)
    · exact hit ⟨rfl, shown, before⟩

/-- The three things a cut erase may leave of a page, its last byte apart (R139): no complete marker; the marker and the sequence of a page
that was valid and is not being formed; the marker taken away. -/
theorem cutPage_cases (h : m.wf erasedByte = true) (p : PageId) :
    let after (b : Nat) : Byte := (cutStep m n job (.erase (.page p))).read erasedByte ((NvmUnit.page p).base + b)
    let before (b : Nat) : Byte := m.read erasedByte ((NvmUnit.page p).base + b)
    let free (b : Nat) : Byte := Config.freeByte (n + b)
    (free 4 ≠ 0x3C#8 ∧ ∀ b, b < 1023 → after b = free b) ∨
    (free 4 = 0x3C#8 ∧ before 4 = 0x3C#8 ∧ job.forms ≠ some p ∧ ∀ b, b < 1023 → after b = if b < 4 then before b else free b) ∨
    ∀ b, b < 1023 → after b = if b = 4 then 0xFF#8 else free b := by
  have reads (b : Nat) (below : b < 1023) := (read_cutErase_below (n := n) (job := job) h (.page p) (show b + 1 < 1024 by omega)).trans
    (read_settledPage (unknownErase_shows h n (.page p)) (show b < 1024 by omega))
  have free (b : Nat) (below : b < 1023) : byteAt (unknownBytes n (NvmUnit.page p).size) b = Config.freeByte (n + b) :=
    byteAt_unknownBytes (show b < 1024 by omega)
  by_cases unmarked : byteAt (unknownBytes n (NvmUnit.page p).size) 4 ≠ 0x3C#8
  · refine .inl ⟨fun marked => unmarked ((free 4 (by decide)).trans marked), fun b below => ?_⟩
    exact (reads b below).trans ((if_pos unmarked).trans (free b below))
  · by_cases kept : m.read erasedByte ((NvmUnit.page p).base + 4) = 0x3C#8 ∧ job.forms ≠ some p
    · refine .inr (.inl ⟨(free 4 (by decide)).symm.trans (not_not.mp unmarked), kept.1, kept.2, fun b below => ?_⟩)
      refine (reads b below).trans ((if_neg unmarked).trans ((if_pos kept).trans ?_))
      rw [free b below]
    · refine .inr (.inr fun b below => ?_)
      refine (reads b below).trans ((if_neg unmarked).trans ((if_neg kept).trans ?_))
      rw [free b below]
      rfl

theorem cutPage_shows (h : m.wf erasedByte = true) (p : PageId) :
    let after (b : Nat) : Byte := (cutStep m n job (.erase (.page p))).read erasedByte ((NvmUnit.page p).base + b)
    let before (b : Nat) : Byte := m.read erasedByte ((NvmUnit.page p).base + b)
    (∀ b, 5 ≤ b → b < 1023 → after b = Config.freeByte (n + b)) ∧ (after 4 = Config.freeByte (n + 4) ∨ after 4 = 0xFF#8) ∧
    (after 4 ≠ 0x3C#8 → ∀ b, b < 4 → after b = Config.freeByte (n + b)) ∧
    (after 4 = 0x3C#8 → before 4 = 0x3C#8 ∧ (∀ b, b < 4 → after b = before b) ∧
      (∀ i rec q, job ≠ .compact i rec p q) ∧ ∀ i rec, job = .newPage i rec → p ≠ .a) := by
  dsimp only
  obtain ⟨unmarked, after⟩ | ⟨marked, was, notForming, after⟩ | after := cutPage_cases (n := n) (job := job) h p
  · have marker := after 4 (by decide)
    refine ⟨fun b _ below => after b below, .inl marker, fun _ b below => after b (by omega), fun marked => ?_⟩
    exact absurd (marker.symm.trans marked) unmarked
  · have marker := (after 4 (by decide)).trans (if_neg (by decide))
    rw [Ne, forms_iff] at notForming
    exact ⟨fun b low below => (after b below).trans (if_neg (by omega)), .inl marker, fun lost => absurd (marker.trans marked) lost,
      fun _ => ⟨was, fun b below => (after b (by omega)).trans (if_pos below), fun i rec q compact => notForming (.inl ⟨i, rec, q, compact⟩),
        fun i rec newPage isA => notForming (.inr ⟨isA, i, rec, newPage⟩)⟩⟩
  · have marker := (after 4 (by decide)).trans (if_pos rfl)
    refine ⟨fun b low below => (after b below).trans (if_neg (by omega)), .inr marker,
      fun _ b below => (after b (by omega)).trans (if_neg (by omega)), fun marked => ?_⟩
    exact absurd (marker.symm.trans marked) (by decide)

/-! ## What the next scan finds -/

theorem eq_other_of_ne {p x : PageId} (h : x ≠ p) : x = p.other := by
  cases p <;> cases x
  · exact absurd rfl h
  · rfl
  · rfl
  · exact absurd rfl h

/-- An erase leaves the other page as it was. -/
theorem samePage_of_leaves {p x : PageId} (leaves : (NvmStep.erase (.page p)).Leaves m job c) (other : x ≠ p) : SamePage x m c := by
  obtain rfl := eq_other_of_ne other
  have apart : (NvmUnit.page p).base + (NvmUnit.page p).size ≤ (NvmUnit.page p.other).base ∨
      (NvmUnit.page p.other).base + 1024 ≤ (NvmUnit.page p).base := base_other p
  exact fun y low high => leaves.1 y (by omega)

/-- The scan finds the same active page and rows after an erase of another page, however it ends (R128, R130, R139). -/
theorem scanned_of_leaves {p : PageId} (leaves : (NvmStep.erase (.page p)).Leaves m job c) (inactive : (scannedStore m).activePage ≠ some p) :
    (scannedStore c).activePage = (scannedStore m).activePage ∧ (scannedStore c).governing = (scannedStore m).governing := by
  rw [scanned_activePage] at inactive
  have same (x : PageId) (active : findActive m = some x) : SamePage x m c :=
    samePage_of_leaves leaves fun isP => inactive (isP ▸ active)
  have found : findActive c = findActive m := by
    refine findActive_keep same fun x _ valid => ?_
    by_cases isP : x = p
    · subst isP
      obtain ⟨was, _, sequence⟩ := leaves.2 x rfl valid
      exact ⟨was, sequence⟩
    · have keeps := samePage_of_leaves leaves isP
      exact ⟨keeps.valid.symm.trans valid, keeps.seq⟩
  refine ⟨found, ?_⟩
  rw [scanned_governing, scanned_governing, found]
  cases active : findActive m with
  | none => rfl
  | some x => exact scanRows_congr fun k inside => (same x active).slot inside

end

/-- Settles O5: nothing but the memory and the model's own items is kept, and a step in progress is cut short. -/
theorem powerOnResetKeepsOnlyTheMemory : Obligations.PowerOnResetKeepsOnlyTheMemory := by
  unfold Obligations.PowerOnResetKeepsOnlyTheMemory
  intro mv low s canonical
  refine ⟨volatileReset (cutShort s) .inReset { senseMv := mv, resetnLow := low } Params.default, rfl, ?_, fun idle => ?_,
    fun r run => ⟨fun a v current => ?_, fun u current => ?_⟩⟩
  · obtain ⟨nvm, free, cut⟩ := cutShort_eq s
    exact ⟨nvm, free, by rw [cut]; rfl⟩
  · rw [cutShort_of_none idle]
    exact ⟨rfl, rfl⟩
  all_goals
    have cut := cutShort_of_some run current
    have nvm := congrArg State.nvm cut
    refine ⟨congrArg State.freeIndex cut, ?_⟩
  · have shows := read_cutProgram (n := s.freeIndex) (job := r.job) canonical a v rfl rfl
    rw [show (volatileReset (cutShort s) .inReset { senseMv := mv, resetnLow := low } Params.default).nvm = _ from nvm]
    exact shows
  · rw [show (volatileReset (cutShort s) .inReset { senseMv := mv, resetnLow := low } Params.default).nvm = _ from nvm]
    have leaves := leaves_cutStep (job := r.job) canonical s.freeIndex (.erase u)
    refine ⟨leaves.1, cutErase_traced canonical u, read_cutErase_last canonical u, ?_, ?_⟩
    · rintro rfl
      exact cutKey_shows canonical
    · rintro p rfl
      obtain ⟨bytes, marker, unmarked, marked⟩ := cutPage_shows (n := s.freeIndex) (job := r.job) canonical p
      exact ⟨bytes, marker, unmarked, marked, scanned_of_leaves leaves⟩

end Sys2Proof.Machine

/-! The start-up and the scan (O6): R127 to R132, R140, R148, R149, R165. -/

namespace Sys2Proof.Machine

section
variable {s : State} {mv : Nat}

/-! ## The start-up -/

/-- A state as a start-up leaves it after the first measurement, without the SUPPLY record. -/
def measuredState (mv : Nat) (s : State) : State :=
  { State.reset with
    phase := .scanning, pins := { senseMv := mv, resetnLow := false }, params := s.params, nvm := s.nvm,
    freeIndex := s.freeIndex, pending := s.pending
    supply := { state := if releaseLevelMv s.params.supplyLevel < mv then .ok else .low, filter := none } }

/-- The first measurement, with the SUPPLY record of LOW (R148, R149). -/
def recordedState (mv : Nat) (s : State) : State :=
  if releaseLevelMv s.params.supplyLevel < mv then measuredState mv s else queueRecord (.supply .low) (measuredState mv s)

theorem firstMeasurement_eq (mv : Nat) (s : State) :
    firstMeasurement (volatileReset s .scanning { senseMv := mv, resetnLow := false } s.params) = recordedState mv s := by
  unfold firstMeasurement recordedState measuredState
  by_cases high : releaseLevelMv s.params.supplyLevel < mv
  · rw [if_pos high, if_pos high]
    exact if_pos high
  · rw [if_neg high, if_neg high]
    exact if_neg high

theorem touches_recordedState (mv : Nat) (s : State) : Touches reportParts (measuredState mv s) (recordedState mv s) := by
  unfold recordedState
  split
  · exact .refl _ _
  · exact touches_queueRecord _ _

theorem startScan_of_clean {c : StartCause} (clean : scrubUnits s.nvm = []) :
    startScan c s = (queueRecord (.restarted c (scanResult s.nvm)) (s.withStore (scannedStore s.nvm))).withPhase .running := by
  unfold startScan
  dsimp only
  rw [clean]
  rfl

/-- The scrubs begin at once while the supply is OK, and wait while it is LOW (R131, R133). -/
theorem startScan_of_scrubs {c : StartCause} (scrubs : scrubUnits s.nvm ≠ []) (running : s.interp.restartIssued = false) :
    startScan c s = s.withStore { scannedStore s.nvm with
      run := some { job := .scan c, steps := (scrubUnits s.nvm).map .erase, stepping := supplyOk s } } := by
  unfold startScan
  dsimp only
  cases units : scrubUnits s.nvm with
  | nil => exact absurd units scrubs
  | cons u us =>
    dsimp only
    rw [startStep_of_run rfl rfl]
    cases supply : s.supply.state with
    | ok =>
      rw [if_pos ⟨rfl, supply, running⟩, supplyOk_of_ok supply]
      rfl
    | low =>
      rw [if_neg fun due => SupplyState.noConfusion (supply.symm.trans due.2.1), supplyOk_of_low supply]

theorem execStartUp_of_due {cause : StartCause} (high : 6000 ≤ mv)
    (due : (s.phase = .inReset ∧ cause = .power) ∨
      (s.phase ≠ .inReset ∧ s.interp.restartIssued = true ∧ stepInProgress s = none ∧ cause = .request)) :
    exec (.startUp mv) s = .next (beginStartUp cause mv s) := by
  have reset : ¬ mv < resetLevelMv := Nat.not_lt.mpr high
  obtain ⟨held, rfl⟩ | ⟨running, issued, idle, rfl⟩ := due
  · exact (if_neg reset).trans (if_pos held)
  · exact (if_neg reset).trans ((if_neg running).trans (if_pos ⟨issued, idle⟩))

/-! ## Slots -/

theorem checkSumOk_iff (bs : List Byte) : checkSumOk bs = true ↔ byteSum bs % 256 = 0x5A := by
  unfold checkSumOk checkTarget
  exact beq_iff_eq

/-- The version record in a slot's bytes (R127). -/
def recordIn (bs : List Byte) : VersionRecord :=
  { target := BitVec.ofNat 16 (fieldAt bs 0 2), version := BitVec.ofNat 32 (fieldAt bs 2 4)
    floor := BitVec.ofNat 32 (fieldAt bs 6 4), count := fieldAt bs 10 2 }

theorem recordIn_eq_iff (bs : List Byte) (r : VersionRecord) : recordIn bs = r ↔
    r.target.toNat = fieldAt bs 0 2 ∧ r.version.toNat = fieldAt bs 2 4 ∧ r.floor.toNat = fieldAt bs 6 4 ∧ r.count = fieldAt bs 10 2 := by
  have target := toNat_ofNat_fieldAt bs 0 2 16 (by decide)
  have version := toNat_ofNat_fieldAt bs 2 4 32 (by decide)
  have floor := toNat_ofNat_fieldAt bs 6 4 32 (by decide)
  refine ⟨?_, fun ⟨t, v, f, c⟩ => ?_⟩
  · rintro rfl
    exact ⟨target, version, floor, rfl⟩
  · obtain ⟨rt, rv, rf, rc⟩ := r
    unfold recordIn
    rw [VersionRecord.mk.injEq]
    exact ⟨BitVec.eq_of_toNat_eq (target.trans t.symm), BitVec.eq_of_toNat_eq (version.trans v.symm),
      BitVec.eq_of_toNat_eq (floor.trans f.symm), c.symm⟩

theorem readSlotBytes_of_erased {bs : List Byte} (erased : ∀ b ∈ bs, b = 0xFF#8) : readSlotBytes bs = .free :=
  if_pos (List.all_eq_true.mpr fun b held => beq_iff_eq.mpr (erased b held))

theorem readSlotBytes_of_written {bs : List Byte} (written : ¬ ∀ b ∈ bs, b = 0xFF#8) : readSlotBytes bs =
    if byteAt bs 15 = 0x00#8 ∧ byteSum (bs.take 15) % 256 = 0x5A then .good (recordIn bs) else .torn := by
  have notAll : ¬ bs.all (· == erasedByte) = true := fun all => written fun b held => beq_iff_eq.mp (List.all_eq_true.mp all b held)
  exact (if_neg notAll).trans (if_congr (and_congr_right' (checkSumOk_iff _)) rfl rfl)

theorem readSlotBytes_free_iff (bs : List Byte) : readSlotBytes bs = .free ↔ ∀ b ∈ bs, b = 0xFF#8 := by
  refine ⟨fun free => ?_, readSlotBytes_of_erased⟩
  by_contra written
  rw [readSlotBytes_of_written written] at free
  split_ifs at free

theorem readSlotBytes_good_iff {bs : List Byte} (length : bs.length = 16) (r : VersionRecord) :
    readSlotBytes bs = .good r ↔ byteAt bs 15 = 0x00#8 ∧ byteSum (bs.take 15) % 256 = 0x5A ∧ recordIn bs = r := by
  by_cases erased : ∀ b ∈ bs, b = 0xFF#8
  · rw [readSlotBytes_of_erased erased]
    refine ⟨nofun, fun ⟨marker, _⟩ => ?_⟩
    rw [byteAt_of_lt (by omega), erased _ (List.getElem_mem _)] at marker
    exact absurd marker (by decide)
  · rw [readSlotBytes_of_written erased, ← and_assoc]
    split
    next good => simp only [good, and_self, true_and, SlotReading.good.injEq]
    next bad => exact ⟨nofun, fun h => absurd h.1 bad⟩

/-! ## What the scan reads -/

section
variable {m : Memory}

theorem toNat_pageSequence (m : Memory) (p : PageId) :
    (pageSequence m p).toNat = beValue (m.readAll erasedByte (NvmUnit.page p).base 4) := by
  have small := beValue_lt (m.readAll erasedByte (NvmUnit.page p).base 4)
  unfold Memory.readAll at small
  rw [List.length_map, List.length_range] at small
  exact (BitVec.toNat_ofNat _ 32).trans (Nat.mod_eq_of_lt small)

/-- A valid page with the higher sequence is the active one (R128). -/
theorem findActive_of_higher {p : PageId} (valid : pageValid m p = true)
    (higher : pageValid m p.other = true → (pageSequence m p.other).toNat < (pageSequence m p).toNat) : findActive m = some p := by
  refine (findActive_some_iff m p).mpr ⟨valid, fun other => ?_⟩
  cases p with
  | a => exact Nat.le_of_lt (higher other)
  | b => exact higher other

section
variable {p : PageId} (active : findActive m = some p)
include active

theorem scanned_governing_of_active : (scannedStore m).governing = scanRows m p := by
  rw [scanned_governing, active]

theorem scanned_appendPos_of_active : (scannedStore m).appendPos = scanAppend m p := by
  unfold scannedStore
  dsimp only
  rw [active]

theorem scanned_activeSeq_of_active : (scannedStore m).activeSeq = some (pageSequence m p) := by
  rw [scanned_activeSeq, active, Option.map_some]

theorem scanResult_of_active : scanResult m = if pageTorn m p then .recovered else .clean := by
  unfold scanResult
  rw [active]

end

theorem pageTorn_iff (m : Memory) (p : PageId) : pageTorn m p = true ↔ ∃ n, n < 63 ∧ readSlot m p n = .torn := by
  unfold pageTorn pageSlots
  simp only [List.any_eq_true, List.mem_range, beq_iff_eq]

theorem scanned_of_noPage (none : findActive m = none) :
    (scannedStore m).activeSeq = Option.none ∧ (scannedStore m).governing = [] ∧ (scannedStore m).appendPos = 0 ∧
      scanResult m = .empty := by
  unfold scannedStore scanResult
  rw [none]
  exact ⟨rfl, rfl, rfl, rfl⟩

theorem scanned_erasedFlag (m : Memory) (p : PageId) :
    (scannedStore m).erasedFlag p = true ↔ findActive m ≠ some p ∧ unitErased m (.page p) = true := by
  cases p <;> exact (Bool.and_eq_true _ _).to_iff.trans (and_congr bne_iff_ne Iff.rfl)

theorem mem_scrubUnits_page (m : Memory) (p : PageId) :
    .page p ∈ scrubUnits m ↔ findActive m ≠ some p ∧ ¬ unitErased m (.page p) = true := by
  have listed : NvmUnit.page p ∈ [NvmUnit.page .a, NvmUnit.page .b] := by cases p <;> decide
  have noKey : NvmUnit.page p ∉ (if !keyMarked m && !unitErased m .key then [NvmUnit.key] else []) := by
    split_ifs <;> simp
  unfold scrubUnits
  rw [List.mem_append, or_iff_left noKey, List.mem_filter, and_iff_right listed, Bool.and_eq_true, Bool.not_eq_true', Bool.not_eq_true]
  refine and_congr ?_ Iff.rfl
  cases findActive m with
  | none => simp
  | some q =>
    dsimp only
    rw [bne_iff_ne, Ne, Ne, NvmUnit.page.injEq, Option.some.injEq, eq_comm]

theorem mem_scrubUnits_key (m : Memory) : .key ∈ scrubUnits m ↔ ¬ keyMarked m = true ∧ ¬ unitErased m .key = true := by
  have noPage (f : NvmUnit → Bool) : NvmUnit.key ∉ [NvmUnit.page .a, NvmUnit.page .b].filter f :=
    fun held => absurd (List.mem_of_mem_filter held) (by decide)
  unfold scrubUnits
  rw [List.mem_append, or_iff_right (noPage _)]
  split_ifs with due <;> simpa using due

theorem scrubUnits_sublist (m : Memory) : (scrubUnits m).Sublist [.page .a, .page .b, .key] := by
  have key : (if !keyMarked m && !unitErased m .key then [NvmUnit.key] else []).Sublist [NvmUnit.key] := by
    split_ifs
    · exact .refl _
    · exact List.nil_sublist _
  exact List.filter_sublist.append key

theorem keyMarked_iff (m : Memory) : keyMarked m = true ↔ m.read erasedByte (NvmUnit.key.base + 32) = 0x00#8 := beq_iff_eq

theorem unitErased_iff (h : m.wf erasedByte = true) (u : NvmUnit) :
    unitErased m u = true ↔ ∀ b, b < u.size → m.read erasedByte (u.base + b) = 0xFF#8 := Memory.isClear_iff h u.base u.size

end

end

/-- Settles O6: the measurement and the beginning of the scan; what a slot's bytes read; what the scan reads of the memory. -/
theorem startUpMeasuresAndScans : Obligations.StartUpMeasuresAndScans := by
  unfold Obligations.StartUpMeasuresAndScans
  refine ⟨fun mv s cause high due => ?_, fun bs length => ⟨readSlotBytes_free_iff bs, fun r => ?_⟩, fun m canonical => ?_⟩
  · have touched := touches_recordedState mv s
    have nvm : (recordedState mv s).nvm = s.nvm := touched .nvm (by decide)
    have interp : (recordedState mv s).interp = Interp.idle := touched .interp (by decide)
    have supply : (recordedState mv s).supply = (measuredState mv s).supply := touched .supply (by decide)
    refine ⟨_, measuredState mv s, (recordedState mv s).withStore { scannedStore s.nvm with run := none },
      execStartUp_of_due high due, rfl, rfl, fun clean => ?_, fun scrubs => ?_⟩
    all_goals
      unfold beginStartUp
      rw [firstMeasurement_eq]
    · rw [startScan_of_clean (by rw [nvm]; exact clean), nvm]
      rfl
    · rw [startScan_of_scrubs (by rw [nvm]; exact scrubs) (by rw [interp]; rfl), nvm, supplyOk, supply]
      rfl
  · rw [readSlotBytes_good_iff length, recordIn_eq_iff]
  · have valid (p : PageId) : m.read erasedByte ((NvmUnit.page p).base + 4) = 0x3C#8 ↔ pageValid m p = true := pageValid_iff.symm
    dsimp only
    simp only [valid, ← unitErased_iff canonical, ← keyMarked_iff, ← toNat_pageSequence]
    refine ⟨?_, fun p pageIsValid higher => findActive_of_higher pageIsValid higher, fun none => ?_, fun p active => ?_,
      scanned_erasedFlag m, fun marked => if_pos marked, fun unmarked => if_neg unmarked, rfl, rfl, mem_scrubUnits_page m, mem_scrubUnits_key m, scrubUnits_sublist m,
      fun none => (scanned_of_noPage none).2.2.2, fun p active => ?_⟩
    · exact (findActive_none_iff m).trans (forall_congr' fun p => (Bool.not_eq_true _).symm.to_iff)
    · obtain ⟨sequence, rows, position, _⟩ := scanned_of_noPage none
      exact ⟨sequence, rows, position⟩
    · rw [scanned_governing_of_active active, scanned_appendPos_of_active active, scanned_activeSeq_of_active active]
      exact ⟨((findActive_some_iff m p).mp active).1, rfl, mem_scanRows m p, sorted_scanRows m p, scanAppend_spec m p⟩
    · rw [scanResult_of_active active]
      exact ⟨fun torn => if_pos ((pageTorn_iff m p).mpr torn),
        fun sound => if_neg fun torn => ((pageTorn_iff m p).mp torn).elim fun n bad => sound n bad.1 bad.2⟩

end Sys2Proof.Machine
